-- ==== Sys2Proof/Word.lean ====
section
/-! DEFINITION. Word types of the W7 and their plainest arithmetic (00_scope R4, R11, R12). -/

namespace Sys2Proof

/-- One byte. -/
abbrev Byte := BitVec 8
/-- A 32-bit scalar register, lane or literal half. -/
abbrev W32 := BitVec 32
/-- A 64-bit word: an instruction, a pair, a tick, a semaphore. -/
abbrev W64 := BitVec 64
/-- A 128-bit handle image or table entry. -/
abbrev W128 := BitVec 128

/-- `Bits(x, n)` of R12 for an integer of unbounded width. -/
def bitsOf (n : Nat) (x : Int) : Nat := (x % (2 ^ n : Nat)).toNat

/-- `Sext(b, n)` of R12: the two's-complement reading of the low `n` bits of `b`. -/
def sext (n : Nat) (b : Nat) : Int :=
  let m := b % 2 ^ n
  if n = 0 then 0 else if m < 2 ^ (n - 1) then (m : Int) else (m : Int) - (2 ^ n : Nat)

/-- `Sat(x, lo, hi)` of R12. -/
def satInt (x lo hi : Int) : Int := if x < lo then lo else if hi < x then hi else x

/-- Bits `[lo + n - 1 : lo]` of `x` (R4), as a number. -/
def field (x lo n : Nat) : Nat := x / 2 ^ lo % 2 ^ n

/-- Bit `i` of `x`. -/
def bitAt (x i : Nat) : Bool := x / 2 ^ i % 2 == 1

/-- `x` with bits `[lo + n - 1 : lo]` replaced by the low bits of `v`. -/
def putField (x lo n v : Nat) : Nat :=
  x - field x lo n * 2 ^ lo + (v % 2 ^ n) * 2 ^ lo

/-- The number whose little-endian bytes are `bs` (R4). -/
def leNat : List Byte → Nat
  | [] => 0
  | b :: bs => b.toNat + 256 * leNat bs

/-- The `n` little-endian bytes of `x` (R4). -/
def leBytes : Nat → Nat → List Byte
  | 0, _ => []
  | n + 1, x => BitVec.ofNat 8 x :: leBytes n (x / 256)

end Sys2Proof
end

