-- ==== Sys2Proof/Syntax.lean ====
section
/-! DEFINITION. The syntax of the W7's steps: instruction forms (04 R101-R106), variants (R112-R116), matrix
microinstructions (12 R296), fabric packets (16 R366), and one constructor of `Instr` per row of the table of steps. -/

namespace Sys2Proof

/-- The fields every instruction word carries in bits [19:9] (R101). -/
structure Common where
  gneg : BitVec 1
  guard : BitVec 7
  idle : BitVec 3
  deriving DecidableEq, Repr

/-- Form T (R102). -/
structure TForm where
  c : Common
  mod : BitVec 9
  lu2 : BitVec 1
  src2 : BitVec 8
  lu1 : BitVec 1
  src1 : BitVec 8
  lu0 : BitVec 1
  src0 : BitVec 8
  dst : BitVec 8
  deriving DecidableEq, Repr

/-- Form I (R103). -/
structure IForm where
  c : Common
  mod : BitVec 11
  imm : BitVec 16
  lu0 : BitVec 1
  src0 : BitVec 8
  dst : BitVec 8
  deriving DecidableEq, Repr

/-- Form B (R104). -/
structure BForm where
  c : Common
  off : BitVec 29
  bmod : BitVec 6
  luc : BitVec 1
  cond : BitVec 8
  deriving DecidableEq, Repr

/-- Form M (R105). -/
structure MForm where
  c : Common
  mod : BitVec 6
  lud : BitVec 1
  sb : BitVec 3
  imm : BitVec 12
  luo : BitVec 1
  off : BitVec 8
  h : BitVec 5
  d : BitVec 8
  deriving DecidableEq, Repr

/-- Form X (R106). -/
structure XForm where
  c : Common
  mod : BitVec 7
  sb : BitVec 3
  xd : BitVec 8
  luc : BitVec 1
  xc : BitVec 8
  lub : BitVec 1
  xb : BitVec 8
  xa : BitVec 8
  deriving DecidableEq, Repr

/-- The form and width of a scalar integer instruction (R112, R185). -/
inductive AluForm where
  | t (w64 : Bool) (f : TForm)
  | i (w64 : Bool) (f : IForm)
  deriving DecidableEq, Repr

/-- The variants of `smovi` (R112, R185). -/
inductive MoviKind where
  | i32 | n32 | i64
  deriving DecidableEq, Repr

/-- `pmov` in form T or with an immediate (R196). -/
inductive PmovForm where
  | t (f : TForm)
  | i (f : IForm)
  deriving DecidableEq, Repr

/-- `sem.sig` in form X or with an immediate (R336). -/
inductive SemSigForm where
  | x (f : XForm)
  | i (f : IForm)
  deriving DecidableEq, Repr

/-- The four types of the floating-point arithmetic instructions (R113). -/
inductive FVar where
  | f32 | f64 | f16x2 | bf16x2
  deriving DecidableEq, Repr

/-- The three types of `vrcp` and `vsqrt` (R229). -/
inductive F3 where
  | f32 | f16x2 | f64
  deriving DecidableEq, Repr

/-- Destination types of `vcvt` in opcode order (R113). -/
inductive CvtDst where
  | f64 | f32 | f16 | bf16 | e4m3 | e5m2 | e3m2 | e2m3 | e2m1
  | i8 | i16 | i32 | i64 | n8 | n16 | n32 | n64
  deriving DecidableEq, Repr

/-- Element widths of `vpack` and `vunpack` (R233). -/
inductive PackKind where
  | e2m1 | e3m2 | b8 | b16
  deriving DecidableEq, Repr

/-- Element types of `vmxq` and `vmxd` (R236). -/
inductive MxKind where
  | e4m3 | e5m2 | e3m2 | e2m3 | e2m1 | i8
  deriving DecidableEq, Repr

/-- Operations of `vred` and `vscan` in opcode order (R113, R239). -/
inductive RedOp where
  | addI32 | addI64 | addF32 | addF64 | minI32 | maxI32 | minN32 | maxN32 | minF32 | maxF32 | andB32 | orB32 | xorB32
  deriving DecidableEq, Repr

/-- Sizes `.b8 .b16 .b32 .b64 .b128` (R114). -/
inductive Size5 where
  | b8 | b16 | b32 | b64 | b128
  deriving DecidableEq, Repr

/-- Sizes `.b32 .b64 .b128` of `ldw.g` and `stw.g` (R114). -/
inductive SizeW where
  | b32 | b64 | b128
  deriving DecidableEq, Repr

/-- Sizes `.b8 .b16 .b32 .b64` of `ld.gs` and `st.gs` (R114). -/
inductive Size4 where
  | b8 | b16 | b32 | b64
  deriving DecidableEq, Repr

/-- Sizes `.b16 .b32 .b64` of `ld.p` and `st.p` (R114). -/
inductive SizeP where
  | b16 | b32 | b64
  deriving DecidableEq, Repr

/-- The part of a ring register that `rset` and `rget` name (R312). -/
inductive RingPart where
  | base | geom | ptr | bar | all
  deriving DecidableEq, Repr

/-- The fields [57:0] of a matrix microinstruction (R296); each op reads the fields its table row lists. -/
abbrev MuWord := BitVec 58

/-- A Pyrrath packet: the header flit's fields (R366), the header's reserved bits, and the data flits' bytes. -/
structure Packet where
  opcode : Nat
  addr : Nat
  lanes : W32
  value : W64
  tag : Nat
  ftid : Nat
  dst : Nat
  src : Nat
  vsem : Nat
  ndata : Nat
  op : Nat
  esize : Nat
  status : Nat
  hops : Nat
  reserved : Nat
  data : List Byte
  deriving DecidableEq, Repr

/-- Where an error that ECC cannot correct arises (R157, R287, R458). -/
inductive ErrorSite where
  | vreg (unit slot reg : Nat) (lanes : W32)
  | sreg (unit slot entry reg : Nat)
  | preg (unit slot reg : Nat)
  | hreg (unit slot entry reg : Nat)
  | acc (unit slot elem : Nat)
  | granule (addr : Nat)
  | spm (unit offset : Nat)
  deriving DecidableEq, Repr

/-- The steps of the W7, one constructor per row of the table: instruction words and microinstructions with their
fields, then received packets, host and device events. An event's operands (a queue number, a packet) are held in the
state's event register (`Machine.EventArg`), as the hub's ports hold them: the spec gives events no encoding, and Lean's
compiler allows 245 constructors with fields. -/
inductive Instr where
  /-- SADD (R185). Scalar add, wrapping or saturating. -/
  | sadd (o : AluForm)
  /-- SSUB (R185). Scalar subtract, wrapping or saturating. -/
  | ssub (o : AluForm)
  /-- SMUL (R185). Scalar multiply, low half. -/
  | smul (o : AluForm)
  /-- SMULH (R185). Scalar multiply, high half, signed or unsigned. -/
  | smulh (o : AluForm)
  /-- SDIV (R187). Long-latency scalar divide into a slot. -/
  | sdiv (o : AluForm)
  /-- SREM (R187). Long-latency scalar remainder into a slot. -/
  | srem (o : AluForm)
  /-- SAND (R185). Scalar bitwise and. -/
  | sand (o : AluForm)
  /-- SOR (R185). Scalar bitwise or. -/
  | sor (o : AluForm)
  /-- SXOR (R185). Scalar bitwise exclusive or. -/
  | sxor (o : AluForm)
  /-- SANDN (R185). Scalar and with complement. -/
  | sandn (o : AluForm)
  /-- SSHL (R186). Scalar shift left. -/
  | sshl (o : AluForm)
  /-- SSHR (R186). Scalar logical shift right. -/
  | sshr (o : AluForm)
  /-- SSRA (R186). Scalar arithmetic shift right. -/
  | ssra (o : AluForm)
  /-- SMIN (R185). Scalar minimum. -/
  | smin (o : AluForm)
  /-- SMAX (R185). Scalar maximum. -/
  | smax (o : AluForm)
  /-- SCLZ (R185). Scalar count leading zeros. -/
  | sclz (o : AluForm)
  /-- SPOP (R185). Scalar population count. -/
  | spop (o : AluForm)
  /-- SBFX (R186). Scalar bit-field extract. -/
  | sbfx (o : AluForm)
  /-- SBFI (R186). Scalar bit-field insert. -/
  | sbfi (o : AluForm)
  /-- SSEL (R185). Scalar select on a condition. -/
  | ssel (o : AluForm)
  /-- SCMP (R188). Scalar compare writing 1 or 0. -/
  | scmp (o : AluForm)
  /-- SMOV (R185). Scalar move. -/
  | smov (o : AluForm)
  /-- SMOVI (R185). Scalar move of a sign- or zero-extended immediate. -/
  | smovi (k : MoviKind) (f : IForm)
  /-- SMOVI_HI (R185). Places an immediate in the upper 16 bits, keeping the source's low 16. -/
  | smoviHi (f : IForm)
  /-- BR (R189). Unconditional branch. -/
  | br (f : BForm)
  /-- BZ (R189). Branch if the condition is zero. -/
  | bz (w64 : Bool) (f : BForm)
  /-- BNZ (R189). Branch if the condition is non-zero. -/
  | bnz (w64 : Bool) (f : BForm)
  /-- BL (R189). Branch and link into (s63, s62). -/
  | bl (f : BForm)
  /-- JR (R190). Jump to a register target. -/
  | jr (f : TForm)
  /-- JL (R190). Jump to a register target and link. -/
  | jl (f : TForm)
  /-- SPLIT (R134). Divides a sub-group by a predicate into two sub-groups. -/
  | split (f : BForm)
  /-- FUSE (R135). Waits for the sibling side and merges the two sub-groups. -/
  | fuse (f : TForm)
  /-- EXIT (R192). Ends the sub-group; the group exits with its implicit drops when all entries have exited. -/
  | exit (f : TForm)
  /-- YIELD (R193). Lowers the sub-group's issue-selection priority for the next cycle. -/
  | yield (f : TForm)
  /-- NOP (R193). No effect beyond its idle count. -/
  | nop (f : TForm)
  /-- SWAIT (R194). Waits on the named slots and lands their results. -/
  | swait (f : IForm)
  /-- TRAP (R195). Raises a software trap. -/
  | trap (f : IForm)
  /-- BRK (R195). Raises a breakpoint trap. -/
  | brk (f : IForm)
  /-- PAND (R196). Predicate and. -/
  | pand (f : TForm)
  /-- POR (R196). Predicate or. -/
  | por (f : TForm)
  /-- PXOR (R196). Predicate exclusive or. -/
  | pxor (f : TForm)
  /-- PANDN (R196). Predicate and with complement. -/
  | pandn (f : TForm)
  /-- PNOT (R196). Predicate not. -/
  | pnot (f : TForm)
  /-- PMOV (R196). Predicate move from a predicate or an immediate. -/
  | pmov (o : PmovForm)
  /-- PFROMS (R196). Predicate from scalar bits. -/
  | pfroms (f : TForm)
  /-- PTOS (R196). Scalar from predicate bits of amask. -/
  | ptos (f : TForm)
  /-- PANY (R196). 1 if any amask lane of the predicate is set. -/
  | pany (f : TForm)
  /-- PALL (R196). 1 if every amask lane of the predicate is set. -/
  | pall (f : TForm)
  /-- PPOP (R196). Counts set predicate lanes of amask. -/
  | ppop (f : TForm)
  /-- SGET (R197). Reads a special register. -/
  | sget (w64 : Bool) (f : IForm)
  /-- SSET (R197). Writes a special register. -/
  | sset (w64 : Bool) (f : IForm)
  /-- ACQ_REG_W (R201). Blocking acquisition of register blocks through the claim checker. -/
  | acqRegW (f : XForm)
  /-- ACQ_REG_T (R201). Trying acquisition of register blocks. -/
  | acqRegT (f : XForm)
  /-- ACQ_SPM_W (R201). Blocking acquisition of scratchpad granules. -/
  | acqSpmW (f : XForm)
  /-- ACQ_SPM_T (R201). Trying acquisition of scratchpad granules. -/
  | acqSpmT (f : XForm)
  /-- ACQ_MSL_W (R201). Blocking acquisition of matrix slots. -/
  | acqMslW (f : XForm)
  /-- ACQ_MSL_T (R201). Trying acquisition of matrix slots. -/
  | acqMslT (f : XForm)
  /-- REL_REG (R203). Releases logical register blocks to the checker. -/
  | relReg (f : XForm)
  /-- REL_SPM (R203). Releases the highest granules, waiting for accesses in flight, and drops their banks. -/
  | relSpm (f : XForm)
  /-- REL_MSL (R203). Releases matrix slots once their routines complete. -/
  | relMsl (f : XForm)
  /-- RWAKE (R204). Wakes a register or scratchpad bank, completing its slot when on. -/
  | rwake (f : XForm)
  /-- RSLEEP (R205). Holds the group for a number of cycles. -/
  | rsleep (f : XForm)
  /-- SPDROP (R206). Drops every scratchpad bank wholly inside a range. -/
  | spdrop (f : XForm)
  /-- LAUNCH (R209). Submits a launch descriptor for acceptance and returns its number and status. -/
  | launch (f : XForm)
  /-- LQUERY (R210). Returns a launch's state and retired block count. -/
  | lquery (f : XForm)
  /-- OBJMAP_ENT (R211). Writes an object table entry. -/
  | objmapEnt (f : XForm)
  /-- OBJMAP_EXT (R211). Writes an extent of an object. -/
  | objmapExt (f : XForm)
  /-- OBJMAP_MV (R212). Relocates one extent with its data, tags and poison. -/
  | objmapMv (f : XForm)
  /-- OBJINV (R213). Invalidates cached copies of one object's entry, extents and code. -/
  | objinv (f : XForm)
  /-- OBJINV_CTX (R213). Invalidates cached copies for every object of the context. -/
  | objinvCtx (f : XForm)
  /-- SEMMAP (R214). Writes a virtual semaphore map entry. -/
  | semmap (f : XForm)
  /-- SEMMAP_Q (R214). Returns a virtual semaphore map entry. -/
  | semmapQ (f : XForm)
  /-- HMINT (R215). Mints a handle from the object table entry. -/
  | hmint (f : XForm)
  /-- VADD (R221). Vector integer add. -/
  | vadd (w64 : Bool) (f : TForm)
  /-- VSUB (R221). Vector integer subtract. -/
  | vsub (w64 : Bool) (f : TForm)
  /-- VMUL (R221). Vector integer multiply. -/
  | vmul (w64 : Bool) (f : TForm)
  /-- VMULH (R221). Vector integer multiply high. -/
  | vmulh (w64 : Bool) (f : TForm)
  /-- VMAD (R221). Vector integer multiply-add. -/
  | vmad (w64 : Bool) (f : TForm)
  /-- VAND (R221). Vector bitwise and. -/
  | vand (w64 : Bool) (f : TForm)
  /-- VOR (R221). Vector bitwise or. -/
  | vor (w64 : Bool) (f : TForm)
  /-- VXOR (R221). Vector bitwise exclusive or. -/
  | vxor (w64 : Bool) (f : TForm)
  /-- VANDN (R221). Vector and with complement. -/
  | vandn (w64 : Bool) (f : TForm)
  /-- VSHL (R221). Vector shift left. -/
  | vshl (w64 : Bool) (f : TForm)
  /-- VSHR (R221). Vector logical shift right. -/
  | vshr (w64 : Bool) (f : TForm)
  /-- VSRA (R221). Vector arithmetic shift right. -/
  | vsra (w64 : Bool) (f : TForm)
  /-- VMIN (R221). Vector integer minimum. -/
  | vmin (w64 : Bool) (f : TForm)
  /-- VMAX (R221). Vector integer maximum. -/
  | vmax (w64 : Bool) (f : TForm)
  /-- VABS (R221). Vector integer absolute value. -/
  | vabs (w64 : Bool) (f : TForm)
  /-- VCLZ (R221). Vector count leading zeros. -/
  | vclz (w64 : Bool) (f : TForm)
  /-- VPOP (R221). Vector population count. -/
  | vpop (w64 : Bool) (f : TForm)
  /-- VBFX (R221). Vector bit-field extract. -/
  | vbfx (w64 : Bool) (f : TForm)
  /-- VBFI (R221). Vector bit-field insert. -/
  | vbfi (w64 : Bool) (f : TForm)
  /-- VSEL (R221). Vector select by predicate. -/
  | vsel (w64 : Bool) (f : TForm)
  /-- VMOV (R221). Vector move. -/
  | vmov (w64 : Bool) (f : TForm)
  /-- VMOVS (R221). Broadcasts a scalar to every active lane. -/
  | vmovs (w64 : Bool) (f : TForm)
  /-- VMOVS_GET (R223). Reads the lowest active lane into a scalar. -/
  | vmovsGet (w64 : Bool) (f : TForm)
  /-- VCMP (R222). Vector integer compare into a predicate over amask. -/
  | vcmp (w64 : Bool) (f : TForm)
  /-- VFADD (R224). Vector floating-point add. -/
  | vfadd (t : FVar) (f : TForm)
  /-- VFSUB (R224). Vector floating-point subtract. -/
  | vfsub (t : FVar) (f : TForm)
  /-- VFMUL (R224). Vector floating-point multiply. -/
  | vfmul (t : FVar) (f : TForm)
  /-- VFMA (R224). Vector fused multiply-add. -/
  | vfma (t : FVar) (f : TForm)
  /-- VFMIN (R225). Vector floating-point minimum. -/
  | vfmin (t : FVar) (f : TForm)
  /-- VFMAX (R225). Vector floating-point maximum. -/
  | vfmax (t : FVar) (f : TForm)
  /-- VFRND (R225). Rounds to an integral value in the element's format. -/
  | vfrnd (t : FVar) (f : TForm)
  /-- VFCLASS (R226). Writes a one-hot floating-point class mask. -/
  | vfclass (t : FVar) (f : TForm)
  /-- VFCMP (R227). Vector floating-point compare into a predicate. -/
  | vfcmp (t : FVar) (f : TForm)
  /-- VFDOT2 (R228). Two-element dot product plus an f32 addend. -/
  | vfdot2 (bf : Bool) (f : TForm)
  /-- VRCP (R229). Long-latency reciprocal. -/
  | vrcp (t : F3) (f : TForm)
  /-- VRSQRT (R229). Long-latency reciprocal square root. -/
  | vrsqrt (h : Bool) (f : TForm)
  /-- VSQRT (R229). Long-latency square root. -/
  | vsqrt (t : F3) (f : TForm)
  /-- VEXP2 (R229). Long-latency base-2 exponential. -/
  | vexp2 (h : Bool) (f : TForm)
  /-- VLOG2 (R229). Long-latency base-2 logarithm. -/
  | vlog2 (h : Bool) (f : TForm)
  /-- VSIN (R229). Long-latency sine of revolutions. -/
  | vsin (h : Bool) (f : TForm)
  /-- VCOS (R229). Long-latency cosine of revolutions. -/
  | vcos (h : Bool) (f : TForm)
  /-- VCVT (R232). Converts one value per lane between types. -/
  | vcvt (d : CvtDst) (int : Bool) (f : TForm)
  /-- VPACK (R235). Packs narrow elements into a stream over amask. -/
  | vpack (k : PackKind) (f : TForm)
  /-- VUNPACK (R234). Unpacks narrow elements one per lane. -/
  | vunpack (k : PackKind) (f : TForm)
  /-- VMXQ (R236). Quantises active lanes into an MX block with a shared scale. -/
  | vmxq (k : MxKind) (f : TForm)
  /-- VMXD (R237). Dequantises MX elements to f32. -/
  | vmxd (k : MxKind) (f : TForm)
  /-- VPERM (R238). Lane permute by index. -/
  | vperm (w64 : Bool) (f : TForm)
  /-- VXSHF (R238). Lane exchange by xor index. -/
  | vxshf (w64 : Bool) (f : TForm)
  /-- VROT (R238). Lane rotate. -/
  | vrot (w64 : Bool) (f : TForm)
  /-- VBCL (R238). Broadcast of one lane. -/
  | vbcl (w64 : Bool) (f : TForm)
  /-- VRED (R239). Reduces active lanes into a scalar. -/
  | vred (o : RedOp) (f : TForm)
  /-- VSCAN (R239). Inclusive scan over active lanes. -/
  | vscan (o : RedOp) (f : TForm)
  /-- VCOMPRESS (R240). Compresses active lanes into the low lanes of amask. -/
  | vcompress (w64 : Bool) (f : TForm)
  /-- VEXPAND (R240). Expands low amask lanes into active lanes. -/
  | vexpand (w64 : Bool) (f : TForm)
  /-- LD_G (R266). Vector load through a handle, one offset per lane. -/
  | ldG (z : Size5) (f : MForm)
  /-- ST_G (R268). Vector store through a handle, one offset per lane. -/
  | stG (z : Size5) (f : MForm)
  /-- LDW_G (R266). Vector load of consecutive elements across lanes. -/
  | ldwG (z : SizeW) (f : MForm)
  /-- STW_G (R268). Vector store of consecutive elements across lanes. -/
  | stwG (z : SizeW) (f : MForm)
  /-- LD_GS (R266). Scalar load through a handle. -/
  | ldGs (z : Size4) (f : MForm)
  /-- ST_GS (R268). Scalar store through a handle. -/
  | stGs (z : Size4) (f : MForm)
  /-- LD_L (R266). Load from the block scratchpad. -/
  | ldL (z : Size5) (f : MForm)
  /-- ST_L (R268). Store to the block scratchpad. -/
  | stL (z : Size5) (f : MForm)
  /-- LD_C (R246). Load from a cluster member's scratchpad. -/
  | ldC (w64 : Bool) (f : MForm)
  /-- ST_C (R246). Store to a cluster member's scratchpad. -/
  | stC (w64 : Bool) (f : MForm)
  /-- LD_P (R245). Load from the lane-private slice. -/
  | ldP (z : SizeP) (f : MForm)
  /-- ST_P (R245). Store to the lane-private slice. -/
  | stP (z : SizeP) (f : MForm)
  /-- LD_ACQ (R271). Scalar load with acquire semantics. -/
  | ldAcq (w64 : Bool) (f : MForm)
  /-- ST_REL (R271). Scalar store with release semantics. -/
  | stRel (w64 : Bool) (f : MForm)
  /-- FENCE (R272). Orders the group's accesses at a scope. -/
  | fence (f : XForm)
  /-- QSYNC (R272). Waits for earlier loads and for earlier stores at .blk. -/
  | qsync (f : XForm)
  /-- CP_GO (R275). Checks a copy descriptor and issues an asynchronous copy. -/
  | cpGo (f : XForm)
  /-- CCLEAN (R276). Cleans a range in the issuing core's caches. -/
  | cclean (f : MForm)
  /-- CCLEAN_ALL (R276). Cleans the whole context. -/
  | ccleanAll (f : MForm)
  /-- CINVAL (R276). Invalidates a range in the issuing core's read caches. -/
  | cinval (f : MForm)
  /-- CINVAL_ALL (R276). Invalidates the whole context's read-cache lines. -/
  | cinvalAll (f : MForm)
  /-- PF (R277). Prefetches a line into the last-level cache. -/
  | pf (f : MForm)
  /-- PF_RO (R277). Prefetches a line also into the L1 read cache. -/
  | pfRo (f : MForm)
  /-- HDERIVE (R279). Narrows a handle's range. -/
  | hderive (f : TForm)
  /-- HRESTRICT (R279). Narrows a handle's rights, possibly sealing it. -/
  | hrestrict (f : TForm)
  /-- HGET (R280). Reads one field of a handle into a scalar. -/
  | hget (f : TForm)
  /-- HLD (R281). Loads a handle, valid only from a tagged granule. -/
  | hld (f : MForm)
  /-- HST (R281). Stores a handle, setting or clearing the granule tag. -/
  | hst (f : MForm)
  /-- HMOV (R280). Copies a handle register with its valid bit. -/
  | hmov (f : TForm)
  /-- HVALID (R280). Tests a handle's valid bit. -/
  | hvalid (f : TForm)
  /-- HINT_PF (R119). Optional move plus a prefetch request. -/
  | hintPf (f : TForm)
  /-- HINT_BANK (R120). Optional move plus a wake of a register bank in retention. -/
  | hintBank (f : TForm)
  /-- HINT_X (R118). Unassigned hint acting as a move or no-op. -/
  | hintX (op : Fin 30) (f : TForm)
  /-- MSET (R309). Writes a parameter register or one half of it. -/
  | mset (w64 : Bool) (f : XForm)
  /-- MSET_I (R308). Writes a sign-extended immediate to a parameter register. -/
  | msetI (f : IForm)
  /-- MGET (R309). Reads a parameter register or one half. -/
  | mget (w64 : Bool) (f : XForm)
  /-- MCALL (R310). Starts a routine on a matrix slot with a barrier. -/
  | mcall (f : XForm)
  /-- MCALL_R (R310). Starts a routine numbered by a register. -/
  | mcallR (f : XForm)
  /-- MSTAT (R311). Returns a matrix slot's status. -/
  | mstat (f : XForm)
  /-- MSTAT_R (R311). Returns a ring's status word. -/
  | mstatR (f : XForm)
  /-- RSET (R312). Writes ring register words after checks. -/
  | rset (p : RingPart) (f : XForm)
  /-- RGET (R312). Reads ring register words. -/
  | rget (p : RingPart) (f : XForm)
  /-- RPUSH_W (R313). Blocking take or finish of a ring tile. -/
  | rpushW (f : XForm)
  /-- RPUSH_T (R313). Trying take or finish of a ring tile. -/
  | rpushT (f : XForm)
  /-- RPOP_W (R313). Blocking peek or pop of a ring tile. -/
  | rpopW (f : XForm)
  /-- RPOP_T (R313). Trying peek or pop of a ring tile. -/
  | rpopT (f : XForm)
  /-- MSPILL_L (R314). Writes an accumulator tile to scratchpad. -/
  | mspillL (f : XForm)
  /-- MSPILL_G (R314). Writes an accumulator tile through a handle. -/
  | mspillG (f : XForm)
  /-- MFILL_L (R314). Loads an accumulator tile from scratchpad. -/
  | mfillL (f : XForm)
  /-- MFILL_G (R314). Loads an accumulator tile through a handle. -/
  | mfillG (f : XForm)
  /-- MCLR (R315). Clears a slot to +0, clearing poison and fault. -/
  | mclr (f : XForm)
  /-- MCLR_ALL (R315). Clears every slot the block holds. -/
  | mclrAll (f : XForm)
  /-- MLOAD_RT (R316). Writes a user routine table entry. -/
  | mloadRt (f : XForm)
  /-- MLOAD_CODE (R316). Copies microcode words into the user area. -/
  | mloadCode (f : XForm)
  /-- MLOAD_Q (R316). Returns a routine entry and ownership. -/
  | mloadQ (f : XForm)
  /-- MU_FEED (R297). Fills the A or B latch from a ring tile. -/
  | muFeed (m : MuWord)
  /-- MU_STEP (R301). Forms one k-block of exact products. -/
  | muStep (m : MuWord)
  /-- MU_ACC (R301). Adds the k-block into the accumulator. -/
  | muAcc (m : MuWord)
  /-- MU_SPARSE (R303). Sets the sparse mode and empties the latches. -/
  | muSparse (m : MuWord)
  /-- MU_SCALE (R297). Fills an MX scale latch from a ring tile. -/
  | muScale (m : MuWord)
  /-- MU_DRAIN (R302). Writes the accumulator tile to scratchpad or a ring tile. -/
  | muDrain (m : MuWord)
  /-- MU_CLEAR (R303). Sets every accumulator element to +0. -/
  | muClear (m : MuWord)
  /-- MU_POP (R303). Pops a ring. -/
  | muPop (m : MuWord)
  /-- MU_LOOP (R303). Decrements a counter and branches. -/
  | muLoop (m : MuWord)
  /-- MU_SIG (R303). Arrives at a barrier with the byte count. -/
  | muSig (m : MuWord)
  /-- MU_YIELD (R303). Empties latches and suspends the slot if a pre-emption is pending. -/
  | muYield (m : MuWord)
  /-- MU_END (R303). Arrives at the call's barrier and makes the slot idle. -/
  | muEnd (m : MuWord)
  /-- BINIT (R326). Initialises a barrier object. -/
  | binit (f : XForm)
  /-- BJOIN (R327). Registers the group on a barrier. -/
  | bjoin (f : XForm)
  /-- BLEAVE (R327). Frees the group's registration without a drop. -/
  | bleave (f : XForm)
  /-- BARR (R328). Arrives at a barrier as a release, with expected bytes. -/
  | barr (f : XForm)
  /-- BDROP (R328). Drops the group's party from a barrier as a release. -/
  | bdrop (f : XForm)
  /-- BEXP (R329). Adds expected bytes to a barrier. -/
  | bexp (f : XForm)
  /-- BWAIT (R330). Waits for a phase change or fault, then acts as an acquire or traps. -/
  | bwait (f : XForm)
  /-- BPOLL (R331). Reads a barrier object's 16 bytes. -/
  | bpoll (f : XForm)
  /-- ATOM_G (R334). Atomic read-modify-write through a handle, returning the old value. -/
  | atomG (f : MForm)
  /-- ATOM_L (R334). Atomic read-modify-write in scratchpad. -/
  | atomL (f : MForm)
  /-- RED_G (R334). Reduction through a handle with no result. -/
  | redG (f : MForm)
  /-- RED_L (R334). Reduction in scratchpad with no result. -/
  | redL (f : MForm)
  /-- SEM_SIG (R338). Adds to a semaphore as a release at a scope. -/
  | semSig (o : SemSigForm)
  /-- SEM_POLL (R338). Reads a semaphore's value. -/
  | semPoll (f : XForm)
  /-- SEM_BIND (R339). Arms a binding of a semaphore threshold to a barrier. -/
  | semBind (f : XForm)
  /-- FST (R374). Fabric store of each active lane's element. -/
  | fst (f : XForm)
  /-- FLD (R374). Fabric load into a slot. -/
  | fld (f : XForm)
  /-- FFADD (R375). Fabric fetch-and-add of one element. -/
  | ffadd (w64 : Bool) (f : XForm)
  /-- FRED (R376). Fabric reduction into remote hub scratchpad. -/
  | fred (f : XForm)
  /-- FFENCE (R378). Waits for the group's fabric operations and traps on a pending error. -/
  | ffence (f : XForm)
  /-- FFENCE_F (R377). Sends a FLAG addition after every earlier access to the chip completes. -/
  | ffenceF (f : XForm)
  /-- FSIG (R377). Sends an unordered SIGNAL addition to a chip. -/
  | fsig (f : XForm)
  /-- TRET (R392). Returns from a handler, re-executing the trapping instruction. -/
  | tret (f : XForm)
  /-- TRET_N (R392). Returns from a handler after the trapping instruction. -/
  | tretN (f : XForm)
  /-- TESC (R404). Escalates to the supervisor with a kind 0x01 record and suspends the group. -/
  | tesc (f : XForm)
  /-- CPREEMPT (R436). Saves named blocks, holding or queueing their images. -/
  | cpreempt (f : XForm)
  /-- CRESUME (R437). Queues held images for resume. -/
  | cresume (f : XForm)
  /-- CRESUME_ESC (R437). Releases a group from escalation. -/
  | cresumeEsc (f : XForm)
  /-- CTERM (R438). Terminates a fault domain. -/
  | cterm (f : XForm)
  /-- CTERM_L (R438). Terminates one launch. -/
  | ctermL (f : XForm)
  /-- CQUERY (R439). Returns a block's state, unit, frame, holdings and claim. -/
  | cquery (f : XForm)
  /-- CQUERY_U (R439). Returns a core's occupancy and free resources. -/
  | cqueryU (f : XForm)
  /-- POWER_ON_RESET (R26). After reset the device comes up in seven ordered steps, from the backstop ROM start to supervisor sign-in. -/
  | powerOnReset
  /-- SELF_TEST_TIMEOUT (R31). A unit's self-test that has not finished in 10 ms is recorded with result 0x04 and fenced. -/
  | selfTestTimeout
  /-- CXL_LINK_TRAINING (R35). HUB.cxl trains the host link on its own from step 1, degrading width and speed as training finds. -/
  | cxlLinkTraining
  /-- CXL_RESET (R35). A CXL reset restarts the device as Reset Device does. -/
  | cxlReset
  /-- HOST_CXL_MEM_ACCESS (R36). A host CXL.mem read or write is served coherently at the home slice under back-invalidate, a write clearing handle tags. -/
  | hostCxlMemAccess
  /-- MSIX_UNMASK (R38). Unmasking an MSI-X vector with its pending bit set sends one message. -/
  | msixUnmask
  /-- MAILBOX_COMMAND (R39). A host mailbox command is answered by the hub itself or passed to the supervisor, adding 1 to ssem. -/
  | mailboxCommand
  /-- MAILBOX_SIGNIN (R39). The supervisor writes signin, completing step 7 of power-on; the hub sets CXL Memory Active and marks the mailbox ready. -/
  | mailboxSignin
  /-- MAILBOX_COMPLETE (R39). The supervisor writes rc, completing the pending command, clearing pend and signalling the host. -/
  | mailboxComplete
  /-- GET_SELF_TEST_TABLE (R32). Returns the self-test result entries. -/
  | getSelfTestTable
  /-- GET_BOOT_LOG (R32). Returns the boot log entries, oldest first. -/
  | getBootLog
  /-- GET_IDENTITY (R32). Returns hub serial, stepping, key digests and counters signed with the device identity key. -/
  | getIdentity
  /-- RESET_DEVICE (R32). Restarts the device at step 1 of power-on. -/
  | resetDevice
  /-- IDENTIFY_MEMORY_DEVICE (R39). The hub answers the CXL 3.1 Identify Memory Device command from its own registers. -/
  | identifyMemoryDevice
  /-- GET_SUPPORTED_LOGS (R39). The hub answers the CXL 3.1 Get Supported Logs command itself. -/
  | getSupportedLogs
  /-- GET_LOG (R39). The hub answers the CXL 3.1 Get Log command itself. -/
  | getLog
  /-- GET_HEALTH_INFO (R39). The hub answers the CXL 3.1 Get Health Info command itself. -/
  | getHealthInfo
  /-- GRANT_HOST_RANGE (R40). The supervisor grants or refuses a CXL.mem range to the host driver by policy. -/
  | grantHostRange
  /-- RELEASE_HOST_RANGE (R40). The supervisor releases a granted host range or reports no such grant. -/
  | releaseHostRange
  /-- LIST_HOST_RANGES (R40). The supervisor returns up to 64 current grants. -/
  | listHostRanges
  /-- STAGE_IMAGE (R451). Checks an image under R28 and writes it with its directory entry into the main flash region. -/
  | stageImage
  /-- ACTIVATE (R452). Replaces one image kind on one die while every other die runs on, then renegotiates mailbox versions. -/
  | activate
  /-- COMMIT_COUNTER (R451). Raises an image kind's fuse anti-rollback counter to the active image's security version. -/
  | commitCounter
  /-- GET_VERSIONS (R451). Returns each die's active image versions and negotiated mailbox version. -/
  | getVersions
  /-- CONTEXT_BIND (R68). A write setting bound from 0 to 1 stores the table fields, clears tdack and ends any teardown request. -/
  | contextBind
  /-- CONTEXT_UNBIND (R68). A write of 0 to bound takes effect only if the context holds nothing, otherwise it sets urefused. -/
  | contextUnbind
  /-- CONTEXT_TEARDOWN (R94). Writing td moves the context's queues to dead, cancels unadmitted launches and refuses later launches. -/
  | contextTeardown
  /-- QUEUE_ENABLE (R72). Writing en moves a queue from off, overrun or fault to live, or refuses it. -/
  | queueEnable
  /-- QUEUE_DISABLE (R72). Writing dis moves a queue to off. -/
  | queueDisable
  /-- QUEUE_POP (R69). Writing pop removes and clears inbox entries, oldest first. -/
  | queuePop
  /-- DOORBELL_WRITE (R71). A 4-byte doorbell write sets tail according to the queue state, possibly moving the queue to overrun. -/
  | doorbellWrite
  /-- QUEUE_ENTRY_FETCH (R73). While a queue is live with entries pending and inbox room, the hub starts fetching entry head. -/
  | queueEntryFetch
  /-- QUEUE_FETCH_COMPLETE (R73). A fetched entry lands in the inbox with its fetch status, ssem gains 1 and head advances. -/
  | queueFetchComplete
  /-- PAGE_REQUEST_COMPLETE (R73). A page request for a failed translation of a loc 2 fetch completes; on failure the queue goes to fault. -/
  | pageRequestComplete
  /-- QUEUE_TORN_DOWN (R72). A dead queue with nothing outstanding goes to torn down, and tdack is set when all are. -/
  | queueTornDown
  /-- EDGE_READ_RESUME (R65). Acceptance waiting on a non-resident edge-record extent continues once the extent is resident. -/
  | edgeReadResume
  /-- EDGE_SATISFIED (R77). When every incoming edge holds, the hub invalidates the edge regions and places the launch on its ready list. -/
  | edgeSatisfied
  /-- SCHEDULER_PASS (R78). On a triggering event the hub walks the ready lists by priority and age, placing blocks with backfill and reservation. -/
  | schedulerPass
  /-- RESERVATION_TIMEOUT (R78). A concurrent launch or cluster set passed over for the reservation time becomes reserving. -/
  | reservationTimeout
  /-- KICKOFF_FIRE (R81). The scheduler's comparator fires when fabric time reaches kickoff and drives the start line to the gang. -/
  | kickoffFire
  /-- CHECKER_NEXT_CHECK (R87). A free claim checker takes its next work: waiter re-checks after a release, then acquisitions, then admissions and resumes. -/
  | checkerNextCheck
  /-- CLAIM_CHECK_RESULT (R85). A claim check completes after 18 cycles with GRANTED, UNAVAILABLE or UNSAFE delivered to the requester. -/
  | claimCheckResult
  /-- SEMAPHORE_ADD (R335). HUB.sem makes an addition to a physical semaphore and re-evaluates its edges and bindings. -/
  | semaphoreAdd
  /-- SEMAPHORE_TABLE_STORE (R459). A control-core store to the semaphore table row sets entry bytes indivisibly and re-evaluates edges and bindings without raising vectors. -/
  | semaphoreTableStore
  /-- GROUP_START (R131). Writing start to a control-core group start register forms h9 and starts the group at entry. -/
  | groupStart
  /-- CLAUSE_FETCH (R98). A core fetches a whole clause through the code handle, checking the header before further words. -/
  | clauseFetch
  /-- SLOT_COMPLETE (R143). A long-latency operation completes and its scoreboard slot holds the result unlanded. -/
  | slotComplete
  /-- TOKEN_SIGNAL (R160). After a stream clause's last instruction and its loads and stores are performed, one token is added to each channel it signals. -/
  | tokenSignal
  /-- BANK_RETENTION_ENTER (R153). A bank whose owners have waited over 64 consecutive cycles goes to retention where policy permits. -/
  | bankRetentionEnter
  /-- BANK_WAKE_COMPLETE (R152). A waking bank reaches on after its wake time, zero-filled if woken from off. -/
  | bankWakeComplete
  /-- RSLEEP_EXPIRE (R205). The cycle count of an rsleep runs out and the group issues again. -/
  | rsleepExpire
  /-- UMPIRE_EXPIRE (R402). A sub-group's wait reaches its umpire limit and the waiting instruction traps with wait timeout. -/
  | umpireExpire
  /-- COMMIT (R396). A sub-group waits for its region's accesses to be accepted, releases its gated stores and takes a new mark. -/
  | commit
  /-- PORT_FAILURE_REPORT (R399). A port failure reaches a group: a lattice sub-group rolls back and traps or is suspended; stream and control groups trap later. -/
  | portFailureReport
  /-- COPY_START (R257). An issued copy starts in issue order, taking a ring tile and waiting while the ring is full. -/
  | copyStart
  /-- COPY_LINE_LANDED (R257). Copied bytes land and their count reaches the landing barrier. -/
  | copyLineLanded
  /-- COPY_COMPLETE (R257). A copy completes when every byte has landed, pushing its ring tile and freeing its range-scoreboard entry. -/
  | copyComplete
  /-- COPY_FAULT (R258). A failing copy stops, faults its barrier and fills the block's copy fault record. -/
  | copyFault
  /-- RING_PUSH (R291). A written tile is pushed once every earlier-taken tile is pushed, moving from rsv to full. -/
  | ringPush
  /-- BARRIER_CYCLE (R320). The scratchpad unit applies the cycle's drops, arrivals, expectations, landings and faults to a barrier and completes a phase if due. -/
  | barrierCycle
  /-- BLOCK_RETIRE (R431). Once all groups exit and copies, routines and accesses finish, the block retires and releases its resources. -/
  | blockRetire
  /-- SAVE_COMPLETE (R417). Once a block's groups and engines reach their stop points the hub writes the image and releases the block's resources. -/
  | saveComplete
  /-- RESUME (R426). When its units are free and checks pass, a saved block is restored on its core from its image. -/
  | resume
  /-- ISOLATE (R410). Writing iso fences a die, answers its requests with errors, records lost blocks and poisons lost dirty lines. -/
  | isolate
  /-- DIE_RESET (R410). Writing rst resets an isolated die, runs self-test and re-enumerates it. -/
  | dieReset
  /-- UCIE_LINK_FAILURE (R409). A chiplet's UCIe link fails and the hub isolates it by itself. -/
  | ucieLinkFailure
  /-- POWER_REGISTER_WRITE (R447). A write of opp, bias or occ to a cluster power register is applied, with a relock if the point changes. -/
  | powerRegisterWrite
  /-- RELOCK_COMPLETE (R448). A cluster's clock restarts after relock, releasing held requests and latched start lines. -/
  | relockComplete
  /-- THERMAL_TRIP (R449). A cluster's junction reaches 105 °C, setting trip and forcing opp 7. -/
  | thermalTrip
  /-- THERMAL_TRIP_CLEAR (R449). The temperature falls to 100 °C and trip clears. -/
  | thermalTripClear
  /-- CURRENT_CLAMP_STEP (R449). Every 10 µs the hub lowers or raises a die's clusters by one operating point around its current clamp. -/
  | currentClampStep
  /-- HEARTBEAT_BEAT (R450). Power firmware writes beat, restarting the 1 ms heartbeat window. -/
  | heartbeatBeat
  /-- HEARTBEAT_SIGNIN (R450). Power firmware signs in, clearing lapsed so stored power values take effect. -/
  | heartbeatSignin
  /-- HEARTBEAT_LAPSE (R450). 1 ms passes with no beat and the safe power limits take hold. -/
  | heartbeatLapse
  /-- STORE (R369). A received STORE packet is checked and performed at the target's point of performance, then acknowledged. -/
  | store
  /-- LOAD (R369). A received LOAD packet is checked and answered with LOADR data. -/
  | load
  /-- ATOMIC (R369). A received ATOMIC packet is performed indivisibly and answered with ATOMR. -/
  | atomic
  /-- REDUCE (R369). A received REDUCE packet is combined into hub scratchpad bytes and acknowledged. -/
  | reduce
  /-- SIGNAL (R369). A received SIGNAL packet adds to the target's semaphore through the named context's map. -/
  | signal
  /-- FLAG (R354). A received FLAG packet makes its addition as a release at .dev for the sender's earlier accesses. -/
  | flag
  /-- ACK (R367). An acknowledgement completes the originator's outstanding fabric operation. -/
  | ack
  /-- LOADR (R374). Load reply data completes a fabric load, with poisoned lanes marked. -/
  | loadr
  /-- ATOMR (R375). Atomic reply data completes a fabric atomic. -/
  | atomr
  /-- ERR (R369). An error completion completes an operation with its status, reaching the slot or the pending record. -/
  | err
  /-- TIME (R371). A TIME packet measures link delay and synchronises HUB.ft to the grandmaster. -/
  | time
  /-- LINK (R367). A LINK packet is received on virtual channel 2. -/
  | link
  /-- RESPONSE_LIMIT_EXPIRE (R369). No reply arrives within the response limit and the operation completes with status 0x09. -/
  | responseLimitExpire
  /-- REPLAY_REQUEST (R368). A flit failing CRC after FEC is answered by a replay request and the sender replays from that sequence number. -/
  | replayRequest
  /-- VC_PAUSE (R368). A receiver pauses or resumes a virtual channel as its buffer crosses 16 and 48 free flits. -/
  | vcPause
  /-- PORT_RETRAIN (R368). 16 replay requests within 1 ms with no progress make the port retrain and hold traffic. -/
  | portRetrain
  /-- PORT_DOWN (R368). A port not up within 10 ms of retraining goes down and its outstanding operations complete with 0x0A. -/
  | portDown
  /-- TIME_EXCHANGE_TIMER (R371). Every 10 µs each up port exchanges TIME packets. -/
  | timeExchangeTimer
  /-- GRANDMASTER_PATH_LOSS (R371). A chip without a path to the grandmaster for 1 ms clears sync and runs free. -/
  | grandmasterPathLoss
  /-- REGISTER_WRITE (R5). A write to a register without behaviour of its own stores, ignores or clears bits by its access type. -/
  | registerWrite
  /-- UNCORRECTABLE_ERROR (R458). An error that ECC cannot correct arises in a register, an accumulator element or a granule of memory and sets its poison. -/
  | uncorrectableError
  /-- ACCESS_ACCEPTED (R396). An access of a restart region passes R57 steps 6 to 8 at its port, or R246 at another member's core, and is held as reserved. -/
  | accessAccepted
  /-- STORE_PERFORMED (R270). A store, reduction or other slotless access reaches its point of performance at a scope, ending the release and fence waits that hold on it. -/
  | storePerformed
  /-- PORT_UP (R368). A Pyrrath port's training or retraining finishes and the port enters state up, learning its peer. -/
  | portUp
  /-- HOST_SNOOP (R248). The host sends a CXL.cache snoop for a loc 2 line that the last-level cache holds, and the hub answers to keep the line coherent with host memory. -/
  | hostSnoop
  deriving DecidableEq, Repr

end Sys2Proof
end

