-- ==== Sys2Proof/WellFormed.lean ====
section
/-! DEFINITION. Which terms of `Instr` are steps of the W7: an instruction term must be one the opcode map has an
opcode for (R112-R116, R221, R435). The checks a core itself makes on an instruction word (R121) trap, and are in
Machine/Operands.lean. -/

namespace Sys2Proof

/-- Why a term is no step of the W7. -/
inductive IllFormed where
  | noSuchVariant      -- no opcode has this mnemonic in this form and width (R112)
  | modifierNamesOther -- the modifier bit that tells two mnemonics of one opcode apart is the other's (R221, R435)
  deriving DecidableEq, Repr

/-- Form-I widths that a scalar integer mnemonic has (R112): in 32 bits, in 64 bits. -/
def AluForm.exists (o : AluForm) (i32 i64 : Bool) : Bool :=
  match o with
  | .t _ _ => true
  | .i false _ => i32
  | .i true _ => i64

/-- `none` when the term is a step of the W7, else the first check it fails. -/
def Instr.illFormed (i : Instr) : Option IllFormed :=
  let need (b : Bool) (e : IllFormed) : Option IllFormed := if b then none else some e
  match i with
  | .sadd o | .ssub o | .sand o | .sor o | .sxor o | .sshl o | .sshr o | .ssra o =>
    need (o.exists true true) .noSuchVariant
  | .smul o | .smulh o | .sdiv o | .srem o | .sandn o | .smin o | .smax o | .scmp o | .sbfx o | .sbfi o =>
    need (o.exists true false) .noSuchVariant
  | .sclz o | .spop o | .ssel o | .smov o => need (o.exists false false) .noSuchVariant
  | .vmovs _ f => need (f.mod.getLsbD 1 == false) .modifierNamesOther
  | .vmovsGet _ f => need (f.mod.getLsbD 1) .modifierNamesOther
  | .cresume f | .cterm f => need (f.mod.getLsbD 0 == false) .modifierNamesOther
  | .cresumeEsc f | .ctermL f => need (f.mod.getLsbD 0) .modifierNamesOther
  | _ => none

/-- The term is a step of the W7. -/
def Instr.wf (i : Instr) : Bool := i.illFormed.isNone

end Sys2Proof
end

