-- ==== Sys2Proof/Decode.lean ====
section
/-! DEFINITION. The decoder of instruction words and of matrix microinstructions (04 R101-R116, 12 R296), the encoder
written from the same tables, and the operand shapes by which R121, R151 and R149 read an instruction's fields. -/

namespace Sys2Proof

/-- Bits [19:9] of a word (R101). -/
def Common.ofWord (w : W64) : Common :=
  { gneg := w.extractLsb' 19 1, guard := w.extractLsb' 12 7, idle := w.extractLsb' 9 3 }

/-- Form T of a word (R102). -/
def TForm.ofWord (w : W64) : TForm :=
  { c := .ofWord w, mod := w.extractLsb' 55 9, lu2 := w.extractLsb' 54 1, src2 := w.extractLsb' 46 8,
    lu1 := w.extractLsb' 45 1, src1 := w.extractLsb' 37 8, lu0 := w.extractLsb' 36 1, src0 := w.extractLsb' 28 8,
    dst := w.extractLsb' 20 8 }

/-- Form I of a word (R103). -/
def IForm.ofWord (w : W64) : IForm :=
  { c := .ofWord w, mod := w.extractLsb' 53 11, imm := w.extractLsb' 37 16, lu0 := w.extractLsb' 36 1,
    src0 := w.extractLsb' 28 8, dst := w.extractLsb' 20 8 }

/-- Form B of a word (R104). -/
def BForm.ofWord (w : W64) : BForm :=
  { c := .ofWord w, off := w.extractLsb' 35 29, bmod := w.extractLsb' 29 6, luc := w.extractLsb' 28 1,
    cond := w.extractLsb' 20 8 }

/-- Form M of a word (R105). -/
def MForm.ofWord (w : W64) : MForm :=
  { c := .ofWord w, mod := w.extractLsb' 58 6, lud := w.extractLsb' 57 1, sb := w.extractLsb' 54 3,
    imm := w.extractLsb' 42 12, luo := w.extractLsb' 41 1, off := w.extractLsb' 33 8, h := w.extractLsb' 28 5,
    d := w.extractLsb' 20 8 }

/-- Form X of a word (R106). -/
def XForm.ofWord (w : W64) : XForm :=
  { c := .ofWord w, mod := w.extractLsb' 57 7, sb := w.extractLsb' 54 3, xd := w.extractLsb' 46 8,
    luc := w.extractLsb' 45 1, xc := w.extractLsb' 37 8, lub := w.extractLsb' 36 1, xb := w.extractLsb' 28 8,
    xa := w.extractLsb' 20 8 }

/-- A word of form T with opcode `op` (R101, R102). -/
def TForm.word (f : TForm) (op : BitVec 9) : W64 :=
  f.mod ++ f.lu2 ++ f.src2 ++ f.lu1 ++ f.src1 ++ f.lu0 ++ f.src0 ++ f.dst ++ f.c.gneg ++ f.c.guard ++ f.c.idle ++ op

/-- A word of form I with opcode `op` (R101, R103). -/
def IForm.word (f : IForm) (op : BitVec 9) : W64 :=
  f.mod ++ f.imm ++ f.lu0 ++ f.src0 ++ f.dst ++ f.c.gneg ++ f.c.guard ++ f.c.idle ++ op

/-- A word of form B with opcode `op` (R101, R104). -/
def BForm.word (f : BForm) (op : BitVec 9) : W64 :=
  f.off ++ f.bmod ++ f.luc ++ f.cond ++ f.c.gneg ++ f.c.guard ++ f.c.idle ++ op

/-- A word of form M with opcode `op` (R101, R105). -/
def MForm.word (f : MForm) (op : BitVec 9) : W64 :=
  f.mod ++ f.lud ++ f.sb ++ f.imm ++ f.luo ++ f.off ++ f.h ++ f.d ++ f.c.gneg ++ f.c.guard ++ f.c.idle ++ op

/-- A word of form X with opcode `op` (R101, R106). -/
def XForm.word (f : XForm) (op : BitVec 9) : W64 :=
  f.mod ++ f.sb ++ f.xd ++ f.luc ++ f.xc ++ f.lub ++ f.xb ++ f.xa ++ f.c.gneg ++ f.c.guard ++ f.c.idle ++ op

/-- A microinstruction word: op code in [63:58] (R296). -/
def muWord (op : BitVec 6) (m : MuWord) : W64 := op ++ m

/-- A scalar integer instruction's word: form T opcodes in pairs, form I opcodes as R112 gives them. -/
def AluForm.enc (o : AluForm) (t i32 i64 : BitVec 9) : W64 :=
  match o with
  | .t w64 f => f.word (if w64 then t + 1 else t)
  | .i false f => f.word i32
  | .i true f => f.word i64

/-- Index of a floating-point type suffix (R113). -/
def FVar.index : FVar → Nat
  | .f32 => 0 | .f64 => 1 | .f16x2 => 2 | .bf16x2 => 3

/-- Opcodes 0x000-0x02B of R112, in pairs. -/
def decPair (k : Nat) (o : AluForm) : Option Instr :=
  match k with
  | 0 => some (.sadd o)
  | 1 => some (.ssub o)
  | 2 => some (.smul o)
  | 3 => some (.smulh o)
  | 4 => some (.sdiv o)
  | 5 => some (.srem o)
  | 6 => some (.sand o)
  | 7 => some (.sor o)
  | 8 => some (.sxor o)
  | 9 => some (.sandn o)
  | 10 => some (.sshl o)
  | 11 => some (.sshr o)
  | 12 => some (.ssra o)
  | 13 => some (.smin o)
  | 14 => some (.smax o)
  | 15 => some (.sclz o)
  | 16 => some (.spop o)
  | 17 => some (.sbfx o)
  | 18 => some (.sbfi o)
  | 19 => some (.ssel o)
  | 20 => some (.scmp o)
  | 21 => some (.smov o)
  | _ => none

/-- Opcodes 0x02C-0x03B of R112. -/
def decImm32 (k : Nat) (o : AluForm) : Option Instr :=
  match k with
  | 0 => some (.sadd o)
  | 1 => some (.ssub o)
  | 2 => some (.smul o)
  | 3 => some (.smulh o)
  | 4 => some (.sdiv o)
  | 5 => some (.srem o)
  | 6 => some (.sand o)
  | 7 => some (.sor o)
  | 8 => some (.sxor o)
  | 9 => some (.sandn o)
  | 10 => some (.sshl o)
  | 11 => some (.sshr o)
  | 12 => some (.ssra o)
  | 13 => some (.smin o)
  | 14 => some (.smax o)
  | 15 => some (.scmp o)
  | _ => none

/-- Opcodes 0x03C-0x043 of R112. -/
def decImm64 (k : Nat) (o : AluForm) : Option Instr :=
  match k with
  | 0 => some (.sadd o)
  | 1 => some (.ssub o)
  | 2 => some (.sand o)
  | 3 => some (.sor o)
  | 4 => some (.sxor o)
  | 5 => some (.sshl o)
  | 6 => some (.sshr o)
  | 7 => some (.ssra o)
  | _ => none

/-- Opcodes 0x044-0x07F of R112, counted from 0x044. -/
def decScalar (k : Nat) (w : W64) : Option Instr :=
  match k with
  | 0 => some (.sbfx (.i false (.ofWord w)))
  | 1 => some (.sbfi (.i false (.ofWord w)))
  | 2 => some (.smovi .i32 (.ofWord w))
  | 3 => some (.smovi .n32 (.ofWord w))
  | 4 => some (.smoviHi (.ofWord w))
  | 5 => some (.smovi .i64 (.ofWord w))
  | 6 => some (.br (.ofWord w))
  | 7 => some (.bz false (.ofWord w))
  | 8 => some (.bnz false (.ofWord w))
  | 9 => some (.bz true (.ofWord w))
  | 10 => some (.bnz true (.ofWord w))
  | 11 => some (.bl (.ofWord w))
  | 12 => some (.jr (.ofWord w))
  | 13 => some (.jl (.ofWord w))
  | 14 => some (.split (.ofWord w))
  | 15 => some (.fuse (.ofWord w))
  | 16 => some (.exit (.ofWord w))
  | 17 => some (.yield (.ofWord w))
  | 18 => some (.nop (.ofWord w))
  | 19 => some (.swait (.ofWord w))
  | 20 => some (.trap (.ofWord w))
  | 21 => some (.brk (.ofWord w))
  | 22 => some (.pand (.ofWord w))
  | 23 => some (.por (.ofWord w))
  | 24 => some (.pxor (.ofWord w))
  | 25 => some (.pandn (.ofWord w))
  | 26 => some (.pnot (.ofWord w))
  | 27 => some (.pmov (.t (.ofWord w)))
  | 28 => some (.pfroms (.ofWord w))
  | 29 => some (.ptos (.ofWord w))
  | 30 => some (.pany (.ofWord w))
  | 31 => some (.pall (.ofWord w))
  | 32 => some (.ppop (.ofWord w))
  | 33 => some (.pmov (.i (.ofWord w)))
  | 34 => some (.sget false (.ofWord w))
  | 35 => some (.sget true (.ofWord w))
  | 36 => some (.sset false (.ofWord w))
  | 37 => some (.sset true (.ofWord w))
  | 38 => some (.acqRegW (.ofWord w))
  | 39 => some (.acqRegT (.ofWord w))
  | 40 => some (.acqSpmW (.ofWord w))
  | 41 => some (.acqSpmT (.ofWord w))
  | 42 => some (.acqMslW (.ofWord w))
  | 43 => some (.acqMslT (.ofWord w))
  | 44 => some (.relReg (.ofWord w))
  | 45 => some (.relSpm (.ofWord w))
  | 46 => some (.relMsl (.ofWord w))
  | 47 => some (.rwake (.ofWord w))
  | 48 => some (.rsleep (.ofWord w))
  | 49 => some (.spdrop (.ofWord w))
  | 50 => some (.launch (.ofWord w))
  | 51 => some (.lquery (.ofWord w))
  | 52 => some (.objmapEnt (.ofWord w))
  | 53 => some (.objmapExt (.ofWord w))
  | 54 => some (.objmapMv (.ofWord w))
  | 55 => some (.objinv (.ofWord w))
  | 56 => some (.objinvCtx (.ofWord w))
  | 57 => some (.semmap (.ofWord w))
  | 58 => some (.semmapQ (.ofWord w))
  | 59 => some (.hmint (.ofWord w))
  | _ => none

/-- Opcodes 0x080-0x0AD of R113, in pairs. -/
def decVecPair (k : Nat) (w64 : Bool) (f : TForm) : Option Instr :=
  match k with
  | 0 => some (.vadd w64 f)
  | 1 => some (.vsub w64 f)
  | 2 => some (.vmul w64 f)
  | 3 => some (.vmulh w64 f)
  | 4 => some (.vmad w64 f)
  | 5 => some (.vand w64 f)
  | 6 => some (.vor w64 f)
  | 7 => some (.vxor w64 f)
  | 8 => some (.vandn w64 f)
  | 9 => some (.vshl w64 f)
  | 10 => some (.vshr w64 f)
  | 11 => some (.vsra w64 f)
  | 12 => some (.vmin w64 f)
  | 13 => some (.vmax w64 f)
  | 14 => some (.vabs w64 f)
  | 15 => some (.vclz w64 f)
  | 16 => some (.vpop w64 f)
  | 17 => some (.vbfx w64 f)
  | 18 => some (.vbfi w64 f)
  | 19 => some (.vsel w64 f)
  | 20 => some (.vmov w64 f)
  | 21 => if f.mod.getLsbD 1 then some (.vmovsGet w64 f) else some (.vmovs w64 f)
  | 22 => some (.vcmp w64 f)
  | _ => none

/-- The type suffixes of R113 in opcode order. -/
def fvarAt : Nat → FVar
  | 0 => .f32 | 1 => .f64 | 2 => .f16x2 | _ => .bf16x2

/-- Opcodes 0x0AE-0x0D1 of R113, in fours. -/
def decVecF (k : Nat) (t : FVar) (f : TForm) : Option Instr :=
  match k with
  | 0 => some (.vfadd t f)
  | 1 => some (.vfsub t f)
  | 2 => some (.vfmul t f)
  | 3 => some (.vfma t f)
  | 4 => some (.vfmin t f)
  | 5 => some (.vfmax t f)
  | 6 => some (.vfrnd t f)
  | 7 => some (.vfclass t f)
  | 8 => some (.vfcmp t f)
  | _ => none

/-- Opcodes 0x0D2-0x0E3 of R113. -/
def decVecFun (k : Nat) (f : TForm) : Option Instr :=
  match k with
  | 0 => some (.vrcp .f32 f)
  | 1 => some (.vrcp .f16x2 f)
  | 2 => some (.vrcp .f64 f)
  | 3 => some (.vrsqrt false f)
  | 4 => some (.vrsqrt true f)
  | 5 => some (.vsqrt .f32 f)
  | 6 => some (.vsqrt .f16x2 f)
  | 7 => some (.vsqrt .f64 f)
  | 8 => some (.vexp2 false f)
  | 9 => some (.vexp2 true f)
  | 10 => some (.vlog2 false f)
  | 11 => some (.vlog2 true f)
  | 12 => some (.vsin false f)
  | 13 => some (.vsin true f)
  | 14 => some (.vcos false f)
  | 15 => some (.vcos true f)
  | 16 => some (.vfdot2 false f)
  | 17 => some (.vfdot2 true f)
  | _ => none

/-- Destination types of `vcvt` in opcode order (R113). -/
def cvtDstAt : Nat → CvtDst
  | 0 => .f64
  | 1 => .f32
  | 2 => .f16
  | 3 => .bf16
  | 4 => .e4m3
  | 5 => .e5m2
  | 6 => .e3m2
  | 7 => .e2m3
  | 8 => .e2m1
  | 9 => .i8
  | 10 => .i16
  | 11 => .i32
  | 12 => .i64
  | 13 => .n8
  | 14 => .n16
  | 15 => .n32
  | _ => .n64

/-- Index of a `vcvt` destination type (R113). -/
def CvtDst.index : CvtDst → Nat
  | .f64 => 0
  | .f32 => 1
  | .f16 => 2
  | .bf16 => 3
  | .e4m3 => 4
  | .e5m2 => 5
  | .e3m2 => 6
  | .e2m3 => 7
  | .e2m1 => 8
  | .i8 => 9
  | .i16 => 10
  | .i32 => 11
  | .i64 => 12
  | .n8 => 13
  | .n16 => 14
  | .n32 => 15
  | .n64 => 16

/-- Reduction operations in opcode order (R239). -/
def redOpAt : Nat → RedOp
  | 0 => .addI32
  | 1 => .addI64
  | 2 => .addF32
  | 3 => .addF64
  | 4 => .minI32
  | 5 => .maxI32
  | 6 => .minN32
  | 7 => .maxN32
  | 8 => .minF32
  | 9 => .maxF32
  | 10 => .andB32
  | 11 => .orB32
  | _ => .xorB32

/-- Index of a reduction operation (R239). -/
def RedOp.index : RedOp → Nat
  | .addI32 => 0
  | .addI64 => 1
  | .addF32 => 2
  | .addF64 => 3
  | .minI32 => 4
  | .maxI32 => 5
  | .minN32 => 6
  | .maxN32 => 7
  | .minF32 => 8
  | .maxF32 => 9
  | .andB32 => 10
  | .orB32 => 11
  | .xorB32 => 12

/-- Opcodes 0x106-0x121 of R113. -/
def decVecMove (k : Nat) (f : TForm) : Option Instr :=
  match k with
  | 0 => some (.vpack .e2m1 f)
  | 1 => some (.vpack .e3m2 f)
  | 2 => some (.vpack .b8 f)
  | 3 => some (.vpack .b16 f)
  | 4 => some (.vunpack .e2m1 f)
  | 5 => some (.vunpack .e3m2 f)
  | 6 => some (.vunpack .b8 f)
  | 7 => some (.vunpack .b16 f)
  | 8 => some (.vmxq .e4m3 f)
  | 9 => some (.vmxq .e5m2 f)
  | 10 => some (.vmxq .e3m2 f)
  | 11 => some (.vmxq .e2m3 f)
  | 12 => some (.vmxq .e2m1 f)
  | 13 => some (.vmxq .i8 f)
  | 14 => some (.vmxd .e4m3 f)
  | 15 => some (.vmxd .e5m2 f)
  | 16 => some (.vmxd .e3m2 f)
  | 17 => some (.vmxd .e2m3 f)
  | 18 => some (.vmxd .e2m1 f)
  | 19 => some (.vmxd .i8 f)
  | 20 => some (.vperm false f)
  | 21 => some (.vperm true f)
  | 22 => some (.vxshf false f)
  | 23 => some (.vxshf true f)
  | 24 => some (.vrot false f)
  | 25 => some (.vrot true f)
  | 26 => some (.vbcl false f)
  | 27 => some (.vbcl true f)
  | _ => none

/-- Opcodes 0x13C-0x13F of R113. -/
def decVecEnd (k : Nat) (f : TForm) : Option Instr :=
  match k with
  | 0 => some (.vcompress false f)
  | 1 => some (.vcompress true f)
  | 2 => some (.vexpand false f)
  | 3 => some (.vexpand true f)
  | _ => none

/-- Opcodes 0x140-0x17F of R114. -/
def decMem (k : Nat) (w : W64) : Option Instr :=
  match k with
  | 0 => some (.ldG .b8 (.ofWord w))
  | 1 => some (.ldG .b16 (.ofWord w))
  | 2 => some (.ldG .b32 (.ofWord w))
  | 3 => some (.ldG .b64 (.ofWord w))
  | 4 => some (.ldG .b128 (.ofWord w))
  | 5 => some (.stG .b8 (.ofWord w))
  | 6 => some (.stG .b16 (.ofWord w))
  | 7 => some (.stG .b32 (.ofWord w))
  | 8 => some (.stG .b64 (.ofWord w))
  | 9 => some (.stG .b128 (.ofWord w))
  | 10 => some (.ldwG .b32 (.ofWord w))
  | 11 => some (.ldwG .b64 (.ofWord w))
  | 12 => some (.ldwG .b128 (.ofWord w))
  | 13 => some (.stwG .b32 (.ofWord w))
  | 14 => some (.stwG .b64 (.ofWord w))
  | 15 => some (.stwG .b128 (.ofWord w))
  | 16 => some (.ldGs .b8 (.ofWord w))
  | 17 => some (.ldGs .b16 (.ofWord w))
  | 18 => some (.ldGs .b32 (.ofWord w))
  | 19 => some (.ldGs .b64 (.ofWord w))
  | 20 => some (.stGs .b8 (.ofWord w))
  | 21 => some (.stGs .b16 (.ofWord w))
  | 22 => some (.stGs .b32 (.ofWord w))
  | 23 => some (.stGs .b64 (.ofWord w))
  | 24 => some (.ldL .b8 (.ofWord w))
  | 25 => some (.ldL .b16 (.ofWord w))
  | 26 => some (.ldL .b32 (.ofWord w))
  | 27 => some (.ldL .b64 (.ofWord w))
  | 28 => some (.ldL .b128 (.ofWord w))
  | 29 => some (.stL .b8 (.ofWord w))
  | 30 => some (.stL .b16 (.ofWord w))
  | 31 => some (.stL .b32 (.ofWord w))
  | 32 => some (.stL .b64 (.ofWord w))
  | 33 => some (.stL .b128 (.ofWord w))
  | 34 => some (.ldC false (.ofWord w))
  | 35 => some (.ldC true (.ofWord w))
  | 36 => some (.stC false (.ofWord w))
  | 37 => some (.stC true (.ofWord w))
  | 38 => some (.ldP .b16 (.ofWord w))
  | 39 => some (.ldP .b32 (.ofWord w))
  | 40 => some (.ldP .b64 (.ofWord w))
  | 41 => some (.stP .b16 (.ofWord w))
  | 42 => some (.stP .b32 (.ofWord w))
  | 43 => some (.stP .b64 (.ofWord w))
  | 44 => some (.ldAcq false (.ofWord w))
  | 45 => some (.ldAcq true (.ofWord w))
  | 46 => some (.stRel false (.ofWord w))
  | 47 => some (.stRel true (.ofWord w))
  | 48 => some (.fence (.ofWord w))
  | 49 => some (.qsync (.ofWord w))
  | 50 => some (.cpGo (.ofWord w))
  | 51 => some (.cclean (.ofWord w))
  | 52 => some (.ccleanAll (.ofWord w))
  | 53 => some (.cinval (.ofWord w))
  | 54 => some (.cinvalAll (.ofWord w))
  | 55 => some (.pf (.ofWord w))
  | 56 => some (.pfRo (.ofWord w))
  | 57 => some (.hderive (.ofWord w))
  | 58 => some (.hrestrict (.ofWord w))
  | 59 => some (.hget (.ofWord w))
  | 60 => some (.hld (.ofWord w))
  | 61 => some (.hst (.ofWord w))
  | 62 => some (.hmov (.ofWord w))
  | 63 => some (.hvalid (.ofWord w))
  | _ => none

/-- Opcodes 0x180-0x19F of R115. -/
def decMatrix (k : Nat) (w : W64) : Option Instr :=
  match k with
  | 0 => some (.mset false (.ofWord w))
  | 1 => some (.mset true (.ofWord w))
  | 2 => some (.msetI (.ofWord w))
  | 3 => some (.mget false (.ofWord w))
  | 4 => some (.mget true (.ofWord w))
  | 5 => some (.mcall (.ofWord w))
  | 6 => some (.mcallR (.ofWord w))
  | 7 => some (.mstat (.ofWord w))
  | 8 => some (.mstatR (.ofWord w))
  | 9 => some (.rset .base (.ofWord w))
  | 10 => some (.rset .geom (.ofWord w))
  | 11 => some (.rset .ptr (.ofWord w))
  | 12 => some (.rset .bar (.ofWord w))
  | 13 => some (.rset .all (.ofWord w))
  | 14 => some (.rget .base (.ofWord w))
  | 15 => some (.rget .geom (.ofWord w))
  | 16 => some (.rget .ptr (.ofWord w))
  | 17 => some (.rget .bar (.ofWord w))
  | 18 => some (.rget .all (.ofWord w))
  | 19 => some (.rpushW (.ofWord w))
  | 20 => some (.rpushT (.ofWord w))
  | 21 => some (.rpopW (.ofWord w))
  | 22 => some (.rpopT (.ofWord w))
  | 23 => some (.mspillL (.ofWord w))
  | 24 => some (.mspillG (.ofWord w))
  | 25 => some (.mfillL (.ofWord w))
  | 26 => some (.mfillG (.ofWord w))
  | 27 => some (.mclr (.ofWord w))
  | 28 => some (.mclrAll (.ofWord w))
  | 29 => some (.mloadRt (.ofWord w))
  | 30 => some (.mloadCode (.ofWord w))
  | 31 => some (.mloadQ (.ofWord w))
  | _ => none

/-- Opcodes 0x1A0-0x1C1 of R116. -/
def decSystem (k : Nat) (w : W64) : Option Instr :=
  match k with
  | 0 => some (.binit (.ofWord w))
  | 1 => some (.bjoin (.ofWord w))
  | 2 => some (.bleave (.ofWord w))
  | 3 => some (.barr (.ofWord w))
  | 4 => some (.bdrop (.ofWord w))
  | 5 => some (.bexp (.ofWord w))
  | 6 => some (.bwait (.ofWord w))
  | 7 => some (.bpoll (.ofWord w))
  | 8 => some (.atomG (.ofWord w))
  | 9 => some (.atomL (.ofWord w))
  | 10 => some (.redG (.ofWord w))
  | 11 => some (.redL (.ofWord w))
  | 12 => some (.semSig (.x (.ofWord w)))
  | 13 => some (.semPoll (.ofWord w))
  | 14 => some (.semBind (.ofWord w))
  | 15 => some (.semSig (.i (.ofWord w)))
  | 16 => some (.fst (.ofWord w))
  | 17 => some (.fld (.ofWord w))
  | 18 => some (.ffadd false (.ofWord w))
  | 19 => some (.ffadd true (.ofWord w))
  | 20 => some (.fred (.ofWord w))
  | 21 => some (.ffence (.ofWord w))
  | 22 => some (.ffenceF (.ofWord w))
  | 23 => some (.fsig (.ofWord w))
  | 24 => some (.tret (.ofWord w))
  | 25 => some (.tretN (.ofWord w))
  | 26 => some (.tesc (.ofWord w))
  | 27 => some (.cpreempt (.ofWord w))
  | 28 => let f := XForm.ofWord w; if f.mod.getLsbD 0 then some (.cresumeEsc f) else some (.cresume f)
  | 29 => let f := XForm.ofWord w; if f.mod.getLsbD 0 then some (.ctermL f) else some (.cterm f)
  | 30 => some (.cquery (.ofWord w))
  | 31 => some (.cqueryU (.ofWord w))
  | 32 => some (.hintPf (.ofWord w))
  | 33 => some (.hintBank (.ofWord w))
  | _ => none

/-- The op codes of R296; 0x0C-0x3F are reserved. -/
def decMu (k : Nat) (m : MuWord) : Option Instr :=
  match k with
  | 0 => some (.muFeed m)
  | 1 => some (.muStep m)
  | 2 => some (.muAcc m)
  | 3 => some (.muSparse m)
  | 4 => some (.muScale m)
  | 5 => some (.muDrain m)
  | 6 => some (.muClear m)
  | 7 => some (.muPop m)
  | 8 => some (.muLoop m)
  | 9 => some (.muSig m)
  | 10 => some (.muYield m)
  | 11 => some (.muEnd m)
  | _ => none

/-- The instruction of a word by its opcode alone (R112-R116): none for the reserved opcodes 0x1E0-0x1FF. Every
form's fields cover the whole word, so nothing is lost; R121 checks 2-8 are made as the instruction issues. -/
def decodeWord (w : W64) : Option Instr :=
  let op := w.toNat % 512
  if op < 0x02C then decPair (op / 2) (.t (op % 2 == 1) (.ofWord w))
  else if op < 0x03C then decImm32 (op - 0x02C) (.i false (.ofWord w))
  else if op < 0x044 then decImm64 (op - 0x03C) (.i true (.ofWord w))
  else if op < 0x080 then decScalar (op - 0x044) w
  else if op < 0x0AE then decVecPair ((op - 0x080) / 2) (op % 2 == 1) (.ofWord w)
  else if op < 0x0D2 then decVecF ((op - 0x0AE) / 4) (fvarAt ((op - 0x0AE) % 4)) (.ofWord w)
  else if op < 0x0E4 then decVecFun (op - 0x0D2) (.ofWord w)
  else if op < 0x106 then some (.vcvt (cvtDstAt ((op - 0x0E4) / 2)) (op % 2 == 1) (.ofWord w))
  else if op < 0x122 then decVecMove (op - 0x106) (.ofWord w)
  else if op < 0x12F then some (.vred (redOpAt (op - 0x122)) (.ofWord w))
  else if op < 0x13C then some (.vscan (redOpAt (op - 0x12F)) (.ofWord w))
  else if op < 0x140 then decVecEnd (op - 0x13C) (.ofWord w)
  else if op < 0x180 then decMem (op - 0x140) w
  else if op < 0x1A0 then decMatrix (op - 0x180) w
  else if op < 0x1C2 then decSystem (op - 0x1A0) w
  else if h : op < 0x1E0 then some (.hintX ⟨(op - 0x1C2) % 30, Nat.mod_lt _ (by decide)⟩ (.ofWord w))
  else none

/-- The microinstruction of a word of the microprogram store (R296); none for the reserved op codes. -/
def decodeMu (w : W64) : Option Instr := decMu (w.toNat / 2 ^ 58) (w.extractLsb' 0 58)

/-- Why bytes are no instruction word. -/
inductive Reject where
  | tooShort        -- fewer than the eight bytes of an instruction word (R96)
  | reservedOpcode  -- an opcode of 0x1E0-0x1FF (R116, R121 check 1)
  deriving DecidableEq, Repr

/-- The instruction word at the head of a byte string, and the bytes after it (R4, R96). -/
def decodeBytes (bs : List Byte) : Except Reject (Instr × List Byte) :=
  if bs.length < 8 then .error .tooShort
  else match decodeWord (BitVec.ofNat 64 (leNat (bs.take 8))) with
    | some i => .ok (i, bs.drop 8)
    | none => .error .reservedOpcode

/-- The decoder's reading of an instruction whose bits are `w`, numbered from the least significant bit of the word. -/
def decodeTableWord (nbits w : Nat) : Option Instr :=
  match decodeBytes (leBytes 8 (w % 2 ^ (min (nbits + 64 * (if nbits = 0 then 1 else 0)) 64))) with
  | .ok (i, _) => some i
  | .error _ => none

/-- The word of an instruction or microinstruction, from the encoding tables R101-R116 and R296; none for the steps
that are no instruction (packets and events), to which the spec gives no encoding. -/
def encode : Instr → Option W64
  | .sadd o => some (o.enc 0x0 0x2c 0x3c)
  | .ssub o => some (o.enc 0x2 0x2d 0x3d)
  | .smul o => some (o.enc 0x4 0x2e 0x0)
  | .smulh o => some (o.enc 0x6 0x2f 0x0)
  | .sdiv o => some (o.enc 0x8 0x30 0x0)
  | .srem o => some (o.enc 0xa 0x31 0x0)
  | .sand o => some (o.enc 0xc 0x32 0x3e)
  | .sor o => some (o.enc 0xe 0x33 0x3f)
  | .sxor o => some (o.enc 0x10 0x34 0x40)
  | .sandn o => some (o.enc 0x12 0x35 0x0)
  | .sshl o => some (o.enc 0x14 0x36 0x41)
  | .sshr o => some (o.enc 0x16 0x37 0x42)
  | .ssra o => some (o.enc 0x18 0x38 0x43)
  | .smin o => some (o.enc 0x1a 0x39 0x0)
  | .smax o => some (o.enc 0x1c 0x3a 0x0)
  | .sclz o => some (o.enc 0x1e 0x0 0x0)
  | .spop o => some (o.enc 0x20 0x0 0x0)
  | .sbfx o => some (o.enc 0x22 0x44 0x0)
  | .sbfi o => some (o.enc 0x24 0x45 0x0)
  | .ssel o => some (o.enc 0x26 0x0 0x0)
  | .scmp o => some (o.enc 0x28 0x3b 0x0)
  | .smov o => some (o.enc 0x2a 0x0 0x0)
  | .smovi .i32 f => some (f.word 0x46)
  | .smovi .n32 f => some (f.word 0x47)
  | .smovi .i64 f => some (f.word 0x49)
  | .smoviHi f => some (f.word 0x48)
  | .br f => some (f.word 0x4a)
  | .bl f => some (f.word 0x4f)
  | .jr f => some (f.word 0x50)
  | .jl f => some (f.word 0x51)
  | .split f => some (f.word 0x52)
  | .fuse f => some (f.word 0x53)
  | .exit f => some (f.word 0x54)
  | .yield f => some (f.word 0x55)
  | .nop f => some (f.word 0x56)
  | .swait f => some (f.word 0x57)
  | .trap f => some (f.word 0x58)
  | .brk f => some (f.word 0x59)
  | .pand f => some (f.word 0x5a)
  | .por f => some (f.word 0x5b)
  | .pxor f => some (f.word 0x5c)
  | .pandn f => some (f.word 0x5d)
  | .pnot f => some (f.word 0x5e)
  | .pfroms f => some (f.word 0x60)
  | .ptos f => some (f.word 0x61)
  | .pany f => some (f.word 0x62)
  | .pall f => some (f.word 0x63)
  | .ppop f => some (f.word 0x64)
  | .acqRegW f => some (f.word 0x6a)
  | .acqRegT f => some (f.word 0x6b)
  | .acqSpmW f => some (f.word 0x6c)
  | .acqSpmT f => some (f.word 0x6d)
  | .acqMslW f => some (f.word 0x6e)
  | .acqMslT f => some (f.word 0x6f)
  | .relReg f => some (f.word 0x70)
  | .relSpm f => some (f.word 0x71)
  | .relMsl f => some (f.word 0x72)
  | .rwake f => some (f.word 0x73)
  | .rsleep f => some (f.word 0x74)
  | .spdrop f => some (f.word 0x75)
  | .launch f => some (f.word 0x76)
  | .lquery f => some (f.word 0x77)
  | .objmapEnt f => some (f.word 0x78)
  | .objmapExt f => some (f.word 0x79)
  | .objmapMv f => some (f.word 0x7a)
  | .objinv f => some (f.word 0x7b)
  | .objinvCtx f => some (f.word 0x7c)
  | .semmap f => some (f.word 0x7d)
  | .semmapQ f => some (f.word 0x7e)
  | .hmint f => some (f.word 0x7f)
  | .ldG .b8 f => some (f.word 0x140)
  | .ldG .b16 f => some (f.word 0x141)
  | .ldG .b32 f => some (f.word 0x142)
  | .ldG .b64 f => some (f.word 0x143)
  | .ldG .b128 f => some (f.word 0x144)
  | .stG .b8 f => some (f.word 0x145)
  | .stG .b16 f => some (f.word 0x146)
  | .stG .b32 f => some (f.word 0x147)
  | .stG .b64 f => some (f.word 0x148)
  | .stG .b128 f => some (f.word 0x149)
  | .ldwG .b32 f => some (f.word 0x14a)
  | .ldwG .b64 f => some (f.word 0x14b)
  | .ldwG .b128 f => some (f.word 0x14c)
  | .stwG .b32 f => some (f.word 0x14d)
  | .stwG .b64 f => some (f.word 0x14e)
  | .stwG .b128 f => some (f.word 0x14f)
  | .ldGs .b8 f => some (f.word 0x150)
  | .ldGs .b16 f => some (f.word 0x151)
  | .ldGs .b32 f => some (f.word 0x152)
  | .ldGs .b64 f => some (f.word 0x153)
  | .stGs .b8 f => some (f.word 0x154)
  | .stGs .b16 f => some (f.word 0x155)
  | .stGs .b32 f => some (f.word 0x156)
  | .stGs .b64 f => some (f.word 0x157)
  | .ldL .b8 f => some (f.word 0x158)
  | .ldL .b16 f => some (f.word 0x159)
  | .ldL .b32 f => some (f.word 0x15a)
  | .ldL .b64 f => some (f.word 0x15b)
  | .ldL .b128 f => some (f.word 0x15c)
  | .stL .b8 f => some (f.word 0x15d)
  | .stL .b16 f => some (f.word 0x15e)
  | .stL .b32 f => some (f.word 0x15f)
  | .stL .b64 f => some (f.word 0x160)
  | .stL .b128 f => some (f.word 0x161)
  | .ldP .b16 f => some (f.word 0x166)
  | .ldP .b32 f => some (f.word 0x167)
  | .ldP .b64 f => some (f.word 0x168)
  | .stP .b16 f => some (f.word 0x169)
  | .stP .b32 f => some (f.word 0x16a)
  | .stP .b64 f => some (f.word 0x16b)
  | .fence f => some (f.word 0x170)
  | .qsync f => some (f.word 0x171)
  | .cpGo f => some (f.word 0x172)
  | .cclean f => some (f.word 0x173)
  | .ccleanAll f => some (f.word 0x174)
  | .cinval f => some (f.word 0x175)
  | .cinvalAll f => some (f.word 0x176)
  | .pf f => some (f.word 0x177)
  | .pfRo f => some (f.word 0x178)
  | .hderive f => some (f.word 0x179)
  | .hrestrict f => some (f.word 0x17a)
  | .hget f => some (f.word 0x17b)
  | .hld f => some (f.word 0x17c)
  | .hst f => some (f.word 0x17d)
  | .hmov f => some (f.word 0x17e)
  | .hvalid f => some (f.word 0x17f)
  | .msetI f => some (f.word 0x182)
  | .mcall f => some (f.word 0x185)
  | .mcallR f => some (f.word 0x186)
  | .mstat f => some (f.word 0x187)
  | .mstatR f => some (f.word 0x188)
  | .rset .base f => some (f.word 0x189)
  | .rset .geom f => some (f.word 0x18a)
  | .rset .ptr f => some (f.word 0x18b)
  | .rset .bar f => some (f.word 0x18c)
  | .rset .all f => some (f.word 0x18d)
  | .rget .base f => some (f.word 0x18e)
  | .rget .geom f => some (f.word 0x18f)
  | .rget .ptr f => some (f.word 0x190)
  | .rget .bar f => some (f.word 0x191)
  | .rget .all f => some (f.word 0x192)
  | .rpushW f => some (f.word 0x193)
  | .rpushT f => some (f.word 0x194)
  | .rpopW f => some (f.word 0x195)
  | .rpopT f => some (f.word 0x196)
  | .mspillL f => some (f.word 0x197)
  | .mspillG f => some (f.word 0x198)
  | .mfillL f => some (f.word 0x199)
  | .mfillG f => some (f.word 0x19a)
  | .mclr f => some (f.word 0x19b)
  | .mclrAll f => some (f.word 0x19c)
  | .mloadRt f => some (f.word 0x19d)
  | .mloadCode f => some (f.word 0x19e)
  | .mloadQ f => some (f.word 0x19f)
  | .binit f => some (f.word 0x1a0)
  | .bjoin f => some (f.word 0x1a1)
  | .bleave f => some (f.word 0x1a2)
  | .barr f => some (f.word 0x1a3)
  | .bdrop f => some (f.word 0x1a4)
  | .bexp f => some (f.word 0x1a5)
  | .bwait f => some (f.word 0x1a6)
  | .bpoll f => some (f.word 0x1a7)
  | .atomG f => some (f.word 0x1a8)
  | .atomL f => some (f.word 0x1a9)
  | .redG f => some (f.word 0x1aa)
  | .redL f => some (f.word 0x1ab)
  | .semPoll f => some (f.word 0x1ad)
  | .semBind f => some (f.word 0x1ae)
  | .fst f => some (f.word 0x1b0)
  | .fld f => some (f.word 0x1b1)
  | .fred f => some (f.word 0x1b4)
  | .ffence f => some (f.word 0x1b5)
  | .ffenceF f => some (f.word 0x1b6)
  | .fsig f => some (f.word 0x1b7)
  | .tret f => some (f.word 0x1b8)
  | .tretN f => some (f.word 0x1b9)
  | .tesc f => some (f.word 0x1ba)
  | .cpreempt f => some (f.word 0x1bb)
  | .bz w64 f => some (f.word (if w64 then 0x4d else 0x4b))
  | .bnz w64 f => some (f.word (if w64 then 0x4e else 0x4c))
  | .sget w64 f => some (f.word (if w64 then 0x67 else 0x66))
  | .sset w64 f => some (f.word (if w64 then 0x69 else 0x68))
  | .mset w64 f => some (f.word (if w64 then 0x181 else 0x180))
  | .mget w64 f => some (f.word (if w64 then 0x184 else 0x183))
  | .ffadd w64 f => some (f.word (if w64 then 0x1b3 else 0x1b2))
  | .ldC w64 f => some (f.word (if w64 then 0x163 else 0x162))
  | .stC w64 f => some (f.word (if w64 then 0x165 else 0x164))
  | .ldAcq w64 f => some (f.word (if w64 then 0x16d else 0x16c))
  | .stRel w64 f => some (f.word (if w64 then 0x16f else 0x16e))
  | .pmov (.t f) => some (f.word 0x5f)
  | .pmov (.i f) => some (f.word 0x65)
  | .semSig (.x f) => some (f.word 0x1ac)
  | .semSig (.i f) => some (f.word 0x1af)
  | .vadd w64 f => some (f.word (if w64 then 0x81 else 0x80))
  | .vsub w64 f => some (f.word (if w64 then 0x83 else 0x82))
  | .vmul w64 f => some (f.word (if w64 then 0x85 else 0x84))
  | .vmulh w64 f => some (f.word (if w64 then 0x87 else 0x86))
  | .vmad w64 f => some (f.word (if w64 then 0x89 else 0x88))
  | .vand w64 f => some (f.word (if w64 then 0x8b else 0x8a))
  | .vor w64 f => some (f.word (if w64 then 0x8d else 0x8c))
  | .vxor w64 f => some (f.word (if w64 then 0x8f else 0x8e))
  | .vandn w64 f => some (f.word (if w64 then 0x91 else 0x90))
  | .vshl w64 f => some (f.word (if w64 then 0x93 else 0x92))
  | .vshr w64 f => some (f.word (if w64 then 0x95 else 0x94))
  | .vsra w64 f => some (f.word (if w64 then 0x97 else 0x96))
  | .vmin w64 f => some (f.word (if w64 then 0x99 else 0x98))
  | .vmax w64 f => some (f.word (if w64 then 0x9b else 0x9a))
  | .vabs w64 f => some (f.word (if w64 then 0x9d else 0x9c))
  | .vclz w64 f => some (f.word (if w64 then 0x9f else 0x9e))
  | .vpop w64 f => some (f.word (if w64 then 0xa1 else 0xa0))
  | .vbfx w64 f => some (f.word (if w64 then 0xa3 else 0xa2))
  | .vbfi w64 f => some (f.word (if w64 then 0xa5 else 0xa4))
  | .vsel w64 f => some (f.word (if w64 then 0xa7 else 0xa6))
  | .vmov w64 f => some (f.word (if w64 then 0xa9 else 0xa8))
  | .vmovs w64 f => some (f.word (if w64 then 0xab else 0xaa))
  | .vmovsGet w64 f => some (f.word (if w64 then 0xab else 0xaa))
  | .vcmp w64 f => some (f.word (if w64 then 0xad else 0xac))
  | .vfadd t f => some (f.word (BitVec.ofNat 9 (0xae + t.index)))
  | .vfsub t f => some (f.word (BitVec.ofNat 9 (0xb2 + t.index)))
  | .vfmul t f => some (f.word (BitVec.ofNat 9 (0xb6 + t.index)))
  | .vfma t f => some (f.word (BitVec.ofNat 9 (0xba + t.index)))
  | .vfmin t f => some (f.word (BitVec.ofNat 9 (0xbe + t.index)))
  | .vfmax t f => some (f.word (BitVec.ofNat 9 (0xc2 + t.index)))
  | .vfrnd t f => some (f.word (BitVec.ofNat 9 (0xc6 + t.index)))
  | .vfclass t f => some (f.word (BitVec.ofNat 9 (0xca + t.index)))
  | .vfcmp t f => some (f.word (BitVec.ofNat 9 (0xce + t.index)))
  | .vrcp .f32 f => some (f.word 0xd2)
  | .vrcp .f16x2 f => some (f.word 0xd3)
  | .vrcp .f64 f => some (f.word 0xd4)
  | .vrsqrt false f => some (f.word 0xd5)
  | .vrsqrt true f => some (f.word 0xd6)
  | .vsqrt .f32 f => some (f.word 0xd7)
  | .vsqrt .f16x2 f => some (f.word 0xd8)
  | .vsqrt .f64 f => some (f.word 0xd9)
  | .vexp2 false f => some (f.word 0xda)
  | .vexp2 true f => some (f.word 0xdb)
  | .vlog2 false f => some (f.word 0xdc)
  | .vlog2 true f => some (f.word 0xdd)
  | .vsin false f => some (f.word 0xde)
  | .vsin true f => some (f.word 0xdf)
  | .vcos false f => some (f.word 0xe0)
  | .vcos true f => some (f.word 0xe1)
  | .vfdot2 false f => some (f.word 0xe2)
  | .vfdot2 true f => some (f.word 0xe3)
  | .vcvt d i f => some (f.word (BitVec.ofNat 9 (0xe4 + 2 * d.index + i.toNat)))
  | .vpack .e2m1 f => some (f.word 0x106)
  | .vpack .e3m2 f => some (f.word 0x107)
  | .vpack .b8 f => some (f.word 0x108)
  | .vpack .b16 f => some (f.word 0x109)
  | .vunpack .e2m1 f => some (f.word 0x10a)
  | .vunpack .e3m2 f => some (f.word 0x10b)
  | .vunpack .b8 f => some (f.word 0x10c)
  | .vunpack .b16 f => some (f.word 0x10d)
  | .vmxq .e4m3 f => some (f.word 0x10e)
  | .vmxq .e5m2 f => some (f.word 0x10f)
  | .vmxq .e3m2 f => some (f.word 0x110)
  | .vmxq .e2m3 f => some (f.word 0x111)
  | .vmxq .e2m1 f => some (f.word 0x112)
  | .vmxq .i8 f => some (f.word 0x113)
  | .vmxd .e4m3 f => some (f.word 0x114)
  | .vmxd .e5m2 f => some (f.word 0x115)
  | .vmxd .e3m2 f => some (f.word 0x116)
  | .vmxd .e2m3 f => some (f.word 0x117)
  | .vmxd .e2m1 f => some (f.word 0x118)
  | .vmxd .i8 f => some (f.word 0x119)
  | .vperm false f => some (f.word 0x11a)
  | .vperm true f => some (f.word 0x11b)
  | .vxshf false f => some (f.word 0x11c)
  | .vxshf true f => some (f.word 0x11d)
  | .vrot false f => some (f.word 0x11e)
  | .vrot true f => some (f.word 0x11f)
  | .vbcl false f => some (f.word 0x120)
  | .vbcl true f => some (f.word 0x121)
  | .vred o f => some (f.word (BitVec.ofNat 9 (0x122 + o.index)))
  | .vscan o f => some (f.word (BitVec.ofNat 9 (0x12f + o.index)))
  | .vcompress false f => some (f.word 0x13c)
  | .vcompress true f => some (f.word 0x13d)
  | .vexpand false f => some (f.word 0x13e)
  | .vexpand true f => some (f.word 0x13f)
  | .cresume f => some (f.word 0x1bc)
  | .cresumeEsc f => some (f.word 0x1bc)
  | .cterm f => some (f.word 0x1bd)
  | .ctermL f => some (f.word 0x1bd)
  | .cquery f => some (f.word 0x1be)
  | .cqueryU f => some (f.word 0x1bf)
  | .hintPf f => some (f.word 0x1c0)
  | .hintBank f => some (f.word 0x1c1)
  | .hintX op f => some (f.word (BitVec.ofNat 9 (0x1c2 + op.val)))
  | .muFeed m => some (muWord 0 m)
  | .muStep m => some (muWord 1 m)
  | .muAcc m => some (muWord 2 m)
  | .muSparse m => some (muWord 3 m)
  | .muScale m => some (muWord 4 m)
  | .muDrain m => some (muWord 5 m)
  | .muClear m => some (muWord 6 m)
  | .muPop m => some (muWord 7 m)
  | .muLoop m => some (muWord 8 m)
  | .muSig m => some (muWord 9 m)
  | .muYield m => some (muWord 10 m)
  | .muEnd m => some (muWord 11 m)
  | _ => none

end Sys2Proof
end

