-- ==== Sys2Proof/Config.lean ====
section
/-! DEFINITION. What the spec leaves open and a device or run fixes: opaque constants, of which nothing can be proved
(notes/assumptions 2, 3, 7, 8), and the fixed sizes of the device (01 R16, 05 R127). -/

namespace Sys2Proof.Config

/-- The n-th free choice: which agent moves, which line is replaced, which of two allowed values is read. -/
opaque pick : Nat → Nat
/-- The nanoseconds of fabric time that pass in the n-th step (cycles are not counted). -/
opaque elapse : Nat → Nat
/-- The n-th free word: a value the spec states no bits of. -/
opaque freeWord : Nat → Nat
/-- Bytes fixed at manufacture or by fuses: die capability tables (01 R19), serials and keys (01 R27). -/
opaque fixedByte : Nat → Nat → Byte
/-- The fuses' four key slots (01 R27): the SHA-384 digest of each slot's public key, and its revoke bit. -/
opaque keyDigest : Nat → List Byte
opaque keyRevoked : Nat → Bool
/-- What the header of an image names (01 R27), its layout not being given; `signed` is the header without its signature. -/
structure ImageHeader where
  slot : Nat
  version : Nat
  length : Nat
  key : List Byte
  signature : List Byte
  signed : List Byte
  size : Nat
  deriving DecidableEq, Repr, Inhabited
opaque imageHeader : List Byte → ImageHeader
/-- An ECDSA signature holds for a brainpoolP384r1 key and a digest (01 R27): the curve's arithmetic is not given. -/
opaque ecdsaHolds : List Byte → List Byte → List Byte → Bool
/-- The security version that an image's header names. -/
def imageVersion (bs : List Byte) : Nat := (imageHeader bs).version
/-- What an image's body says (22 R453): mailbox range, entry of the supervisor's first procedure (02 R44). -/
opaque imageRange : List Byte → Nat × Nat
opaque imageEntry : List Byte → Nat
/-- The self-test result and detail of a unit in the n-th test (01 R31). -/
opaque selfTest : Nat → Nat → Nat × Nat
/-- Whether the FLASH_WP strap ball is tied high (01 R29). -/
opaque flashWriteProtected : Bool
/-- What a microcode image makes of the library on a core kind (12 R293, R307: not given): start and length of a routine, and the words of the
library area; and what covers a library routine's own progress in a routine record. -/
opaque libraryEntry : List Byte → Nat → Nat → Nat
opaque libraryWord : List Byte → Nat → Nat → W64
opaque libraryMask : Nat → W64
/-- Payloads whose layout the spec does not give: Get Identity (01 R32) of the counters, Get Versions (22 R451) of the versions. -/
opaque identityPayload : List (Nat × Nat) → List Byte
opaque versionsPayload : List (Nat × Nat × Nat × Nat) → List Byte
/-- Payload bytes of the CXL 3.1 commands the hub answers by itself (01 R39), by opcode and count. -/
opaque cxlPayload : Nat → Nat → List Byte
/-- CXL.io (01 R35, R37), laid out by CXL 3.1 and PCIe: the bytes of configuration space, the bits of each that a write changes, the
feature of R35 whose capability structure a byte belongs to; the bytes of the mailbox and component registers, by offset and count. -/
opaque configByte : Nat → Byte
opaque configMask : Nat → Byte
opaque configFeature : Nat → Option Nat
opaque barByte : Nat → Nat → Byte
/-- Whether the supervisor's policy grants a request (01 R40), and other firmware policy. -/
opaque policy : Nat → Bool

/-- Lattice cores: 8 chiplets of 16; stream cores: 4 of 4; control cores: 8 (R16). -/
def latticeDies : Nat := 8
def streamDies : Nat := 4
def controlCores : Nat := 8

end Sys2Proof.Config
end

