-- ==== Sys2Proof/Machine/State.lean ====
section
/-! DEFINITION. The state of the W7 as plain data, the reasons a step can stop, and the state after reset.
Tables are lists of (key, value) pairs in rising key order with a default for the keys not listed.
Keys: a group is 32·unit + slot, a block 16·unit + block slot, a split entry 8·group + entry. -/

namespace Sys2Proof.Machine

/-- A sparse table, ordered by key. -/
abbrev Tab (α : Type) := List (Nat × α)
/-- Bytes of all memories in one key space (`Ops.lean`), rising, no entry equal to 0 (notes/assumptions 4). -/
abbrev Memory := List Host.Cell

/-- A handle register: 128 bits and the hidden valid bit (R55); the null handle by default. -/
structure HandleReg where
  bits : W128 := 0
  valid : Bool := true
  deriving DecidableEq, Repr

/-- One write of a result: what lands in a register (R150), a status word or an owned unit. -/
inductive Wr where
  | s (r : Nat) (x : W32) (pz : Bool)
  | p (r : Nat) (mask bits : W32)
  | h (r : Nat) (x : HandleReg) (pz : Bool)
  | v (r : Nat) (mask : W32) (xs : List W32) (pz : W32)
  | m (r : Nat) (mask x : W64)
  | special (n : Nat) (wide : Bool) (x : W64)
  | lfsr (t : Tab W32)
  | flags (f : BitVec 5)
  | grantReg (blocks : List (Nat × Nat))
  | grantSpm (granules : List Nat)
  | grantMsl (slots : List (Nat × Nat))
  deriving DecidableEq, Repr

/-- An entry of the forwarding window (R141): the results of one issued instruction. -/
structure WinEntry where
  seq : Nat
  due : Nat
  wrs : List Wr
  landed : Bool := false
  overwritten : Bool := false
  dead : Bool := false
  deriving DecidableEq, Repr

/-- The state of a scoreboard slot (R143). -/
inductive SlotState where
  | free | busy | complete
  deriving DecidableEq, Repr

/-- What a trap writes into the trap registers (R386, R387). -/
structure TrapInfo where
  cause : Nat
  stop : Nat := 0
  src : Nat := 0
  fmask : W32 := 0
  addr : Nat := 0
  addr2 : Nat := 0
  info : Nat := 0
  pc : Option Nat := none      -- `some` where the cause's rule names another word than the instruction's
  clause : Option Nat := none
  deriving DecidableEq, Repr

/-- A scoreboard slot (R143, R144): the operation that took it and its unlanded result. -/
structure Slot where
  st : SlotState := .free
  seq : Nat := 0
  opcode : Nat := 0
  wrs : List Wr := []
  isLoad : Bool := false
  request : Option Nat := none   -- a pending acquisition, laid out as R61
  hold : Bool := false           -- its group issues nothing until it completes (R230)
  fail : Option TrapInfo := none -- the trap made at the wait (R378, R401, R410)
  deriving DecidableEq, Repr

/-- A fetched clause (R96, R97). -/
structure Clause where
  start : Nat
  header : W64
  words : List W64
  lits : List W64
  deriving DecidableEq, Repr

/-- A wait in progress (R402, R403). -/
structure WaitRec where
  kind : Nat
  item : Nat
  addr2 : Nat
  since : Nat
  limit : Nat
  watch : Option Nat := none   -- the barrier object that a `bwait` waits on, and what it has been seen as since (R330)
  seen : Nat := 0
  deriving DecidableEq, Repr

/-- A restart mark (R394). -/
structure Mark where
  clause : Nat
  pc : Nat
  atHeader : Bool
  skip : Bool
  tick : Nat
  win : List WinEntry
  slots : Tab Slot
  seq : Nat
  deriving DecidableEq, Repr

/-- An ordering hold: no later access instruction issues until the accesses are performed (R271, R272, R330, R378). -/
structure Hold where
  ids : List Nat
  dropL1 : Bool
  deriving DecidableEq, Repr

/-- A split-table entry with the private state of its sub-group (R133, R136). -/
structure Sub where
  st : Nat := 0                -- R133 state: 0 free 1 running 2 waiting at fuse 3 exited 4 suspended
  pc : Nat := 0
  lanes : W32 := 0
  pair : Nat := 7
  s : Tab W32 := []
  sDead : W64 := 0
  sPz : W64 := 0
  h : Tab HandleReg := []
  hDead : W32 := 0
  hPz : W32 := 0
  tick : Nat := 0
  win : List WinEntry := []
  slots : Tab Slot := []
  clause : Option Clause := none
  idx : Nat := 0
  headerMet : Bool := false
  tokTaken : Bool := false
  resumeAt : Option Nat := none  -- R393: issue begins at this word of the clause
  mark : Option Mark := none
  wait : Option WaitRec := none
  elapsed : Nat := 0           -- kept elapsed time of a wait (R429)
  stopped : Bool := false      -- stopped by a sibling's trap (R388)
  tokensOnly : Bool := false   -- resumed inside the clause: of the header's waits only the token waits apply (R393)
  badPc : Bool := false        -- the pc stands for a transfer target outside 0 to 2^40 - 1 (R104, R190)
  clauseSeq : Nat := 0         -- names below this one were given before the clause was fetched
  trapTokens : Bool := false   -- the tokens of the clause it trapped in were taken (R393)
  resumeSkip : Bool := false   -- issue begins at the word after `resumeAt`
  resumeMark : Bool := false   -- its resume point is a mark (R394)
  portTraps : List (Option Nat × TrapInfo × Nat) := [] -- failures reported on stream and control cores: slot, trap, access (R401)
  lastIssue : Nat := 0
  idle : Nat := 0              -- idle count of the instruction last issued (R138)
  yielded : Bool := false
  suspension : Option (Nat × Nat × Nat × Nat) := none  -- kind, object, offset, handle of what it is suspended on (R400)
  deriving DecidableEq, Repr

/-- A shadowed register (R395): its value, liveness and poison before the first landing of the region. -/
structure Shadow where
  entry : Nat
  wr : Wr
  dead : Bool
  pz : Bool := false           -- poison of a predicate
  deriving DecidableEq, Repr

/-- A pending fabric error record (R378). -/
structure FabErr where
  status : Nat
  chip : Nat
  count : Nat
  addr : Nat
  addr2 : Nat
  deriving DecidableEq, Repr

/-- The trap registers (R198, R386). -/
structure TrapRegs where
  cause : W32 := 0
  pc : W64 := 0
  clause : W64 := 0
  amask : W32 := 0
  fmask : W32 := 0
  addr : W64 := 0
  addr2 : W64 := 0
  info : W32 := 0
  deriving DecidableEq, Repr

/-- A group (R127) with its shared state (R136, R423). -/
structure Group where
  present : Bool := false
  block : Nat := 0
  gidx : Nat := 0
  v : Tab W32 := []            -- key 32·r + lane
  vDead : BitVec 256 := 0
  vPz : Tab W32 := []
  p : Tab W32 := []
  pDead : BitVec 128 := 0
  pPz : BitVec 128 := 0
  own : List (Nat × Nat) := [] -- logical block, physical block (R148); from 4096 up: granted, not yet within reach (R202)
  fpcsr : W32 := 0
  lfsr : Tab W32 := []
  lpBase : W32 := 0
  umpLim : Nat := 10000000
  ctx : Nat := 0
  tr : TrapRegs := {}
  handler : Bool := false
  handlerSeq : Nat := 0        -- names below this one were given before the handler was entered
  doubleTrap : Bool := false
  escalated : Bool := false
  escRelease : Bool := false
  m : Tab W64 := []
  reg : Tab W64 := []          -- registration entries (R323)
  subs : Tab Sub := []
  pairs : Tab (Bool × Nat) := []
  shadow : List Shadow := []
  shadowUsed : List (Nat × Nat) := [] -- entry, register key: shadow entries in use (R395)
  pend : Option FabErr := none
  failed : List Nat := []      -- chips that an access of the group has failed at (R377)
  holds : List Hold := []
  trapping : Option (Nat × TrapInfo) := none -- a trap whose entry commit is not complete (R388)
  sleeping : Option Nat := none
  exited : Bool := false
  codeH : HandleReg := {}      -- the hidden handle of the trap handler (R389)
  sigs : List (Nat × List Nat) := [] -- token signals pending: channels' mask (bit 4: its wait timed out, at the offset from bit 5), accesses awaited (R160)
  deriving DecidableEq, Repr

/-- Amounts of the three kinds of resource (R83). -/
structure Res where
  reg : Nat := 0
  spm : Nat := 0
  msl : Nat := 0
  deriving DecidableEq, Repr

/-- The resolved values of a region (R47, R51), with its path to region 0 and the budgets on it (R49). -/
structure RegionVals where
  num : Nat := 0
  budgets : List (Nat × Res) := []
  prio : Nat := 0
  pclass : Nat := 0
  bpol : Nat := 0
  trapObj : Nat := 0
  trapPc : Nat := 0
  umpLim : Nat := 10000000
  permLaunch : Bool := false
  permUcode : Bool := false
  objLo : Nat := 0
  objHi : Nat := 0
  semLo : Nat := 0
  semHi : Nat := 0
  roots : List Nat := []       -- regions of the path whose fd.root is 1, nearest first (R50)
  path : List Nat := []
  deriving DecidableEq, Repr

/-- A ring register (R289) and its taken tiles, oldest first: the tile, its taker and whether it is written (R291). -/
structure Ring where
  base : Nat := 0
  tsize : Nat := 0
  cap : Nat := 0
  flt : Bool := false
  en : Bool := false
  head : Nat := 0
  full : Nat := 0
  rsv : Nat := 0
  bar : Nat := 0
  taken : List (Nat × Nat × Bool) := []
  deriving DecidableEq, Repr

/-- The copy fault record (R258). -/
structure CopyFault where
  srcOff : Int := 0
  dstOff : Int := 0
  reason : Nat := 0
  count : Nat := 0
  deriving DecidableEq, Repr

/-- A barrier update (R319). -/
inductive BarUpdate where
  | drop (gidx : Nat) (implicit : Bool) (group access : Nat)
  | arrive (order expect landed : Nat) (group access : Option Nat)
  | expect (n access : Nat)
  | landing (n : Nat)
  | fault (s : Nat)
  deriving DecidableEq, Repr

/-- A block (R83, R421, R422). -/
structure Block where
  present : Bool := false
  launch : Nat := 0
  idx : Nat := 0
  x : Nat := 0
  y : Nat := 0
  z : Nat := 0
  ctx : Nat := 0
  rv : RegionVals := {}
  claim : Res := {}
  held : Res := {}
  asked : Res := {}            -- requests still in check or waiting (R201)
  groups : List Nat := []      -- group keys, ascending group index
  gran : List Nat := []        -- physical granule of each logical granule; from 4096 up: not yet within reach (R202)
  slots : Tab Nat := []        -- physical slot of each logical slot held, likewise
  rings : Tab Ring := []
  copyFault : Option CopyFault := none
  tokens : Tab Nat := []
  discards : Nat := 0
  csize : Nat := 1
  members : List Nat := []     -- the blocks of its cluster set, by member
  atEntry : Bool := false      -- held at entry (R80, R81)
  saving : Option (Nat × Bool × Nat) := none -- frame, hold, the preempting slot's name (R417, R436)
  terminated : Bool := false
  updates : List (Nat × BarUpdate) := [] -- updates reaching barrier objects: offset, update (R320)
  routineFault : Tab (Nat × Nat × Nat × Nat × Nat) := [] -- by barrier offset: upc, offset, reason, routine, slot (R305)
  deriving DecidableEq, Repr

/-- Power state of a bank (R152, R154). -/
inductive Bank where
  | on | retention | off
  | waking (fromOff : Bool)
  deriving DecidableEq, Repr

/-- Where a library routine stands (R307): blocks done, its stage in the block, the offset of the next record of B. -/
structure Lib where
  k : Nat := 0
  stage : Nat := 0
  ob : Nat := 0
  deriving DecidableEq, Repr

/-- A matrix slot and the routine it runs (R287, R295, R306). -/
structure MSlot where
  st : Nat := 0
  reason : Nat := 0
  routine : Nat := 0
  upc : Nat := 0
  acc : Tab W32 := []          -- key N·i + j
  accPz : List Nat := []
  holder : Option (Nat × Nat) := none -- an mspill or mfill that holds it busy: its access, the state to restore
  block : Nat := 0
  logical : Nat := 0
  w : Tab W64 := []
  mode : Nat := 0
  a : Option (Nat × List (List (Option Nat))) := none -- format, rows of 32 elements (absent: none)
  b : Option (Nat × List (List (Option Nat))) := none
  sa : Option (List Nat) := none
  sb : Option (List Nat) := none
  buf : Option Bool := none    -- the block buffer is full; its mx bit (the products are those of the latches then)
  bufA : Nat × List (List (Option Nat)) := (0, [])
  bufB : Nat × List (List (Option Nat)) := (0, [])
  nbytes : Nat := 0
  bar : Nat := 0xFFFFFFFF
  lib : Option Lib := none
  drainTile : Option (Nat × Nat) := none -- the ring tile that a drain has taken and that is not pushed yet, and its taker
  drainLeft : Option (List Nat) := none -- bytes of the tile that a drain has still to write (R348)
  after : List Nat := []       -- accesses that the routine's own follow (R351)
  deriving DecidableEq, Repr

/-- An acquisition request (R201). -/
structure Request where
  id : Nat
  block : Nat
  group : Nat
  entry : Nat
  kind : Nat
  n : Nat
  slot : Option Nat
  deriving DecidableEq, Repr

/-- A core (R127) with its claim checker, banks, matrix engine and, on CT0, its start and trap vector registers. -/
structure Core where
  requests : List Request := []
  waiters : List Request := []
  scan : List Nat := []        -- waiters to re-check, by id (R87)
  check : Option (Request × Nat) := none -- the running check and its result (0 granted 1 unavailable 2 unsafe)
  released : Bool := false     -- a release took effect during the running check (R95)
  answers : Tab Nat := []      -- results of trying requests not yet taken up, by group·8 + entry
  regBank : Tab Bank := []
  spmBank : Tab Bank := []
  drops : List (Nat × Nat) := [] -- scratchpad banks dropped before the accesses named below a name were performed there (R265)
  wakers : List (Nat × Nat × Nat × Nat) := [] -- rwake slots awaiting a bank: bank, group, entry, slot (R204)
  mslots : Tab MSlot := []
  rt : Tab W32 := []
  store : Tab W64 := []
  owner : Option Nat := none
  startObj : Tab Nat := []
  startEntry : Tab Nat := []
  startArg : Tab W64 := []
  tvec : Nat := 0
  deriving DecidableEq, Repr

/-- Where an access element is performed: a key of the one memory, a device register, a remote chip, a semaphore. -/
inductive Loc where
  | unresolved
  | mem (key : Nat)
  | dev (pa : Nat)
  | remote (chip addr : Nat)
  deriving DecidableEq, Repr

/-- One element of an access: its lane, the register of the lane's value it belongs to, handle offset, object offset,
bytes, place, store data and read result. -/
structure Elem where
  lane : Nat
  part : Nat := 0
  off : Nat
  obj : Nat
  n : Nat
  loc : Loc := .unresolved
  flags : Nat := 0             -- bit 0: the extent's ord; bit 1: hcap; bit 2: may be held in a read cache (R249, R251)
  data : List Byte := []
  result : List Byte := []
  own : List (Option Byte) := [] -- what its group's earlier stores give its bytes, where it is read on a remote chip (R269)
  left : List Nat := []        -- bytes of a tile's element still to be moved (R348)
  pz : Bool := false
  done : Bool := false
  tag : Bool := false
  deriving DecidableEq, Repr

/-- What an access does (R269). -/
inductive AccKind where
  | load | store | hld | hst
  | launch
  | atom (op : Nat)
  | red (op : Nat)
  | semSig (v : Nat) (value : W64)
  | semPoll (v : Nat)
  | semBind (v : Nat) (value : W64) (bar : Nat)
  | barr (bar : Nat) (bytes : Nat)
  | bdrop (bar : Nat)
  | bexp (bar : Nat) (bytes : Nat)
  | binit (bar parties : Nat) (once : Bool)
  | exitDrop (bar : Nat)
  | mspill (slot : Nat)
  | mfill (slot : Nat)
  | fabric (op : Nat)
  | fsig (flag : Bool) (chip vsem : Nat) (value : W64)
  | clean
  deriving DecidableEq, Repr

/-- An access in flight (R269, R270, R396). -/
structure Access where
  id : Nat
  group : Nat
  entry : Nat
  block : Nat
  kind : AccKind
  size : Nat := 4
  ctx : Nat := 0
  hbits : W128 := 0
  hreg : Nat := 0
  off0 : Nat := 0               -- the handle offset of lane 0 (R378)
  local_ : Bool := false        -- a scratchpad of the device, whose checks were made at issue
  member : Option Nat := none   -- the block whose scratchpad it reaches (R246)
  elems : List Elem := []
  signed : Bool := false
  dst : Nat := 0
  scalar : Bool := false
  cacheMod : Nat := 0
  slot : Option Nat := none
  seq : Nat := 0
  pc : Nat := 0
  clause : Nat := 0
  release : Nat := 0            -- 0: gated; otherwise its place in the store queue
  accepted : Bool := false
  after : List Nat := []        -- accesses that must be performed first
  sent : Bool := false
  paused : Bool := false        -- met step 8 on a core without restart regions (R401)
  acquire : Bool := false
  dropL1 : Bool := false
  error : Nat := 0              -- status of its first failed packet (R369), with the packet's chip and address
  errChip : Nat := 0
  errChips : List Nat := []     -- every chip that a packet of it has failed at (R377)
  errAddr : Nat := 0
  fail : Option TrapInfo := none -- a port failure found and not yet reported (R399, R401)
  suspends : Bool := false      -- the failure is that of R57 step 8
  deriving DecidableEq, Repr

/-- A copy in flight (R253-R258). -/
structure Copy where
  id : Nat
  block : Nat
  ctx : Nat
  desc : List Byte
  srcH : HandleReg
  dstH : HandleReg
  srcReg : Nat
  dstReg : Nat
  started : Bool := false
  paused : Bool := false
  tile : Option Nat := none
  left : List Nat := []        -- linear indices of the elements not landed yet
  part : Tab (List Nat) := []  -- bytes still to be moved of the elements begun (R348)
  entry : Nat := 0             -- its range-scoreboard entry (R259)
  spans : List (Option Nat × Int × Int) := [] -- source and destination span: object, or the scratchpad (R256)
  after : List Nat := []
  ringBase : Nat := 0
  failed : Option (Nat × Nat) := none -- the lowest failing element found and its reason (R258)
  stuck : Option (Nat × Nat) := none -- the object and offset that it is paused on
  deriving DecidableEq, Repr

/-- An accepted launch (R75-R81, R433). -/
structure Launch where
  num : Nat := 0
  ctx : Nat := 0
  desc : List Byte := []
  tags : List Bool := []
  supervisor : Bool := false
  rv : RegionVals := {}
  pclass : Nat := 0
  edges : List Byte := []
  satisfied : List Nat := []
  st : Nat := 1                -- R210: 1 waiting on edges, 2 ready, 3 running, 4 every block retired
  total : Nat := 0
  next : Nat := 0
  retired : Nat := 0
  lost : Nat := 0
  lostAt : List Nat := []      -- linear indices of the blocks lost
  discards : Nat := 0
  first : Nat := 0xFFFFFFFF
  unit : Nat := 0xFFFF
  flags : Nat := 0
  age : Nat := 0
  passed : Option Nat := none  -- fabric time since which it has been passed over (R78)
  reserving : Bool := false
  started : Bool := false
  status : Nat := 0
  pending : Bool := false      -- its record write waits for a non-resident extent (R432)
  deriving DecidableEq, Repr

/-- A launch whose acceptance waits for its edge records (R65): issuer, slot, context, descriptor, handle tags. -/
structure PendingLaunch where
  group : Nat
  entry : Nat
  slot : Nat
  seq : Nat
  dst : Nat
  ctx : Nat
  desc : List Byte
  tags : List Bool
  supervisor : Bool
  region : Nat
  deriving DecidableEq, Repr

/-- A context register block (R68) with its placement (R89), record ring (R406), fabric (R364, R365) and semaphores (R214). -/
structure Context where
  rtBase : Nat := 0
  rtCount : Nat := 0
  otBase : Nat := 0
  otCount : Nat := 0
  pasid : Nat := 0
  tdack : Bool := false
  torn : Bool := false
  bound : Bool := false
  urefused : Bool := false
  semmap : Tab Nat := []
  lmask : Nat := 0
  smask : Nat := 0
  pref : Nat := 0
  ftid : Nat := 0
  fsemHi : Nat := 0
  fsemLo : Nat := 0
  fen : Bool := false
  windows : Tab Nat := []
  deriving DecidableEq, Repr

/-- A record ring register (R406). -/
structure RecRing where
  base : Nat := 0
  log2n : Nat := 0
  ssem : Nat := 0
  head : Nat := 0
  tail : Nat := 0
  lost : Nat := 0
  en : Bool := false
  deriving DecidableEq, Repr

/-- A launch queue (R69, R72, R73). -/
structure Queue where
  base : Nat := 0
  loc : Nat := 0
  log2n : Nat := 0
  ctx : Nat := 0
  ssem : Nat := 0
  tail : Nat := 0
  head : Nat := 0
  pend : Nat := 0
  st : Nat := 0
  inbox : Tab (List Byte) := []
  fetching : Bool := false
  paging : Bool := false
  deriving DecidableEq, Repr

/-- An armed semaphore binding (R339). -/
structure Binding where
  launch : Nat
  idx : Nat
  sem : Nat
  value : Nat
  bar : Nat
  fired : Bool := false        -- fired while its block is saved (R341, R429)
  deriving DecidableEq, Repr

/-- A saved image and its frame (R419, R427). -/
structure Frame where
  num : Nat
  launch : Nat
  block : Nat
  ctx : Nat
  unit : Nat
  bslot : Nat := 0
  claim : Res
  hold : Bool
  queued : Option Nat := none  -- its place in the resume queue
  prio : Nat := 0
  rv : RegionVals := {}
  info : Block := {}
  groups : List (Nat × Group) := [] -- by gidx: what the resumed groups continue from (R429)
  mslots : Tab MSlot := []     -- by logical slot, likewise
  terminated : Bool := false
  deriving DecidableEq, Repr

/-- The save pool (R419). -/
structure Pool where
  lbase : Nat := 0
  lcount : Nat := 0
  sbase : Nat := 0
  scount : Nat := 0
  en : Bool := false
  deriving DecidableEq, Repr

/-- The mailbox port (R39) and the replies given to the host. -/
structure Mailbox where
  pend : Bool := false
  len : Nat := 0
  opcode : Nat := 0
  olen : Nat := 0
  ssem : Nat := 0
  signed : Bool := false
  payload : Memory := []
  replies : List (Nat × List Byte) := []
  deriving DecidableEq, Repr

/-- A power register (R447) with the values applied. -/
structure Power where
  temp : Nat := 0
  occ : Nat := 0
  bias : Nat := 0
  relock : Bool := false
  trip : Bool := false
  opp : Nat := 7
  applied : Nat := 7
  appliedBias : Nat := 0
  clamp : Nat := 0             -- operating points that the current clamp has lowered the cluster by (R449)
  since : Nat := 0             -- when the relock began
  deriving DecidableEq, Repr

/-- A Pyrrath port (R363, R368). -/
structure Port where
  replays : Nat := 0
  discards : Nat := 0
  peer : Nat := 0
  pport : Nat := 0
  pause : Nat := 0
  st : Nat := 0
  cap : Bool := false
  header : Nat := 0
  asks : List Nat := []        -- times of the replay requests without progress, of the last 1 ms
  deriving DecidableEq, Repr

/-- An operation outstanding on the fabric (R369): tag, access, elements carried, request, time sent, port. -/
structure Outstanding where
  tag : Nat
  access : Nat
  elems : List Nat
  req : Packet
  sent : Nat
  limit : Nat
  port : Nat                   -- 8·d + p, or 64 for the chip's own receive side
  deriving DecidableEq, Repr

/-- A cached line of an L1 or stream read cache (R249, R251): its tag, the key of its bytes, the values that each byte has had since the fill,
poison beside them (R347), and the cores of its chiplet that do not hit it. -/
structure Line where
  ctx : Nat
  obj : Nat
  gen : Nat
  off : Nat
  key : Nat
  vals : List (List (Byte × Bool))
  not : List Nat := []
  deriving DecidableEq, Repr

/-- A table entry or extent cached at the hub port (R52). -/
structure Cached where
  ctx : Nat
  obj : Nat
  key : Nat
  val : Nat
  deriving DecidableEq, Repr

/-- An objmap.mv under way (R212). -/
structure Move where
  group : Nat
  entry : Nat
  slot : Nat
  seq : Nat
  ctx : Nat
  obj : Nat
  index : Nat
  dst : Nat
  image : Nat
  old : Nat
  deriving DecidableEq, Repr

/-- The state of power-on and firmware (01, 22). -/
structure Boot where
  step : Nat := 0
  safe : Bool := false         -- the safe enumerated state (R32)
  tests : Tab (Nat × Nat) := [] -- by unit number: result, detail (R31)
  log : List Nat := []         -- 128-bit entries (R33)
  half : Option Nat := none    -- half mode and its first stack (R24)
  recovery : Bool := false     -- the recovery set is loaded (R28)
  counters : Tab Nat := []     -- anti-rollback counters by image kind (R27)
  versions : Tab (Nat × Nat × Nat) := [] -- by unit·4 + image kind: security version, mailbox lowest, highest (R453)
  active : Option (Nat × Nat) := none -- an activation in progress: image kind, unit (R452)
  latch : Bool := true         -- doorbell writes are latched (R26, R452)
  library : Tab (List Byte) := [] -- by unit: the microcode image that its library area and routine entries 0x00-0x1F were written from (R293)
  linkRun : Nat := 0           -- link firmware running: bit d for LKd
  memActive : Bool := false
  hdmSize : Nat := 0
  linkWidth : Nat := 0
  linkSpeed : Nat := 0
  viral : Bool := false
  deriving DecidableEq, Repr

/-- The hub's remaining registers. -/
structure Hub where
  rtime : Nat := 100000
  intEn : Tab Bool := []
  intSem : Tab Nat := []
  msixMask : Nat := 2 ^ 512 - 1
  msixPend : Nat := 0
  msixSent : List Nat := []
  msixOn : Bool := false       -- mailbox interrupts enabled by the host
  mailbox : Mailbox := {}
  hostReads : List (Nat × List Byte × Bool) := [] -- host reads answered: space·2^64 + offset, bytes, poison (R36, R37)
  config : Memory := []        -- what the host has changed of configuration space: the bits in which it differs (R35)
  msixTable : Memory := []     -- addresses and data of the MSI-X table (R37)
  grants : List (Nat × Nat × Nat) := [] -- context, offset, length (R40)
  isoDie : Nat := 0
  isoBusy : Bool := false
  isoDone : Bool := false
  isolated : List Nat := []    -- dies isolated: kind·16 + index
  pool : Pool := {}
  power : Tab Power := []      -- 0-31 lattice clusters, 32-35 stream chiplets
  lapsed : Bool := true
  lastBeat : Nat := 0
  subst : Tab (Nat × Nat × Nat × Bool) := [] -- value, mask, seq, valid (R455)
  chip : Nat := 0
  sync : Bool := false
  gm : Bool := false
  locked : Bool := false       -- the first lock has been made (R371)
  heard : Bool := false        -- a lower-numbered chip has been heard since `ten` was set
  rlim : Nat := 0
  ten : Bool := false
  route : Tab Nat := []
  ports : Tab Port := []       -- key 8·d + p
  nextLaunch : Nat := 1
  sems : Tab W64 := []
  deriving DecidableEq, Repr

/-- Which agent the step moves. -/
inductive Agent where
  | none
  | group (key entry : Nat)
  | engine (unit slot : Nat)
  deriving DecidableEq, Repr

/-- The operands of an event or received packet. -/
structure EventArg where
  a : Nat := 0
  b : Nat := 0
  c : Nat := 0
  d : Nat := 0
  flag : Bool := false
  data : List Byte := []
  pkt : Option Packet := none
  site : Option ErrorSite := none
  deriving DecidableEq, Repr

/-- A pending event. -/
structure Event where
  step : Instr
  arg : EventArg := {}
  deriving DecidableEq, Repr

/-- The machine. `count`, `nextId`, `agenda`, `cur`, `lastPoll` and `arg` are the model's own fields (notes/assumptions 2, 3). -/
structure State where
  count : Nat
  nextId : Nat
  time : Nat
  cur : Agent
  lastPoll : Option (Nat × Nat) -- the sub-group whose wait the last step found unmet
  arg : EventArg
  agenda : List Event
  mem : Memory
  tags : List Nat              -- 16-byte granules whose tag is set (R59)
  poison : List Nat            -- 16-byte granules that are poisoned (R458)
  cores : Tab Core
  groups : Tab Group
  blocks : Tab Block
  accesses : List Access
  copies : List Copy
  contexts : Tab Context
  rings : Tab RecRing          -- by context, 64 for the device
  queues : Tab Queue
  launches : Tab Launch
  pendingLaunches : List PendingLaunch
  ready : List Nat             -- launch numbers in ready-list order of entry (R78)
  bindings : List Binding
  frames : Tab Frame
  moves : List Move
  lines : Tab (List Line)      -- by core, or 65536 + chiplet for stream read caches
  portCache : List Cached
  codePast : Tab (List (Nat × W64)) -- by 8-byte word of object memory: what it held before its changes, each with the name next to be given then (R99)
  codeInv : Tab Nat            -- by object 2^24·context + object, or 2^30 + context: the name given at the last `objinv` (R213)
  llcHost : List Nat           -- loc 2 lines the last-level cache holds (R248)
  sentPackets : List (Nat × Packet) -- virtual channel, packet
  held : List (Nat × Packet)   -- packets that a paused channel or a training port holds: port, packet, oldest first (R368)
  dirty : List Nat             -- lines that the control chiplet's caches may hold dirty (R22)
  outstanding : List Outstanding
  hub : Hub
  boot : Boot
  deriving DecidableEq, Repr

/-- Why a step can fault. -/
inductive Fault where
  /-- Raised by an instruction word or microinstruction given to `exec` with no current sub-group or routine to issue it;
  no step of the machine does so. Safe. -/
  | noIssuer
  deriving DecidableEq, Repr

/-- Why a step can be refused. -/
inductive Refusal where
  /-- Raised only by an arm of `exec` whose instruction has no meaning yet. Safe. -/
  | notModelled (mnemonic : String)
  deriving DecidableEq, Repr

/-- The machine right after reset (R26): the power-on sequence is the one pending event.
(DESIGN CHOICE, notes/assumptions 1; unsafe.) -/
def State.reset : State :=
  { count := 0, nextId := 1, time := 0, cur := .none, lastPoll := none, arg := {}, agenda := [{ step := .powerOnReset }],
    mem := [], tags := [], poison := [], cores := [], groups := [], blocks := [], accesses := [], copies := [],
    contexts := [], rings := [], queues := [], launches := [], pendingLaunches := [], ready := [], bindings := [],
    frames := [], moves := [], lines := [], portCache := [], codePast := [], codeInv := [], llcHost := [], sentPackets := [],
    held := [], dirty := [], outstanding := [], hub := {}, boot := {} }

end Sys2Proof.Machine
end

