-- ==== Sys2Proof/Machine/Ops.lean ====
section
/-! DEFINITION. The named operations over tables, memory, registers, scoreboard and agenda; commits and rollbacks;
taking an exception and returning from one; error records and semaphores. -/

namespace Sys2Proof.Machine

/-! ### Tables -/

/-- The entry of key `k`, or the default. -/
def tget {α : Type} (d : α) : Tab α → Nat → α
  | [], _ => d
  | (k, v) :: t, i => if k = i then v else tget d t i

/-- The entry of key `k`, if there is one. -/
def tfind {α : Type} : Tab α → Nat → Option α
  | [], _ => none
  | (k, v) :: t, i => if k = i then some v else tfind t i

/-- The table with entry `k` set, in key order. -/
def tput {α : Type} : Tab α → Nat → α → Tab α
  | [], i, x => [(i, x)]
  | (k, v) :: t, i, x => if k = i then (k, x) :: t else if i < k then (i, x) :: (k, v) :: t else (k, v) :: tput t i x

/-- The table without entry `k`. -/
def tdel {α : Type} (t : Tab α) (i : Nat) : Tab α := t.filter (fun e => e.1 != i)

/-- A set of numbers, rising: insertion. -/
def sinsert : List Nat → Nat → List Nat
  | [], i => [i]
  | k :: t, i => if k = i then k :: t else if i < k then i :: k :: t else k :: sinsert t i

/-- The first natural number below `n` that satisfies `p`. -/
def firstBelow (p : Nat → Bool) (n : Nat) : Option Nat := (List.range n).find? p

/-! ### Memory: one key space for every memory of the device and the host -/

/-- What an unlisted address reads as (notes/assumptions 4).
(DESIGN CHOICE, notes/assumptions 4; unsafe.) -/
def unlisted : Byte := 0

/-- The byte at a key. -/
def mread : Memory → Nat → Byte
  | [], _ => unlisted
  | (k, b) :: t, i => if k = i then b else mread t i

/-- Insertion of a listed byte, in key order. -/
def minsert : Memory → Nat → Byte → Memory
  | [], i, x => [(i, x)]
  | (k, b) :: t, i, x => if k = i then (k, x) :: t else if i < k then (i, x) :: (k, b) :: t else (k, b) :: minsert t i x

/-- The memory with the byte at a key written: writing what an unlisted address reads as removes the entry. -/
def mwrite (m : Memory) (i : Nat) (x : Byte) : Memory :=
  if x = unlisted then m.filter (fun e => e.1 != i) else minsert m i x

/-- The canonical form: addresses strictly rising, no entry equal to what an unlisted address reads as. -/
def Memory.wf : Memory → Bool
  | [] => true
  | [(_, b)] => b != unlisted
  | (k, b) :: (k', b') :: t => b != unlisted && decide (k < k') && Memory.wf ((k', b') :: t)

/-- Key of scratchpad offset `P` (physical) of a core (R244). -/
def spmKey (unit P : Nat) : Nat := 2 ^ 48 + unit * 2 ^ 22 + P
/-- Key of a host memory address in a PASID (R53 loc 2). -/
def hostKey (pasid a : Nat) : Nat := 2 ^ 60 + pasid * 2 ^ 57 + a

/-- The byte at a key of the one memory. -/
def State.byte (s : State) (k : Nat) : Byte := mread s.mem k
/-- `n` bytes from a key. -/
def State.bytes (s : State) (k n : Nat) : List Byte := (List.range n).map (fun i => s.byte (k + i))
/-- The little-endian number of `n` bytes from a key. -/
def State.num (s : State) (k n : Nat) : Nat := leNat (s.bytes k n)

/-- Bytes written from a key, tags and poison apart. -/
def mwrites : Memory → Nat → List Byte → Memory
  | m, _, [] => m
  | m, k, b :: bs => mwrites (mwrite m k b) (k + 1) bs

/-- The granules that `n` bytes from key `k` touch. -/
def granulesOf (k n : Nat) : List Nat :=
  if n = 0 then [] else (List.range ((k + n - 1) / 16 - k / 16 + 1)).map (fun i => k / 16 + i)

/-- A value that a byte of a cached line has had. -/
def addVal (x : Byte × Bool) (l : List (Byte × Bool)) : List (Byte × Bool) := if l.contains x then l else l ++ [x]
/-- A cached line sees a write at `k`: what a hit may return grows (R347); `pz` says which granules are poisoned afterwards. -/
def Line.sees (l : Line) (k : Nat) (bs : List Byte) (pz : Nat → Bool) : Line :=
  if l.key < k + bs.length ∧ k < l.key + 128 then
    { l with vals := l.vals.zipIdx.map (fun p => match (if k ≤ l.key + p.2 then bs[l.key + p.2 - k]? else none) with
        | some b => addVal (b, pz ((l.key + p.2) / 16)) p.1
        | none => p.1) }
  else l

/-- An 8-byte word of memory. -/
def wordAt (m : Memory) (w : Nat) : W64 := BitVec.ofNat 64 (leNat ((List.range 8).map (fun i => mread m (8 * w + i))))
/-- What words of object memory held before a change from `m` to `m'` at `n` bytes from `k`, noted beside the name `id` (R99). -/
def notePast (t : Tab (List (Nat × W64))) (id : Nat) (m m' : Memory) (k n : Nat) : Tab (List (Nat × W64)) :=
  if 2 ^ 48 ≤ k ∧ k < 2 ^ 60 then t
  else ((List.range (n / 8 + 2)).map (k / 8 + ·)).foldl (fun t w =>
    if wordAt m w = wordAt m' w then t else tput t w ((id, wordAt m w) :: tget [] t w)) t

/-- A write of bytes by any agent: it clears the tags of the granules it touches (R59) and the poison of those it covers
whole (R458); a cached line keeps what it may return (R347), and so does a word of code (R99). -/
def State.write (s : State) (k : Nat) (bs : List Byte) : State :=
  let gs := granulesOf k bs.length
  let ps := s.poison.filter (fun g => !(gs.contains g && decide (k ≤ 16 * g) && decide (16 * g + 16 ≤ k + bs.length)))
  { s with
    mem := mwrites s.mem k bs
    tags := s.tags.filter (fun g => !gs.contains g)
    poison := ps
    codePast := notePast s.codePast s.nextId s.mem (mwrites s.mem k bs) k bs.length
    lines := s.lines.map (fun e => (e.1, e.2.map (fun l => l.sees k bs ps.contains))) }

/-- Whether any granule of `n` bytes from key `k` is poisoned (R458). -/
def State.poisoned (s : State) (k n : Nat) : Bool := (granulesOf k n).any s.poison.contains

/-- A granule becomes poisoned (R458). -/
def State.poisonGranules (s : State) (gs : List Nat) : State := { s with poison := gs.foldl sinsert s.poison }

/-- Bytes zero-filled (R154). -/
def State.zero (s : State) (k n : Nat) : State :=
  { s with
    mem := s.mem.filter (fun e => !(decide (k ≤ e.1) && decide (e.1 < k + n)))
    tags := s.tags.filter (fun g => !(decide (k ≤ 16 * g) && decide (16 * g < k + n)))
    poison := s.poison.filter (fun g => !(decide (k ≤ 16 * g) && decide (16 * g < k + n))) }

/-! ### Free choices, the agenda, names -/

/-- A free choice among `n`: nothing is chosen where there is one. -/
def State.choose (s : State) (n : Nat) : Nat × State :=
  if n ≤ 1 then (0, s) else (Config.pick s.count % n, { s with count := s.count + 1 })

/-- A free word the spec states no bits of.
(DESIGN CHOICE, notes/assumptions 62; safe.) -/
def State.freeWord (s : State) : Nat × State := (Config.freeWord s.count, { s with count := s.count + 1 })

/-- A free choice of yes or no. -/
def State.coin (s : State) : Bool × State := let (n, s') := s.choose 2; (n == 1, s')

/-- A pending event added. -/
def State.post (s : State) (i : Instr) (arg : EventArg := {}) : State := { s with agenda := s.agenda ++ [{ step := i, arg := arg }] }

/-- A pending event added unless it is there already. -/
def State.postOnce (s : State) (i : Instr) (arg : EventArg := {}) : State :=
  if s.agenda.contains { step := i, arg := arg } then s else s.post i arg

/-- The current event waits: it goes to the end of the agenda. -/
def State.again (s : State) (i : Instr) : State := s.post i s.arg

/-- A new name of an access or operation. -/
def State.fresh (s : State) : Nat × State := (s.nextId, { s with nextId := s.nextId + 1 })

/-! ### Parts of the state -/

def State.group (s : State) (k : Nat) : Group := tget {} s.groups k
def State.setGroup (s : State) (k : Nat) (g : Group) : State := { s with groups := tput s.groups k g }
def Group.sub (g : Group) (e : Nat) : Sub := tget {} g.subs e
def Group.setSub (g : Group) (e : Nat) (x : Sub) : Group := { g with subs := tput g.subs e x }
def State.sub (s : State) (k e : Nat) : Sub := (s.group k).sub e
def State.setSub (s : State) (k e : Nat) (x : Sub) : State := s.setGroup k ((s.group k).setSub e x)
def State.core (s : State) (u : Nat) : Core := tget {} s.cores u
def State.setCore (s : State) (u : Nat) (c : Core) : State := { s with cores := tput s.cores u c }
def State.block (s : State) (b : Nat) : Block := tget {} s.blocks b
def State.setBlock (s : State) (b : Nat) (x : Block) : State := { s with blocks := tput s.blocks b x }
def State.context (s : State) (c : Nat) : Context := tget {} s.contexts c
def State.setContext (s : State) (c : Nat) (x : Context) : State := { s with contexts := tput s.contexts c x }
def State.launchOf (s : State) (n : Nat) : Launch := tget {} s.launches n
def State.setLaunch (s : State) (n : Nat) (l : Launch) : State := { s with launches := tput s.launches n l }
def State.queue (s : State) (q : Nat) : Queue := tget {} s.queues q
def State.setQueue (s : State) (q : Nat) (x : Queue) : State := { s with queues := tput s.queues q x }
def Sub.slot (x : Sub) (k : Nat) : Slot := tget {} x.slots k
def Sub.setSlot (x : Sub) (k : Nat) (y : Slot) : Sub := { x with slots := tput x.slots k y }
def State.access (s : State) (id : Nat) : Option Access := s.accesses.find? (fun a => a.id == id)
def State.setAccess (s : State) (a : Access) : State :=
  { s with accesses := s.accesses.map (fun b => if b.id = a.id then a else b) }
def State.dropAccess (s : State) (id : Nat) : State := { s with accesses := s.accesses.filter (fun a => a.id != id) }

/-- The kinds of core (R127). -/
inductive CoreKind where
  | lattice | stream | control
  deriving DecidableEq, Repr

/-- The physical unit number of a group's or block's core (R17). -/
def unitOfGroup (k : Nat) : Nat := k / 32
def unitOfBlock (b : Nat) : Nat := b / 16
def groupKey (unit slot : Nat) : Nat := 32 * unit + slot
def blockKey (unit slot : Nat) : Nat := 16 * unit + slot
/-- The kind of core a unit number names, by its die kind (R16). -/
def kindOfUnit (u : Nat) : CoreKind := if u / 4096 = 1 then .lattice else if u / 4096 = 2 then .stream else .control
def kindOf (k : Nat) : CoreKind := kindOfUnit (unitOfGroup k)
/-- The lattice cluster or stream chiplet of a core, as the power registers number them (R447). -/
def powerIndex (u : Nat) : Nat := if kindOfUnit u = .stream then 32 + u / 256 % 16 else u / 256 % 16 * 4 + u % 256 / 4
/-- The clock of a core's cluster is stopped for relock (R448). -/
def State.relocking (s : State) (u : Nat) : Bool := kindOfUnit u != .control && (tget {} s.hub.power (powerIndex u)).relock
/-- The block of a group. -/
def State.blockOf (s : State) (k : Nat) : Block := s.block (s.group k).block
/-- The context of a group: the block's, or the register of a control group (R208). -/
def State.ctxOf (s : State) (k : Nat) : Nat := if kindOf k = .control then (s.group k).ctx else (s.blockOf k).ctx
/-- The context in which a group's code resolves: on a control core context 0, whatever `ctx` names (R131, R391; notes/assumptions). -/
def State.codeCtx (s : State) (k : Nat) : Nat := if kindOf k = .control then 0 else (s.blockOf k).ctx
/-- Granule size, banks' size and accumulator shape of a core (R202, R244, R286). -/
def granSize (u : Nat) : Nat := if kindOfUnit u = .stream then 32768 else 4096
def bankSize (u : Nat) : Nat := if kindOfUnit u = .stream then 8192 else 1024
def accRows (u : Nat) : Nat := if kindOfUnit u = .stream then 128 else 64
def accCols (u : Nat) : Nat := if kindOfUnit u = .stream then 256 else 128
/-- The stack and the channel in it that hold a byte of HBM (R24). -/
def State.hbmStack (s : State) (pa : Nat) : Nat :=
  match s.boot.half with
  | none => field pa 12 3
  | some first => field pa 12 2 + first
def hbmChannel (pa : Nat) : Nat := field pa 7 5
/-- The last-level cache slice that is home to a physical address (R24). -/
def homeSlice (pa : Nat) : Nat := field pa 7 41 % 160
/-- The top of the HBM row: 512 GiB, or 256 GiB in half mode (R23, R24). -/
def State.hbmTop (s : State) : Nat := if s.boot.half.isSome then 2 ^ 38 else 2 ^ 39
/-- A range that lies wholly in the HBM row (R23). -/
def State.inHbm (s : State) (a n : Nat) : Bool := decide (a + n ≤ s.hbmTop)
/-- A range that lies wholly in the hub scratchpad row (R23). -/
def inHubSpm (a n : Nat) : Bool := decide (2 ^ 40 ≤ a) && decide (a + n ≤ 2 ^ 40 + 2 ^ 26)

/-- Whether a key lies in a core's scratchpad, the core and physical offset it names, and the number of its bank (R244). -/
def isSpmKey (key : Nat) : Bool := decide (2 ^ 48 ≤ key) && decide (key < 2 ^ 60)
def spmKeyUnit (key : Nat) : Nat := (key - 2 ^ 48) / 2 ^ 22
def spmKeyOff (key : Nat) : Nat := (key - 2 ^ 48) % 2 ^ 22
def spmKeyBank (key : Nat) : Nat := spmKeyOff key / bankSize (spmKeyUnit key)

/-! ### Drops of scratchpad banks (R154, R265) -/

/-- The element has still to be performed in bank `j` of core `u`. -/
def Elem.inBank (el : Elem) (u j : Nat) : Bool :=
  !el.done && match el.loc with
    | .mem m => isSpmKey m && spmKeyUnit m == u && spmKeyBank m == j
    | _ => false
/-- Some access named below `n` has still to be performed in a bank. -/
def State.bankOwed (s : State) (u j n : Nat) : Bool := s.accesses.any (fun a => decide (a.id < n) && a.elems.any (fun el => el.inBank u j))
/-- The drops of a key's bank come after the access named `id`. -/
def State.dropsAfter (s : State) (id key : Nat) : Bool :=
  isSpmKey key && (s.core (spmKeyUnit key)).drops.any (fun d => d.1 == spmKeyBank key && decide (id < d.2))
/-- A drop of a key's bank that comes before the access named `id` has still to take effect: earlier accesses are to be performed there. -/
def State.bankHeld (s : State) (id key : Nat) : Bool :=
  isSpmKey key && (s.core (spmKeyUnit key)).drops.any (fun d => d.1 == spmKeyBank key && decide (d.2 ≤ id) && s.bankOwed (spmKeyUnit key) d.1 d.2)
/-- The drops of a key's bank that come before the access named `id` have taken effect: what the bank held is gone. -/
def State.settleDrops (s : State) (id key : Nat) : State :=
  let u := spmKeyUnit key
  let c := s.core u
  let mine (d : Nat × Nat) : Bool := d.1 == spmKeyBank key && decide (d.2 ≤ id)
  if isSpmKey key && c.drops.any mine then
    (s.setCore u { c with drops := c.drops.filter (fun d => !mine d) }).zero (spmKey u (spmKeyBank key * bankSize u)) (bankSize u)
  else s

/-- The handles of all active lanes' mask helpers: bit `l` of a mask. -/
def lane (m : W32) (l : Nat) : Bool := m.getLsbD l
/-- The lanes of a mask, ascending. -/
def lanesOf (m : W32) : List Nat := (List.range 32).filter (fun l => m.getLsbD l)
/-- The mask of the lanes that satisfy `p`. -/
def maskOf (p : Nat → Bool) : W32 :=
  BitVec.ofNat 32 ((List.range 32).foldl (fun n l => if p l then n + 2 ^ l else n) 0)
def setBit {n : Nat} (x : BitVec n) (i : Nat) (b : Bool) : BitVec n :=
  if b then x ||| BitVec.twoPow n i else x &&& ~~~(BitVec.twoPow n i)

/-! ### Registers -/

/-- `P(k)`: p0 reads as all ones (R129). -/
def Group.pred (g : Group) (k : Nat) : W32 := if k = 0 then 0xFFFFFFFF else tget 0 g.p k
/-- A scalar register; s0 reads zero (R108, R130). -/
def Sub.sreg (x : Sub) (r : Nat) : W32 := if r = 0 then 0 else tget 0 x.s r
/-- A handle register; h0 is the null handle (R55). -/
def Sub.hreg (x : Sub) (r : Nat) : HandleReg := if r = 0 then {} else tget {} x.h r
/-- A lane of a vector register. -/
def Group.vreg (g : Group) (r l : Nat) : W32 := tget 0 g.v (32 * r + l)
/-- A physical number plus this is granted and not yet within reach (R202). -/
def pending : Nat := 4096
/-- A pending unit comes within reach.
(DEDUCED, notes/assumptions 20; unsafe.) -/
def reach (n : Nat) : Nat := n % pending
/-- A vector register is owned (R148): always on a stream core. -/
def Group.owns (g : Group) (k : CoreKind) (r : Nat) : Bool :=
  match k with
  | .stream => true
  | .control => false
  | .lattice => g.own.any (fun e => e.1 == r / 16 && decide (e.2 < pending))

/-- A register's key among all classes: s, v, p, h, m, special. -/
def Wr.key : Wr → Nat
  | .s r _ _ => r
  | .v r _ _ _ => 256 + r
  | .p r _ _ => 512 + r
  | .h r _ _ => 1024 + r
  | .m r _ _ => 1280 + r
  | .special n _ _ => 1536 + n
  | .lfsr _ => 1536 + 0x0B
  | .flags _ | .grantReg _ | .grantSpm _ | .grantMsl _ => 4096

/-- The lanes of register `r` after `xs` is written in the lanes of `mask`. -/
def putLanes (t : Tab W32) (r : Nat) (mask : W32) (xs : List W32) : Tab W32 :=
  (List.range 32).foldl (fun t l => if lane mask l then tput t (32 * r + l) (xs.getD l 0) else t) t

/-- The value of `ump.lim` that a write of `x` stores (R199); the region's on a lattice or stream core. -/
def State.umpStore (s : State) (k x : Nat) : Nat :=
  if x = 0 then (if kindOf k = .control then 10000000 else (s.blockOf k).rv.umpLim)
  else if x < 1000 then 1000 else x

/-- The seed of lane `l` for value `v` (R170). -/
def lfsrSeed (v : W32) (l : Nat) : W32 :=
  let x := v ^^^ BitVec.ofNat 32 (l * 0x9E3779B9)
  if x = 0 then 1 else x

/-- A write to a special register lands (R197-R199, R173). -/
def State.landSpecial (s : State) (k e n : Nat) (x : W64) : State :=
  let g := s.group k
  let lo : W32 := x.setWidth 32
  let g' : Group := match n with
    | 0x07 => { g with ctx := x.toNat % 64 }
    | 0x0A => { g with fpcsr := lo &&& 0x1F1F#32 }
    | 0x0B => { g with lfsr := (lanesOf (g.sub e).lanes).foldl (fun t l => tput t l (lfsrSeed lo l)) g.lfsr }
    | 0x0C => { g with lpBase := lo }
    | 0x0D => { g with umpLim := s.umpStore k lo.toNat }
    | 0x10 => { g with tr := { g.tr with cause := lo &&& 0xFFFF00FF#32 } }
    | 0x11 => { g with tr := { g.tr with pc := x } }
    | 0x12 => { g with tr := { g.tr with clause := x } }
    | 0x13 => { g with tr := { g.tr with amask := lo } }
    | 0x14 => { g with tr := { g.tr with fmask := lo } }
    | 0x15 => { g with tr := { g.tr with addr := x } }
    | 0x16 => { g with tr := { g.tr with addr2 := x } }
    | 0x17 => { g with tr := { g.tr with info := lo } }
    | _ => g
  s.setGroup k g'

/-- The value of a special register that can be written, as 64 bits. -/
def Group.special (g : Group) (n : Nat) : W64 :=
  match n with
  | 0x07 => BitVec.ofNat 64 g.ctx
  | 0x0A => g.fpcsr.setWidth 64
  | 0x0C => g.lpBase.setWidth 64
  | 0x0D => BitVec.ofNat 64 g.umpLim
  | 0x10 => g.tr.cause.setWidth 64
  | 0x11 => g.tr.pc
  | 0x12 => g.tr.clause
  | 0x13 => g.tr.amask.setWidth 64
  | 0x14 => g.tr.fmask.setWidth 64
  | 0x15 => g.tr.addr
  | 0x16 => g.tr.addr2
  | 0x17 => g.tr.info.setWidth 64
  | _ => 0

/-- The shadow of the register a landing is about to write (R395): its value, liveness and poison now. -/
def Group.shadowOf (g : Group) (e : Nat) (w : Wr) : Shadow :=
  let x := g.sub e
  match w with
  | .s r _ _ => { entry := e, wr := .s r (x.sreg r) (x.sPz.getLsbD r), dead := x.sDead.getLsbD r }
  | .p r _ _ => { entry := e, wr := .p r x.lanes (g.pred r), dead := g.pDead.getLsbD r, pz := g.pPz.getLsbD r }
  | .h r _ _ => { entry := e, wr := .h r (x.hreg r) (x.hPz.getLsbD r), dead := x.hDead.getLsbD r }
  | .v r _ _ _ =>
    { entry := e, wr := .v r (if g.vDead.getLsbD r then 0xFFFFFFFF else x.lanes) ((List.range 32).map (g.vreg r)) (tget 0 g.vPz r)
      dead := g.vDead.getLsbD r }
  | .m r _ _ => { entry := e, wr := .m r 0xFFFFFFFFFFFFFFFF (tget 0 g.m r), dead := false }
  | .special n w _ => { entry := e, wr := if n = 0x0B then .lfsr g.lfsr else .special n w (g.special n), dead := false }
  | .lfsr _ => { entry := e, wr := .lfsr g.lfsr, dead := false }
  | w => { entry := e, wr := w, dead := false }

/-- The shadow is taken at the first landing of a region (R395). -/
def Group.capture (g : Group) (e : Nat) (w : Wr) : Group :=
  if (g.sub e).mark.isNone || w.key = 4096 || g.shadow.any (fun h => h.entry == e && h.wr.key == w.key) then g
  else { g with shadow := g.shadow ++ [g.shadowOf e w] }

/-- A result lands (R149, R150, R202): the register is written and becomes live; the lanes a vector result does not write
become 0 where the register was dead. -/
def State.land (s : State) (k e : Nat) (w : Wr) : State :=
  let g := (s.group k).capture e w
  let x := g.sub e
  match w with
  | .s r v pz =>
    if r = 0 then s
    else s.setGroup k (g.setSub e { x with s := tput x.s r v, sDead := setBit x.sDead r false, sPz := setBit x.sPz r pz })
  | .h r v pz =>
    if r = 0 then s
    else s.setGroup k (g.setSub e { x with h := tput x.h r v, hDead := setBit x.hDead r false, hPz := setBit x.hPz r pz })
  | .p r mask bits =>
    if r = 0 then s
    else
      let m := mask &&& x.lanes
      let kept := if g.pDead.getLsbD r then 0 else g.pred r &&& ~~~m
      s.setGroup k { g with p := tput g.p r (kept ||| (bits &&& m)), pDead := setBit g.pDead r false,
                            pPz := setBit g.pPz r false }
  | .v r mask xs pz =>
    if !g.owns (kindOf k) r then s
    else if g.vDead.getLsbD r then
      s.setGroup k { g with v := putLanes (putLanes g.v r 0xFFFFFFFF []) r mask xs, vDead := setBit g.vDead r false,
                            vPz := tput g.vPz r (pz &&& mask) }
    else
      s.setGroup k { g with v := putLanes g.v r mask xs, vPz := tput g.vPz r ((tget 0 g.vPz r &&& ~~~mask) ||| (pz &&& mask)) }
  | .m r mask v => s.setGroup k { g with m := tput g.m r ((tget 0 g.m r &&& ~~~mask) ||| (v &&& mask)) }
  | .special n _ v => (s.setGroup k g).landSpecial k e n v
  | .lfsr t => s.setGroup k { g with lfsr := t }
  | .flags f => s.setGroup k { g with fpcsr := g.fpcsr ||| f.setWidth 32 }
  | .grantReg bs =>
    s.setGroup k { g with own := g.own.map (fun o => if bs.any (fun b => b.1 == o.1) then (o.1, reach o.2) else o),
                          vDead := bs.foldl (fun d b => (List.range 16).foldl (fun d i => setBit d (16 * b.1 + i) true) d) g.vDead }
  | .grantSpm gs =>
    let b := s.block g.block
    s.setBlock g.block { b with gran := b.gran.zipIdx.map (fun p => if gs.contains p.2 then reach p.1 else p.1) }
  | .grantMsl ms =>
    let b := s.block g.block
    s.setBlock g.block { b with slots := b.slots.map (fun p => if ms.any (fun m => m.1 == p.1) then (p.1, reach p.2) else p) }

/-- Pending landings in the order they take effect: landing tick, then issue order (R139). -/
def insertDue (x : Nat × Nat × List Wr) : List (Nat × Nat × List Wr) → List (Nat × Nat × List Wr)
  | [] => [x]
  | y :: t => if x.1 < y.1 || (x.1 == y.1 && x.2.1 < y.2.1) then x :: y :: t else y :: insertDue x t

/-- A landing of `new` leaves nothing of what `old` wrote. -/
def Wr.covers (new old : Wr) : Bool :=
  new.key == old.key && match new, old with
    | .v _ now _ _, .v _ was _ _ => was &&& ~~~now == 0
    | .p _ now _, .p _ was _ => was &&& ~~~now == 0
    | _, _ => true
/-- The results of the window that are due by tick `T`, with further results that land at `T`, all land; an entry that later landings
cover is overwritten (R141). -/
def State.landDue (s : State) (k e T : Nat) (more : List (Nat × List Wr)) : State :=
  let x := s.sub k e
  let due := (x.win.filter (fun w => !w.landed && decide (w.due ≤ T))).map (fun w => (w.due, w.seq, w.wrs))
  let all := (due ++ more.map (fun m => (T, m.1, m.2))).foldl (fun l y => insertDue y l) []
  let later (w : WinEntry) : List Wr :=
    (all.filter (fun y => w.landed || decide (w.due < y.1) || (w.due == y.1 && decide (w.seq < y.2.1)))).flatMap (·.2.2)
  let gone (w : WinEntry) : Bool := !w.wrs.isEmpty && w.wrs.all (fun r => (later w).any (fun n => n.covers r))
  let win := x.win.map (fun w => if w.landed || decide (w.due ≤ T) then
      { w with landed := true, overwritten := w.overwritten || gone w } else w)
  let s := s.setSub k e { x with win := win }
  all.foldl (fun s y => y.2.2.foldl (fun s w => s.land k e w) s) s

/-- The largest landing tick of a window that has not been reached, or the tick (R142). -/
def Sub.lastDue (x : Sub) : Nat := x.win.foldl (fun t w => if w.landed then t else max t w.due) x.tick
/-- Drain (R142): the tick goes to the last landing of the window, each result lands, the window empties. -/
def State.drain (s : State) (k e : Nat) : State :=
  let T := (s.sub k e).lastDue
  let s := s.landDue k e T []
  let x := s.sub k e
  s.setSub k e { x with tick := T, win := [] }

/-! ### Register banks (R141, R152) -/

/-- The physical bank of a vector register that the group owns. -/
def Group.bankOf (g : Group) (r : Nat) : Option Nat := (g.own.find? (fun e => e.1 == r / 16)).map (fun e => e.2 / 4)
/-- Banks of the vector registers among some keys. -/
def Group.banksOf (g : Group) (keys : List Nat) : List Nat :=
  keys.filterMap (fun n => if 256 ≤ n ∧ n < 512 then g.bankOf (n - 256) else none)
/-- A bank starts to wake (R152, R154). -/
def State.wakeReg (s : State) (u j : Nat) : State :=
  let c := s.core u
  match tget .off c.regBank j with
  | .retention => (s.setCore u { c with regBank := tput c.regBank j (.waking false) }).postOnce .bankWakeComplete { a := u, b := j }
  | .off => (s.setCore u { c with regBank := tput c.regBank j (.waking true) }).postOnce .bankWakeComplete { a := u, b := j }
  | _ => s
def State.wakeSpm (s : State) (u j : Nat) : State :=
  let c := s.core u
  match tget .off c.spmBank j with
  | .retention => (s.setCore u { c with spmBank := tput c.spmBank j (.waking false) }).postOnce .bankWakeComplete { a := u, b := j, flag := true }
  | .off => (s.setCore u { c with spmBank := tput c.spmBank j (.waking true) }).postOnce .bankWakeComplete { a := u, b := j, flag := true }
  | _ => s
/-- Scratchpad banks of some keys that are neither on nor off: they start to wake (R154). -/
def State.wakeKeys (s : State) (keys : List Nat) : Option State :=
  let sleepy (k : Nat) : Bool := isSpmKey k && match tget .off (s.core (spmKeyUnit k)).spmBank (spmKeyBank k) with
    | .retention | .waking _ => true
    | _ => false
  match keys.filter sleepy with
  | [] => none
  | ks => some (ks.foldl (fun s k => s.wakeSpm (spmKeyUnit k) (spmKeyBank k)) s)
/-- Those of some banks that are not on: a lattice core's alone have power states. -/
def State.asleep (s : State) (k : Nat) (bs : List Nat) : List Nat :=
  if kindOf k = .lattice then bs.filter (fun j => tget .off (s.core (unitOfGroup k)).regBank j != .on) else []
/-- The banks that window entries are written back to: those of registers still live and not overwritten (R141). -/
def Group.writeBack (g : Group) (ws : List WinEntry) : List Nat :=
  g.banksOf ((ws.filter (fun w => w.landed && !w.overwritten)).flatMap (fun w => (w.wrs.map Wr.key).filter (fun n => !g.vDead.getLsbD (n - 256))))
/-- The banks that a drain writes back to. -/
def State.drainBanks (s : State) (k e : Nat) : List Nat :=
  let s := s.landDue k e (s.sub k e).lastDue []
  (s.group k).writeBack (s.sub k e).win
/-- The end of a wait wakes the retained banks of its group (R152). -/
def State.wakeOwned (s : State) (k : Nat) : State :=
  if kindOf k = .lattice then
    ((s.group k).own.map (fun o => reach o.2 / 4)).foldl (fun s j =>
      if tget .off (s.core (unitOfGroup k)).regBank j == .retention then s.wakeReg (unitOfGroup k) j else s) s
  else s

/-- The register class of a key, for its shadow. -/
def keyWr (key : Nat) : Wr :=
  if key < 256 then .s key 0 false
  else if key < 512 then .v (key - 256) 0 [] 0
  else if key < 1024 then .p (key - 512) 0 0
  else .h (key - 1024) {} false

/-- A register becomes dead by last use (R149); a rollback of the region makes it live again (notes/assumptions 25). -/
def State.kill (s : State) (k e key : Nat) : State :=
  let g := (s.group k).capture e (keyWr key)
  let x := g.sub e
  let win := x.win.map (fun w => if w.landed && w.wrs.any (fun r => r.key == key) then { w with dead := true } else w)
  let x := { x with win := win }
  if key < 256 then s.setGroup k (g.setSub e { x with sDead := setBit x.sDead key true })
  else if key < 512 then s.setGroup k { g.setSub e x with vDead := setBit g.vDead (key - 256) true }
  else if key < 1024 then s.setGroup k { g.setSub e x with pDead := setBit g.pDead (key - 512) true }
  else s.setGroup k (g.setSub e { x with hDead := setBit x.hDead (key - 1024) true })

/-! ### Restart regions (R394-R398) -/

/-- The object offset of the word a sub-group is at: the instruction's, or the clause header's before its waits are met. -/
def Sub.here (x : Sub) : Nat :=
  match x.clause with
  | none => x.resumeAt.getD x.pc
  | some c => if x.headerMet then c.start + 8 * (1 + x.idx) else if x.tokensOnly then x.resumeAt.getD c.start else c.start
def Sub.clauseStart (x : Sub) : Nat :=
  match x.clause with
  | none => x.pc
  | some c => c.start

/-- It is at its clause's header. -/
def Sub.atHeader (x : Sub) : Bool :=
  match x.clause with
  | none => x.resumeAt.isNone
  | some _ => !x.headerMet && !x.tokensOnly

/-- A mark (R394). -/
def State.takeMark (s : State) (k e clause pc : Nat) (atHeader : Bool) : State :=
  if kindOf k != .lattice then s
  else
    let x := s.sub k e
    let (n, s) := s.fresh
    s.setSub k e { x with mark := some ⟨clause, pc, atHeader, x.clause.isNone && x.resumeSkip, x.tick, x.win, x.slots, n⟩ }

/-- Every access of the sub-group's region has been accepted (R396). -/
def State.regionAccepted (s : State) (k e : Nat) : Bool :=
  s.accesses.all (fun a => a.group != k || a.entry != e || a.accepted)

/-- The gated stores of a sub-group, released in issue order into the store queue (R396). -/
def releaseGate (k e : Nat) : List Access → Nat → List Access × Nat
  | [], n => ([], n)
  | a :: t, n =>
    let hit := a.group == k && a.entry == e && a.release == 0
    let (t', n') := releaseGate k e t (if hit then n + 1 else n)
    ((if hit then { a with release := n } else a) :: t', n')

/-- Commit of a sub-group whose accesses are all accepted (R396), with its new mark. -/
def State.commitSub (s : State) (k e clause pc : Nat) (atHeader : Bool) : State :=
  if kindOf k != .lattice then s
  else
    let (as, n) := releaseGate k e s.accesses s.nextId
    let g := s.group k
    let g := { g with shadow := g.shadow.filter (fun h => h.entry != e), shadowUsed := g.shadowUsed.filter (fun h => h.1 != e) }
    ({ s with accesses := as, nextId := n }.setGroup k g).takeMark k e clause pc atHeader

/-- Gate entries in use by a group (R395). -/
def State.gateUsed (s : State) (k : Nat) : Nat :=
  (s.accesses.filter (fun a => a.group == k && a.release == 0)).length

/-- A shadowed register takes back what it held; the flags raised since stay (R398). -/
def State.restore (s : State) (k : Nat) (h : Shadow) : State :=
  let g := s.group k
  let e := h.entry
  let x := g.sub e
  match h.wr with
  | .s r v pz => s.setGroup k (g.setSub e { x with s := tput x.s r v, sDead := setBit x.sDead r h.dead, sPz := setBit x.sPz r pz })
  | .h r v pz => s.setGroup k (g.setSub e { x with h := tput x.h r v, hDead := setBit x.hDead r h.dead, hPz := setBit x.hPz r pz })
  | .p r mask bits =>
    s.setGroup k { g with p := tput g.p r ((g.pred r &&& ~~~mask) ||| (bits &&& mask)), pDead := setBit g.pDead r h.dead
                          pPz := setBit g.pPz r h.pz }
  | .v r mask xs pz =>
    s.setGroup k { g with v := putLanes g.v r mask xs, vDead := setBit g.vDead r h.dead,
                          vPz := tput g.vPz r ((tget 0 g.vPz r &&& ~~~mask) ||| (pz &&& mask)) }
  | .m r _ v => s.setGroup k { g with m := tput g.m r v }
  | .special n _ v =>
    match n with
    | 0x0A => s.setGroup k { g with fpcsr := v.setWidth 32 ||| (g.fpcsr &&& 0x1F#32) }
    | 0x0D => s.setGroup k { g with umpLim := v.toNat }
    | _ => s.landSpecial k e n v
  | .lfsr t => s.setGroup k { g with lfsr := t }
  | _ => s

/-- The slot a rollback leaves: the state at the mark, complete where its operation has completed since (R398). -/
def rolledSlot (then_ now : Slot) : Slot :=
  if then_.st = .busy && now.seq == then_.seq && now.st = .complete then now else then_

/-- Rollback of a sub-group (R398).
(DEDUCED, notes/assumptions 25; unsafe.) -/
def State.rollback (s : State) (k e : Nat) : State :=
  match (s.sub k e).mark with
  | none => s
  | some m =>
    let s : State := { s with accesses := s.accesses.filter (fun a => !(a.group == k && a.entry == e && decide (m.seq < a.id) &&
                        (a.release == 0 || !a.accepted || (match a.kind with | .load | .hld | .semPoll _ => true | _ => false)))) }
    let g := s.group k
    let mine := g.shadow.filter (fun h => h.entry == e)
    let s := s.setGroup k { g with shadow := g.shadow.filter (fun h => h.entry != e),
                                   shadowUsed := g.shadowUsed.filter (fun h => h.1 != e) }
    let s := mine.foldl (fun s h => s.restore k h) s
    let x := s.sub k e
    s.setSub k e { x with
      tick := m.tick, win := m.win
      slots := (List.range 6).map (fun i => (i, rolledSlot (tget {} m.slots i) (x.slot i)))
      clause := none, idx := 0, headerMet := false, pc := m.clause
      resumeAt := if m.atHeader then none else some m.pc, resumeSkip := m.skip, tokensOnly := false, wait := none, elapsed := 0 }

/-! ### Error records (R405-R407) and semaphores (R335) -/

/-- The fields of an error record besides time and kind. -/
structure Rec where
  launch : Nat := 0
  block : Nat := 0xFFFFFFFF
  clause : Nat := 0
  pc : Nat := 0
  unit : Nat := 0xFFFF
  cause : Nat := 0
  info : Nat := 0
  fmask : Nat := 0
  addr : Nat := 0
  word : Nat := 0
  region : Nat := 0
  ctx : Nat := 0xFF
  gid : Nat := 0xFF
  deriving DecidableEq, Repr

/-- The 64 bytes of an error record (R405). -/
def Rec.image (r : Rec) (time kind : Nat) : List Byte :=
  leBytes 64 (time % 2 ^ 64 * 2 ^ 448 + r.launch % 2 ^ 32 * 2 ^ 416 + r.block % 2 ^ 32 * 2 ^ 384 + r.clause % 2 ^ 40 * 2 ^ 344 +
    r.pc % 2 ^ 40 * 2 ^ 304 + r.unit % 2 ^ 16 * 2 ^ 288 + r.cause % 2 ^ 32 * 2 ^ 256 + r.info % 2 ^ 32 * 2 ^ 224 +
    r.fmask % 2 ^ 32 * 2 ^ 192 + r.addr % 2 ^ 64 * 2 ^ 128 + r.word % 2 ^ 64 * 2 ^ 64 + r.region % 2 ^ 16 * 2 ^ 48 +
    r.ctx % 2 ^ 8 * 2 ^ 40 + r.gid % 2 ^ 8 * 2 ^ 32 + kind % 2 ^ 8 * 2 ^ 24)

/-- A MSI-X vector is raised: one message, or its pending bit while it is masked (R38). -/
def State.raiseVector (s : State) (v : Nat) : State :=
  if bitAt s.hub.msixMask v then
    { s with hub := { s.hub with msixPend := if bitAt s.hub.msixPend v then s.hub.msixPend else s.hub.msixPend + 2 ^ v } }
  else { s with hub := { s.hub with msixSent := s.hub.msixSent ++ [v] } }

/-- The physical semaphore of a virtual one, if mapped (R214). -/
def State.semOf (s : State) (ctx v : Nat) : Option Nat :=
  let e := tget 0 (s.context ctx).semmap v
  if bitAt e 16 then some (e % 65536) else none

/-- The value of a virtual semaphore as an edge reads it: 0 through an entry with valid 0 (R214). -/
def State.edgeValue (s : State) (ctx v : Nat) : Nat :=
  match s.semOf ctx v with
  | some n => (tget 0 s.hub.sems n).toNat
  | none => 0

/-- Edge record `i` of a launch: the value, virtual semaphore and number of regions of its header (R65). -/
def edgeValueAt (bs : List Byte) (i : Nat) : Nat := leNat ((bs.drop (272 * i + 8)).take 8)
def edgeVsemAt (bs : List Byte) (i : Nat) : Nat := field (leNat ((bs.drop (272 * i)).take 8)) 52 12
def edgeCountAt (bs : List Byte) (i : Nat) : Nat := field (leNat ((bs.drop (272 * i)).take 8)) 48 4
/-- Edges of a launch descriptor (R60). -/
def descField (bs : List Byte) (lo n : Nat) : Nat := field (leNat bs) lo n
def Launch.edgesIn (l : Launch) : Nat := descField l.desc 172 4
def Launch.edgesOut (l : Launch) : Nat := descField l.desc 168 4

/-- Waiting incoming edges re-read their semaphores (R77); a launch whose edges all hold goes on. -/
def State.reevalEdges (s : State) : State :=
  s.launches.foldl (fun s (n, l) =>
    if l.st = 1 then
      let sat := (List.range l.edgesIn).filter (fun i =>
        l.satisfied.contains i || decide (edgeValueAt l.edges i ≤ s.edgeValue l.ctx (edgeVsemAt l.edges i)))
      let s := s.setLaunch n { l with satisfied := sat }
      if sat.length = l.edgesIn then s.postOnce .edgeSatisfied { a := n } else s
    else s) s

/-- The resident block of a launch with a linear index. -/
def State.findBlock (s : State) (launch idx : Nat) : Option Nat :=
  (s.blocks.find? (fun e => e.2.present && e.2.launch == launch && e.2.idx == idx)).map (·.1)

/-- An update reaches a barrier object of a block (R319); the scratchpad unit applies it in a barrier cycle. -/
def State.barUpdate (s : State) (b off : Nat) (u : BarUpdate) : State :=
  let x := s.block b
  (s.setBlock b { x with updates := x.updates ++ [(off, u)] }).postOnce .barrierCycle { a := b, b := off }

/-- Bindings of a semaphore whose value is reached fire (R339); one whose block is saved fires at resume (R429). -/
def fireList (s : State) (n i : Nat) : List Binding → State × List Binding
  | [] => (s, [])
  | b :: t =>
    if b.sem = n && decide (b.value ≤ (tget 0 s.hub.sems n).toNat) && !b.fired then
      match s.findBlock b.launch b.idx with
      | some k => fireList (s.barUpdate k b.bar (.arrive (200 + i) 0 0 none none)) n (i + 1) t
      | none => let (s, r) := fireList s n (i + 1) t; (s, { b with fired := true } :: r)
    else let (s, r) := fireList s n (i + 1) t; (s, b :: r)

def State.fireBindings (s : State) (n : Nat) : State :=
  let (s', bs) := fireList s n 0 s.bindings
  { s' with bindings := bs }

/-- A change of a semaphore: edges and bindings are re-evaluated (R335, R459). -/
def State.semChanged (s : State) (n : Nat) : State := s.reevalEdges.fireBindings n

/-- An addition to a physical semaphore (R335): vectors watching it are raised (R38), edges and bindings re-evaluated. -/
def State.semAdd (s : State) (n v : Nat) : State :=
  let s := { s with hub := { s.hub with sems := tput s.hub.sems n (tget 0 s.hub.sems n + BitVec.ofNat 64 v) } }
  let s := s.hub.intEn.foldl (fun s (vec, en) => if en && tget 0 s.hub.intSem vec == n then s.raiseVector vec else s) s
  s.semChanged n

/-- A record is written to ring `c` (64 for the device), or counted lost (R406). -/
def State.record (s : State) (c kind : Nat) (r : Rec) : State :=
  let q := tget {} s.rings c
  let full := (q.tail + 65536 - q.head) % 65536 == 2 ^ q.log2n
  if !q.en || full || decide (q.log2n < 4) || decide (15 < q.log2n) || q.base % 64 != 0 || !s.inHbm q.base (64 * 2 ^ q.log2n) then
    { s with rings := tput s.rings c { q with lost := min (q.lost + 1) 0xFFFF } }
  else
    let s := s.write (q.base + 64 * (q.tail % 2 ^ q.log2n)) (r.image s.time kind)
    { s with rings := tput s.rings c { q with tail := (q.tail + 1) % 65536 } }.semAdd q.ssem 1

/-! ### Taking an exception and returning from one (R386-R393) -/

/-- The trap status word (R386). -/
def trapStatus (k e : Nat) (hm : Bool) (t : TrapInfo) : W32 :=
  let who := if kindOf k = .lattice then e else k % 32
  BitVec.ofNat 32 (t.stop % 16 * 2 ^ 28 + who % 8 * 2 ^ 25 + (if hm then 2 ^ 24 else 0) + t.src % 256 * 2 ^ 16 + t.cause % 256)

/-- The trap registers at entry (R387). -/
def trapRegs (k e : Nat) (g : Group) (t : TrapInfo) : TrapRegs :=
  let x := g.sub e
  { cause := trapStatus k e g.handler t
    pc := BitVec.ofNat 64 (t.pc.getD x.here), clause := BitVec.ofNat 64 (t.clause.getD x.clauseStart)
    amask := x.lanes, fmask := t.fmask, addr := BitVec.ofNat 64 t.addr, addr2 := BitVec.ofNat 64 t.addr2
    info := BitVec.ofNat 32 t.info }

/-- What every record about a group says of it (R405). -/
def State.groupRec (s : State) (k : Nat) : Rec :=
  let g := s.group k
  let base : Rec :=
    { clause := g.tr.clause.toNat, pc := g.tr.pc.toNat, unit := unitOfGroup k, cause := g.tr.cause.toNat, info := g.tr.info.toNat,
      fmask := g.tr.fmask.toNat, addr := g.tr.addr.toNat }
  if kindOf k = .control then { base with gid := k % 32 }
  else
    let b := s.block g.block
    { base with launch := b.launch, block := b.idx, region := b.rv.num, ctx := b.ctx, gid := g.gidx }

/-- The record ring of a group: its context's, or the device's for a control core (R391, R406). -/
def State.ringOf (s : State) (k : Nat) : Nat := if kindOf k = .control then 64 else (s.blockOf k).ctx

/-- A double trap (R389): a record of kind 0x02 with the second cause and its object offset; every sub-group is suspended. -/
def State.takeDouble (s : State) (k e cause pc : Nat) : State :=
  let s := s.record (s.ringOf k) 2 { s.groupRec k with word := cause % 256 + pc % 2 ^ 40 * 256 }
  let g := s.group k
  let x := g.sub e
  s.setGroup k { g.setSub e { x with wait := none } with doubleTrap := true, trapping := none }

/-- A running or waiting entry of the split table. -/
def Sub.live (x : Sub) : Bool := x.st == 1 || x.st == 2
/-- The entries in use whose sub-groups may run. -/
def Group.liveSubs (g : Group) : List Nat := (g.subs.filter (fun e => e.2.live)).map (·.1)
/-- The entries whose sub-groups may have a region open: those that may run, and those that are suspended. -/
def Group.openSubs (g : Group) : List Nat := (g.subs.filter (fun e => e.2.live || e.2.st == 4)).map (·.1)

/-- A non-zero reserved field of an object's table entry, or an extent array that is not aligned: the hub does not act on the entry (R6,
R52).
(DEDUCED, notes/assumptions 71; unsafe.) -/
def entReserved (v : Nat) : Bool := field v 80 6 != 0 || field v 0 36 != 0

/-- The handler's entry clause: the region's, or the core's trap vector (R389, R391). -/
def State.handlerPc (s : State) (k : Nat) : Nat :=
  if kindOf k = .control then (s.core (unitOfGroup k)).tvec else (s.blockOf k).rv.trapPc

/-- The hidden handle of a handler (R389): the region's trap object with its generation now, right X, its whole length.
(DEDUCED, notes/assumptions 31; unsafe.) -/
def State.hiddenHandle (s : State) (k : Nat) : HandleReg :=
  let obj := (s.blockOf k).rv.trapObj
  let c := s.context (s.ctxOf k)
  let v := if obj < c.otCount then s.num (c.otBase + 16 * obj) 16 else 0
  let v := if entReserved v then 0 else v
  { bits := BitVec.ofNat 128 (obj % 2 ^ 24 * 2 ^ 104 + field v 120 8 * 2 ^ 96 + 4 * 2 ^ 88 + min (field v 86 25 * 65536) (2 ^ 40 - 1) * 2 ^ 8) }

/-- Steps 2 to 5 of trap entry (R388), made once every sub-group's region can commit. What the drain lands is the trapped region's, which has
committed: the handler's own region begins at its mark. -/
def State.enterHandler (s : State) (k e : Nat) (t : TrapInfo) : State :=
  let s := (s.group k).openSubs.foldl (fun s i => s.commitSub k i (s.sub k i).clauseStart (s.sub k i).here
    (s.sub k i).atHeader) s
  let regs := trapRegs k e (s.group k) t
  let s := (s.asleep k (s.drainBanks k e)).foldl (fun s j => s.wakeReg (unitOfGroup k) j) s
  let s := (s.setSub k e { s.sub k e with mark := none }).drain k e
  let g := s.group k
  let x := g.sub e
  let pc := s.handlerPc k
  let g := g.setSub e { x with
    st := 1, lanes := if kindOf k = .control then 1 else 0xFFFFFFFF, clause := none, pc := pc, idx := 0, headerMet := false,
    trapTokens := x.tokTaken, tokTaken := false, tokensOnly := false, resumeAt := none, resumeSkip := false, wait := none,
    elapsed := 0, stopped := false }
  (s.setGroup k { g with tr := regs, handler := true, trapping := none, handlerSeq := s.nextId, codeH := s.hiddenHandle k }).takeMark k e pc pc true

/-- Whether the entry commit of a trapping group can be made (R388 step 2). -/
def State.canEnter (s : State) (k : Nat) : Bool :=
  kindOf k != .lattice || (s.group k).openSubs.all (fun i => s.regionAccepted k i)

/-- A trap of sub-group `e` (R388-R390): a second trap is a double trap; else every sub-group stops and the handler is
entered, at once where every region access has been accepted. -/
def State.takeTrap (s : State) (k e : Nat) (t : TrapInfo) : State :=
  let g := s.group k
  if g.handler then s.takeDouble k e t.cause (t.pc.getD (g.sub e).here)
  else
    let g := { g with subs := g.subs.map (fun (p : Nat × Sub) => (p.1, { p.2 with stopped := true, wait := none, elapsed := 0 })) }
    let pc := t.pc.getD (g.sub e).here
    let cl := t.clause.getD (g.sub e).clauseStart
    let t := { t with pc := some pc, clause := some cl }
    let waited := (s.group k).subs.any (fun p => p.2.wait.isSome)
    let s := s.setGroup k { g with trapping := some (e, t) }
    let s := if waited then s.wakeOwned k else s
    if s.canEnter k then s.enterHandler k e t else s.postOnce .commit { a := k, flag := true }

/-- Lanes of the other entries of the split table in use (R392). -/
def Group.otherLanes (g : Group) (e : Nat) : W32 :=
  g.subs.foldl (fun m p => if p.1 != e && p.2.st != 0 then m ||| p.2.lanes else m) 0

/-- The return of `tret` and `tret.n` (R392, R393): the handler flag is cleared, the mask restored, and execution resumes at
(tr.clause, tr.pc); the fetch makes the checks of R393, and a clause beyond 2^40 - 1 fails it. A token signal whose wait timed out is made again only where execution resumes at
its stop. -/
def State.returnTrap (s : State) (k e : Nat) (skip : Bool) : State :=
  let g := s.group k
  let c := g.tr.clause.toNat
  let p := g.tr.pc.toNat
  let sigs := match g.sigs with
    | (m, ids) :: t => if bitAt m 4 && (skip || p != c || c != m / 32) then t else (m, ids) :: t
    | [] => []
  let g := { g with subs := g.subs.map (fun (q : Nat × Sub) => (q.1, { q.2 with stopped := false })), handler := false, sigs := sigs }
  let x := g.sub e
  let inside := p != c || skip
  let g := g.setSub e { x with
    lanes := g.tr.amask, clause := none, pc := c % 2 ^ 40, badPc := decide (2 ^ 40 ≤ c), idx := 0, headerMet := false, resumeAt := if inside then some p else none
    resumeSkip := skip, resumeMark := true, tokTaken := inside && x.trapTokens, tokensOnly := inside, trapTokens := false }
  s.setGroup k g

/-! ### Suspension (R400) -/

/-- The record of a suspension or of a paused access of a group (R400).
(DEDUCED, notes/assumptions 28; unsafe.) -/
def State.pausedRec (s : State) (k e obj off hreg clause pc fmask addr : Nat) : State :=
  let who := if kindOf k = .lattice then e else k % 32
  s.record (s.ringOf k) 3 { s.groupRec k with
    clause := clause, pc := pc, cause := 5 * 2 ^ 28 + who * 2 ^ 25 + (if (s.group k).handler then 2 ^ 24 else 0) + 2 ^ 16 + 0x11, info := 8 * 2 ^ 24 + hreg, fmask := fmask
    addr := addr, word := obj * 2 ^ 40 + off }

/-- A sub-group is suspended: its entry enters state 4 and a record of kind 0x03 is written. -/
def State.suspend (s : State) (k e kind obj off hreg clause pc fmask addr : Nat) : State :=
  let x := s.sub k e
  (s.setSub k e { x with st := 4, wait := none, suspension := some (kind, obj, off, hreg) }).pausedRec k e obj off hreg clause pc fmask addr

end Sys2Proof.Machine
end

