-- ==== Sys2Proof/Machine/Operands.lean ====
section
/-! DEFINITION. The operands of every instruction word: the shape of each instruction's fields (04 R107-R111 and each
instruction's own table), the decode checks R121, the profile and privileges R117, reads of operands (R108-R111, R150),
the guard (R129), the operand checks R151 and last use R149. -/

namespace Sys2Proof.Machine

/-- The class an operand field is read in (R108, R111). -/
inductive Cls where
  | s | v | p | h
  deriving DecidableEq, Repr

/-- One operand field: class, value, lowest bit position, registers it names, and how it is used. -/
structure Opnd where
  cls : Cls
  v : Nat
  pos : Nat
  n : Nat := 1
  src : Bool := false
  dst : Bool := false
  regOnly : Bool := false
  lu : Bool := false
  deriving DecidableEq, Repr

/-- The shape of an instruction: its operands in ascending bit position, and whether checks 4, 5, 6 (beyond the operands'
classes) and 8 of R121 hold; the slot it names. -/
structure Shape where
  ops : List Opnd := []
  zero : Bool := true
  modOk : Bool := true
  legal : Bool := true
  sbOk : Bool := true
  slot : Option Nat := none
  deriving DecidableEq, Repr

def sSrc (v : BitVec 8) (pos : Nat) (lu : BitVec 1) (n : Nat := 1) : Opnd :=
  { cls := .s, v := v.toNat, pos := pos, n := n, src := true, lu := lu == 1 }
def sReg (v : BitVec 8) (pos : Nat) (lu : BitVec 1) (n : Nat := 1) : Opnd :=
  { cls := .s, v := v.toNat, pos := pos, n := n, src := true, regOnly := true, lu := lu == 1 }
def sDst (v : BitVec 8) (pos : Nat) (n : Nat := 1) : Opnd := { cls := .s, v := v.toNat, pos := pos, n := n, dst := true }
def vSrc (v : BitVec 8) (pos : Nat) (lu : BitVec 1) (n : Nat := 1) : Opnd :=
  { cls := .v, v := v.toNat, pos := pos, n := n, src := true, lu := lu == 1 }
def vDst (v : BitVec 8) (pos : Nat) (n : Nat := 1) : Opnd := { cls := .v, v := v.toNat, pos := pos, n := n, dst := true }
def pSrc (v : BitVec 8) (pos : Nat) (lu : BitVec 1) : Opnd := { cls := .p, v := v.toNat, pos := pos, src := true, lu := lu == 1 }
def pDst (v : BitVec 8) (pos : Nat) : Opnd := { cls := .p, v := v.toNat, pos := pos, dst := true }
def hSrc (v : Nat) (pos : Nat) (lu : BitVec 1) : Opnd := { cls := .h, v := v, pos := pos, src := true, lu := lu == 1 }
def hDst (v : Nat) (pos : Nat) : Opnd := { cls := .h, v := v, pos := pos, dst := true }

/-- Registers of a 32- or 64-bit operand. -/
def wn (w64 : Bool) : Nat := if w64 then 2 else 1
/-- The bits of a modifier outside `mask` are zero (R107). -/
def modIn {n : Nat} (m : BitVec n) (mask : Nat) : Bool := (m.toNat &&& mask) == m.toNat
/-- Bits `[lo + k - 1 : lo]` of a modifier. -/
def mf {n : Nat} (m : BitVec n) (lo k : Nat) : Nat := field m.toNat lo k

end Sys2Proof.Machine

namespace Sys2Proof
open Machine

/-- src1 and src2 of form T unused (R107). -/
def TForm.noSrc2 (f : TForm) : Bool := f.src2 == 0 && f.lu2 == 0
def TForm.noSrc12 (f : TForm) : Bool := f.noSrc2 && f.src1 == 0 && f.lu1 == 0
def TForm.noSrc (f : TForm) : Bool := f.noSrc12 && f.src0 == 0 && f.lu0 == 0
def XForm.noD (f : XForm) : Bool := f.xd == 0
def XForm.noC (f : XForm) : Bool := f.xc == 0 && f.luc == 0
def XForm.noB (f : XForm) : Bool := f.xb == 0 && f.lub == 0
def XForm.noA (f : XForm) : Bool := f.xa == 0

/-- sb names a slot, or holds 7 (R107). -/
def XForm.slotted (f : XForm) (sh : Shape) : Shape :=
  { sh with sbOk := decide (f.sb.toNat < 6), slot := if f.sb.toNat < 6 then some f.sb.toNat else none }
def XForm.unslotted (f : XForm) (sh : Shape) : Shape := { sh with sbOk := f.sb == 7 }
def MForm.slotted (f : MForm) (sh : Shape) : Shape :=
  { sh with sbOk := decide (f.sb.toNat < 6), slot := if f.sb.toNat < 6 then some f.sb.toNat else none }
def MForm.unslotted (f : MForm) (sh : Shape) : Shape := { sh with sbOk := f.sb == 7 }

end Sys2Proof

namespace Sys2Proof.Machine

/-- Scalar integer instructions (R184, R185): sources src0, src1, src2 with the widths of the first two sources. -/
def aluShape (o : AluForm) (nsrc : Nat) (modOk : Nat → Bool) (b32 c32 d32 : Bool) : Shape :=
  match o with
  | .t w f =>
    { ops := [sDst f.dst 20 (wn (w && !d32)), sSrc f.src0 28 f.lu0 (wn w)] ++
        (if 2 ≤ nsrc then [sSrc f.src1 37 f.lu1 (wn (w && !b32))] else []) ++
        (if 3 ≤ nsrc then [sSrc f.src2 46 f.lu2 (wn (w && !c32))] else [])
      zero := if nsrc = 1 then f.noSrc12 else if nsrc = 2 then f.noSrc2 else true
      modOk := modOk f.mod.toNat }
  | .i w f =>
    { ops := [sDst f.dst 20 (wn (w && !d32)), sSrc f.src0 28 f.lu0 (wn w)], modOk := modOk f.mod.toNat }

/-- `sdiv` and `srem`: the slot in mod[8:6] of form T, mod[10:8] of form I (R187). -/
def divShape (o : AluForm) : Shape :=
  let sl := match o with | .t _ f => mf f.mod 6 3 | .i _ f => mf f.mod 8 3
  let ok (m : Nat) : Bool := match o with | .t _ _ => (m &&& 0x1C1) == m | .i _ _ => (m &&& 0x701) == m
  let sh := aluShape o 2 (fun m => ok m && decide (sl < 6)) false false false
  { sh with slot := if sl < 6 then some sl else none }

/-- Vector instructions of form T: destination, sources in vector class but src1 (mod[0]) and src2 (mod[1]) where scalar. -/
def vShape (f : TForm) (nd n0 n1 n2 : Nat) (modOk : Bool) (c2 : Bool := false) : Shape :=
  { ops := [vDst f.dst 20 nd, vSrc f.src0 28 f.lu0 n0] ++
      (if n1 = 0 then [] else [if f.mod.getLsbD 0 then sSrc f.src1 37 f.lu1 n1 else vSrc f.src1 37 f.lu1 n1]) ++
      (if n2 = 0 then [] else [if c2 then sSrc f.src2 46 f.lu2 n2 else vSrc f.src2 46 f.lu2 n2])
    zero := if n1 = 0 then f.noSrc12 else if n2 = 0 then f.noSrc2 else true
    modOk := modOk }

/-- The destination of a vector shape replaced. -/
def Shape.withDst (sh : Shape) (d : Opnd) : Shape := { sh with ops := d :: sh.ops.drop 1 }

/-- Long-latency vector functions: slot in mod[8:6], rounding in mod[4:2] where it has one (R229). -/
def vFun (f : TForm) (n : Nat) (rounds : Bool) : Shape :=
  let sl := mf f.mod 6 3
  { vShape f n n 0 0 (modIn f.mod (if rounds then 0x1DC else 0x1C0) && decide (mf f.mod 2 3 ≤ 4) && decide (sl < 6)) with
    slot := if sl < 6 then some sl else none }

end Sys2Proof.Machine

namespace Sys2Proof
open Machine

def FVar.n : FVar → Nat
  | .f64 => 2
  | _ => 1
def F3.n : F3 → Nat
  | .f64 => 2
  | _ => 1
def CvtDst.n : CvtDst → Nat
  | .f64 | .i64 | .n64 => 2
  | _ => 1
def CvtDst.isFloat : CvtDst → Bool
  | .f64 | .f32 | .f16 | .bf16 | .e4m3 | .e5m2 | .e3m2 | .e2m3 | .e2m1 => true
  | _ => false
def CvtDst.isSmall : CvtDst → Bool
  | .e4m3 | .e5m2 | .e3m2 | .e2m3 | .e2m1 => true
  | _ => false
def PackKind.maxSel : PackKind → Nat
  | .e2m1 => 7 | .e3m2 => 4 | .b8 => 3 | .b16 => 1
def RedOp.n : RedOp → Nat
  | .addI64 | .addF64 => 2
  | _ => 1
def Size5.bytes : Size5 → Nat
  | .b8 => 1 | .b16 => 2 | .b32 => 4 | .b64 => 8 | .b128 => 16
def SizeW.bytes : SizeW → Nat
  | .b32 => 4 | .b64 => 8 | .b128 => 16
def Size4.bytes : Size4 → Nat
  | .b8 => 1 | .b16 => 2 | .b32 => 4 | .b64 => 8
def SizeP.bytes : SizeP → Nat
  | .b16 => 2 | .b32 => 4 | .b64 => 8

end Sys2Proof

namespace Sys2Proof.Machine

/-- Registers that `e` bytes of data occupy (R261). -/
def regsOf (e : Nat) : Nat := if e ≤ 4 then 1 else e / 4
end Sys2Proof.Machine

namespace Sys2Proof
open Machine

def RingPart.isAll : RingPart → Bool
  | .all => true
  | _ => false

/-- The offset operand of form M (R262, R263). -/
def MForm.offOp (f : MForm) (vec : Bool) : Opnd :=
  let n := if f.mod.getLsbD 1 then 2 else 1
  if vec && !f.mod.getLsbD 0 then vSrc f.off 33 f.luo n else sSrc f.off 33 f.luo n

end Sys2Proof

namespace Sys2Proof.Machine

/-- A form-M access: data operand, whether off may be a vector, whether a handle is named, the legal mod bits. -/
def mShape (f : MForm) (d : List Opnd) (vec handle : Bool) (mask : Nat) (cond : Bool := true) (zero : Bool := true) : Shape :=
  { ops := d ++ (if handle then [hSrc f.h.toNat 28 0] else []) ++ [f.offOp vec]
    zero := zero && (handle || f.h == 0) && (d.any (·.src) || f.lud == 0)
    modOk := modIn f.mod mask && cond }
/-- A form-M instruction with no operand but its slot (R261). -/
def allShape (f : MForm) : Shape :=
  f.slotted { zero := f.d == 0 && f.lud == 0 && f.h == 0 && f.off == 0 && f.luo == 0 && f.imm == 0, modOk := f.mod == 0 }

/-- Registers that d holds for an operation of R333, as a source and as a destination of `atom`. -/
def atomSrcRegs (op : Nat) : Nat := if op = 15 then 4 else if op = 1 || op = 3 || op = 13 || op = 14 then 2 else 1
def atomDstRegs (op : Nat) : Nat := if op = 15 || op = 1 || op = 3 || op = 13 then 2 else 1
def atomSize (op : Nat) : Nat := if op = 1 || op = 3 || op = 13 || op = 15 then 8 else 4

/-- `atom` and `red` (R332, R333): the data register is read, and for `atom` also written. -/
def atomShape (ck : CoreKind) (f : MForm) (glob ret : Bool) : Shape :=
  let op := mf f.mod 2 4
  let n := atomSrcRegs op
  let d : Opnd := if ck = .control then (if ret then sReg f.d 20 f.lud n else sSrc f.d 20 f.lud n) else vSrc f.d 20 f.lud n
  let d := { d with dst := ret }
  let sh := mShape f [d] true glob (if glob then 0x3F else 0x3D) ((ret || decide (op < 12)) && (ck != .control || f.mod.getLsbD 0))
    (!ret || f.lud == 0)
  if ret then f.slotted sh else f.unslotted sh

/-- A hint's move (R118). -/
def hintShape (f : TForm) : Shape :=
  if f.mod.getLsbD 0 then
    match mf f.mod 1 2 with
    | 0 => { ops := [sDst f.dst 20, sSrc f.src0 28 f.lu0] }
    | 1 => { ops := [vDst f.dst 20, vSrc f.src0 28 f.lu0] }
    | 2 => { ops := [pDst f.dst 20, pSrc f.src0 28 f.lu0] }
    | _ => { ops := [hDst f.dst.toNat 20, hSrc f.src0.toNat 28 f.lu0] }
  else {}
/-- `hint.pf` (R119): mod[3] is its own, src1 and src2 are read without the checks. -/
def hintPfShape (f : TForm) : Shape := { hintShape f with modOk := !f.mod.getLsbD 0 || f.mod.toNat / 16 == 0 }
/-- `hint.bank` (R120): src2 is unused, and it has no modifier of its own. -/
def hintBankShape (f : TForm) : Shape :=
  { hintShape f with zero := !f.mod.getLsbD 0 || f.src2 == 0, modOk := !f.mod.getLsbD 0 || f.mod.toNat / 8 == 0 }

/-- The data operand of `fst`, `fld` and `fred`: a vector register, or scalar registers on a control core (R373). -/
def fabData (ck : CoreKind) (f : XForm) (n : Nat) (dst : Bool) : Opnd :=
  if ck = .control then (if dst then sDst f.xa 20 n else sReg f.xa 20 0 n) else if dst then vDst f.xa 20 n else vSrc f.xa 20 0 n
/-- A fabric memory form: handle xb and 64-bit offset xc (R373). -/
def fabOps (f : XForm) : List Opnd := [hSrc f.xb.toNat 28 f.lub, sSrc f.xc 37 f.luc 2]

/-- The registers a special-register number is legal for (R197, R198): readable, or writable, on a core. -/
def specialOk (ck : CoreKind) (n : Nat) (write : Bool) : Bool :=
  if n ≤ 0x06 || n = 0x08 || n = 0x09 then !write
  else if n = 0x07 then !write || ck = .control
  else if n = 0x0A || n = 0x0B || n = 0x0C then ck != .control
  else n = 0x0D || (decide (0x10 ≤ n) && decide (n ≤ 0x17))

/-- A barrier instruction's common operands (R324). -/
def scopeOk (m : Nat) : Bool := decide (m ≤ 4)

/-- The shape of every instruction word; steps that are no instruction word have no operands. -/
def shape (ck : CoreKind) (i : Instr) : Shape :=
  match i with
  | .sadd o | .ssub o =>
    aluShape o 2 (fun m => decide (m ≤ 2)) false false false
  | .smul o | .sand o | .sor o | .sxor o | .sandn o =>
    aluShape o 2 (fun m => m == 0) false false false
  | .smulh o | .smin o | .smax o =>
    aluShape o 2 (fun m => decide (m ≤ 1)) false false false
  | .sdiv o | .srem o =>
    divShape o
  | .sshl o | .sshr o | .ssra o =>
    aluShape o 2 (fun m => m == 0) true false false
  | .sclz o | .spop o | .smov o =>
    aluShape o 1 (fun m => m == 0) false false false
  | .sbfx o =>
    aluShape o 2 (fun m => decide (m ≤ 1)) true false false
  | .sbfi o | .ssel o =>
    aluShape o 3 (fun m => m == 0) false true false
  | .scmp o =>
    aluShape o 2 (fun m => decide (m ≤ 9)) false false true
  | .smovi k f =>
    { ops := [sDst f.dst 20 (match k with | .i64 => 2 | _ => 1)], zero := f.src0 == 0 && f.lu0 == 0, modOk := f.mod == 0 }
  | .smoviHi f =>
    { ops := [sDst f.dst 20, sSrc f.src0 28 f.lu0], modOk := f.mod == 0 }
  | .br f | .bl f =>
    { zero := f.cond == 0 && f.luc == 0, modOk := f.bmod == 0 }
  | .bz w f | .bnz w f =>
    { ops := [sSrc f.cond 20 f.luc (wn w)], modOk := f.bmod == 0 }
  | .jr f =>
    { ops := [sSrc f.src0 28 f.lu0 2], zero := f.noSrc12 && f.dst == 0, modOk := f.mod == 0 }
  | .jl f =>
    { ops := [sDst f.dst 20 2, sSrc f.src0 28 f.lu0 2], zero := f.noSrc12, modOk := f.mod == 0 }
  | .split f =>
    { ops := [pSrc f.cond 20 f.luc], modOk := f.bmod == 0 }
  | .fuse f | .exit f | .yield f | .nop f =>
    { zero := f.noSrc && f.dst == 0, modOk := f.mod == 0 }
  | .swait f =>
    { zero := f.dst == 0 && f.src0 == 0 && f.lu0 == 0 && decide (f.imm.toNat < 64), modOk := f.mod == 0 }
  | .trap f | .brk f =>
    { zero := f.dst == 0 && f.src0 == 0 && f.lu0 == 0, modOk := f.mod == 0 }
  | .pand f | .por f | .pxor f | .pandn f =>
    { ops := [pDst f.dst 20, pSrc f.src0 28 f.lu0, pSrc f.src1 37 f.lu1], zero := f.noSrc2, modOk := f.mod == 0 }
  | .pnot f =>
    { ops := [pDst f.dst 20, pSrc f.src0 28 f.lu0], zero := f.noSrc12, modOk := f.mod == 0 }
  | .pmov o =>
    match o with
    | .t f => { ops := [pDst f.dst 20, pSrc f.src0 28 f.lu0], zero := f.noSrc12, modOk := f.mod == 0 }
    | .i f => { ops := [pDst f.dst 20], zero := f.src0 == 0 && f.lu0 == 0, modOk := f.mod == 0 }
  | .pfroms f =>
    { ops := [pDst f.dst 20, sSrc f.src0 28 f.lu0], zero := f.noSrc12, modOk := f.mod == 0 }
  | .ptos f | .pany f | .pall f | .ppop f =>
    { ops := [sDst f.dst 20, pSrc f.src0 28 f.lu0], zero := f.noSrc12, modOk := f.mod == 0 }
  | .sget w f =>
    { ops := [sDst f.dst 20 (wn w)], zero := f.src0 == 0 && f.lu0 == 0 && decide (f.imm.toNat < 256),
      modOk := f.mod == 0 && specialOk ck (f.imm.toNat % 256) false }
  | .sset w f =>
    { ops := [sSrc f.src0 28 f.lu0 (wn w)], zero := f.dst == 0 && decide (f.imm.toNat < 256),
      modOk := f.mod == 0 && specialOk ck (f.imm.toNat % 256) true }
  | .acqRegW f | .acqSpmW f | .acqMslW f | .semmapQ f | .cterm f =>
    f.slotted { ops := [sDst f.xa 20, sSrc f.xb 28 f.lub], zero := f.noC && f.noD, modOk := f.mod == 0 }
  | .acqRegT f | .acqSpmT f | .acqMslT f =>
    f.unslotted { ops := [sDst f.xa 20, sSrc f.xb 28 f.lub, pDst f.xd 46], zero := f.noC, modOk := f.mod == 0 }
  | .relReg f | .relSpm f | .relMsl f | .rsleep f | .cpGo f | .bjoin f | .bleave f | .tesc f =>
    f.unslotted { ops := [sSrc f.xb 28 f.lub], zero := f.noA && f.noC && f.noD, modOk := f.mod == 0 }
  | .rwake f =>
    f.slotted { ops := [sSrc f.xb 28 f.lub], zero := f.noA && f.noC && f.noD, modOk := modIn f.mod 1 }
  | .spdrop f | .bexp f =>
    f.unslotted { ops := [sSrc f.xb 28 f.lub, sSrc f.xc 37 f.luc], zero := f.noA && f.noD, modOk := f.mod == 0 }
  | .launch f =>
    f.slotted { ops := [sDst f.xa 20 2, hSrc f.xb.toNat 28 f.lub, sSrc f.xc 37 f.luc 2], zero := f.noD, modOk := f.mod == 0 }
  | .lquery f | .semPoll f =>
    f.slotted { ops := [sDst f.xa 20 2, sSrc f.xb 28 f.lub], zero := f.noC && f.noD, modOk := f.mod == 0 }
  | .objmapEnt f =>
    f.slotted { ops := [sDst f.xa 20, sSrc f.xb 28 f.lub, sReg f.xc 37 f.luc 4], zero := f.noD, modOk := f.mod == 0 }
  | .objmapExt f | .objmapMv f =>
    f.slotted { ops := [sDst f.xa 20, sSrc f.xb 28 f.lub 2, sReg f.xc 37 f.luc 4], zero := f.noD, modOk := f.mod == 0 }
  | .objinv f =>
    f.slotted { ops := [sSrc f.xb 28 f.lub], zero := f.noA && f.noC && f.noD, modOk := f.mod == 0 }
  | .objinvCtx f =>
    f.slotted { zero := f.noA && f.noB && f.noC && f.noD, modOk := f.mod == 0 }
  | .semmap f | .mloadRt f | .cresume f =>
    f.slotted { ops := [sDst f.xa 20, sSrc f.xb 28 f.lub, sSrc f.xc 37 f.luc], zero := f.noD, modOk := f.mod == 0 }
  | .hmint f =>
    f.slotted { ops := [hDst f.xa.toNat 20, sSrc f.xb 28 f.lub 2, sSrc f.xc 37 f.luc 2, sReg f.xd 46 0], modOk := f.mod == 0 }
  | .vadd w f | .vsub w f =>
    vShape f (wn w) (wn w) (wn w) 0 (modIn f.mod 7 && decide (mf f.mod 1 2 ≤ 2))
  | .vmul w f | .vand w f | .vor w f | .vxor w f | .vandn w f =>
    vShape f (wn w) (wn w) (wn w) 0 (modIn f.mod 1)
  | .vmulh w f | .vmin w f | .vmax w f =>
    vShape f (wn w) (wn w) (wn w) 0 (modIn f.mod 3)
  | .vmad w f =>
    vShape f (wn w) (wn w) (wn w) (wn w) (modIn f.mod 3) (f.mod.getLsbD 1)
  | .vshl w f | .vshr w f | .vsra w f | .vperm w f | .vxshf w f | .vrot w f =>
    vShape f (wn w) (wn w) 1 0 (modIn f.mod 1)
  | .vabs w f =>
    vShape f (wn w) (wn w) 0 0 (modIn f.mod 2)
  | .vclz w f | .vpop w f | .vmov w f | .vcompress w f | .vexpand w f =>
    vShape f (wn w) (wn w) 0 0 (f.mod == 0)
  | .vbfx w f =>
    vShape f (wn w) (wn w) 1 0 (modIn f.mod 3)
  | .vbfi w f =>
    vShape f (wn w) (wn w) (wn w) 1 (modIn f.mod 3) (f.mod.getLsbD 1)
  | .vsel w f =>
    { vShape f (wn w) (wn w) (wn w) 0 (modIn f.mod 1) with
      ops := (vShape f (wn w) (wn w) (wn w) 0 true).ops ++ [pSrc f.src2 46 f.lu2], zero := true }
  | .vmovs w f =>
    { ops := [vDst f.dst 20 (wn w), sSrc f.src0 28 f.lu0 (wn w)], zero := f.noSrc12, modOk := f.mod == 0 }
  | .vmovsGet w f =>
    { ops := [sDst f.dst 20 (wn w), vSrc f.src0 28 f.lu0 (wn w)], zero := f.noSrc12, modOk := f.mod == 2 }
  | .vcmp w f =>
    (vShape f 1 (wn w) (wn w) 0 (modIn f.mod 0x1F && decide (mf f.mod 1 4 ≤ 9))).withDst (pDst f.dst 20)
  | .vfadd t f | .vfsub t f | .vfmul t f =>
    vShape f t.n t.n t.n 0 (modIn f.mod 0x1D && decide (mf f.mod 2 3 ≤ 4))
  | .vfma t f =>
    vShape f t.n t.n t.n t.n (modIn f.mod 0x1F && decide (mf f.mod 2 3 ≤ 4)) (f.mod.getLsbD 1)
  | .vfmin t f | .vfmax t f =>
    vShape f t.n t.n t.n 0 (modIn f.mod 1)
  | .vfrnd t f =>
    vShape f t.n t.n 0 0 (modIn f.mod 0x1C && decide (mf f.mod 2 3 ≤ 3))
  | .vfclass t f =>
    vShape f 1 t.n 0 0 (f.mod == 0)
  | .vfcmp t f =>
    (vShape f 1 t.n t.n 0 (modIn f.mod 0x7F && decide (mf f.mod 1 4 ≤ 7) &&
      (mf f.mod 5 2 == 0 || t == .f16x2 || t == .bf16x2))).withDst (pDst f.dst 20)
  | .vfdot2 _ f =>
    vShape f 1 1 1 1 (modIn f.mod 0x1F && decide (mf f.mod 2 3 ≤ 4)) (f.mod.getLsbD 1)
  | .vrcp t f | .vsqrt t f =>
    vFun f t.n true
  | .vrsqrt _ f =>
    vFun f 1 true
  | .vexp2 _ f | .vlog2 _ f | .vsin _ f | .vcos _ f =>
    vFun f 1 false
  | .vcvt d int f =>
    let src := mf f.mod 1 4
    let rm := mf f.mod 5 3
    let ns := if int then (if src = 3 || src = 7 then 2 else 1) else (if src = 0 then 2 else 1)
    vShape f d.n ns 0 0 (!f.mod.getLsbD 0 && decide (src ≤ (if int then 7 else 8)) && (!f.mod.getLsbD 8 || d.isSmall) &&
      decide (rm ≤ (if d.isFloat then 4 else if int then 0 else 3)))
  | .vpack k f =>
    { ops := [vDst f.dst 20, vSrc f.src0 28 f.lu0, vSrc f.src1 37 f.lu1], zero := f.noSrc2,
      modOk := modIn f.mod 0xE && decide (mf f.mod 1 3 ≤ k.maxSel) }
  | .vunpack k f =>
    vShape f 1 1 0 0 (modIn f.mod (match k with | .b8 | .b16 => 0x1E | _ => 0xE) && decide (mf f.mod 1 3 ≤ k.maxSel))
  | .vmxq _ f =>
    vShape f 1 1 0 0 (modIn f.mod 0x1C && decide (mf f.mod 2 3 ≤ 4))
  | .vmxd _ f =>
    vShape f 1 1 1 0 (modIn f.mod 1)
  | .vbcl w f =>
    vShape f (wn w) (wn w) 1 0 (f.mod == 1)
  | .vred o f =>
    (vShape f 1 o.n 0 0 (modIn f.mod (match o with | .addF32 | .addF64 => 0x1C | _ => 0) && decide (mf f.mod 2 3 ≤ 3))).withDst
      (sDst f.dst 20 o.n)
  | .vscan o f =>
    vShape f o.n o.n 0 0 (modIn f.mod (match o with | .addF32 | .addF64 => 0x1C | _ => 0) && decide (mf f.mod 2 3 ≤ 3))
  | .ldG z f =>
    f.slotted (mShape f [vDst f.d 20 (regsOf z.bytes)] true true (0x1B + (if decide (z.bytes ≤ 2) then 4 else 0)) (decide (mf f.mod 3 2 ≤ 2)))
  | .stG z f =>
    f.unslotted (mShape f [vSrc f.d 20 f.lud (regsOf z.bytes)] true true 0x13)
  | .ldwG z f =>
    f.slotted (mShape f [vDst f.d 20 (regsOf z.bytes)] false true 0x1A (decide (mf f.mod 3 2 ≤ 2)))
  | .stwG z f =>
    f.unslotted (mShape f [vSrc f.d 20 f.lud (regsOf z.bytes)] false true 0x12)
  | .ldGs z f =>
    f.slotted (mShape f [sDst f.d 20 (regsOf z.bytes)] false true (0x1A + (if decide (z.bytes ≤ 2) then 4 else 0)) (decide (mf f.mod 3 2 ≤ 2)))
  | .stGs z f =>
    f.unslotted (mShape f [sSrc f.d 20 f.lud (regsOf z.bytes)] false true 0x12)
  | .ldL z f =>
    f.slotted (mShape f [vDst f.d 20 (regsOf z.bytes)] true false (1 + (if decide (z.bytes ≤ 2) then 4 else 0)))
  | .stL z f =>
    f.unslotted (mShape f [vSrc f.d 20 f.lud (regsOf z.bytes)] true false 1)
  | .ldC w f =>
    f.slotted { mShape f [vDst f.d 20 (wn w)] true false 1 with zero := decide (f.h.toNat < 4) && f.lud == 0 }
  | .stC w f =>
    f.slotted { mShape f [vSrc f.d 20 f.lud (wn w)] true false 1 with zero := decide (f.h.toNat < 4) }
  | .ldP z f =>
    f.slotted (mShape f [vDst f.d 20 (regsOf z.bytes)] false false (if decide (z.bytes ≤ 2) then 4 else 0))
  | .stP z f =>
    f.unslotted (mShape f [vSrc f.d 20 f.lud (regsOf z.bytes)] false false 0)
  | .ldAcq w f =>
    f.slotted (mShape f [sDst f.d 20 (wn w)] false true 0x1E (decide (mf f.mod 2 3 ≤ 4)))
  | .stRel w f =>
    f.unslotted (mShape f [sSrc f.d 20 f.lud (wn w)] false true 0x1E (decide (mf f.mod 2 3 ≤ 4)))
  | .fence f =>
    f.unslotted { zero := f.noA && f.noB && f.noC && f.noD,
                  modOk := modIn f.mod 0x1F && scopeOk (mf f.mod 0 3) && decide (1 ≤ mf f.mod 3 2) }
  | .qsync f | .mclrAll f | .ffence f | .tret f | .tretN f =>
    f.unslotted { zero := f.noA && f.noB && f.noC && f.noD, modOk := f.mod == 0 }
  | .cclean f | .cinval f =>
    f.slotted (mShape f [sSrc f.d 20 f.lud] false true 2)
  | .ccleanAll f | .cinvalAll f =>
    allShape f
  | .pf f | .pfRo f =>
    f.unslotted (mShape f [] false true 2 true (f.d == 0))
  | .hderive f =>
    { ops := [hDst f.dst.toNat 20, hSrc f.src0.toNat 28 f.lu0, sSrc f.src1 37 f.lu1 2, sSrc f.src2 46 f.lu2 2], modOk := f.mod == 0 }
  | .hrestrict f =>
    { ops := [hDst f.dst.toNat 20, hSrc f.src0.toNat 28 f.lu0, sSrc f.src1 37 f.lu1], zero := f.noSrc2, modOk := f.mod == 0 }
  | .hget f =>
    { ops := [sDst f.dst 20 (if f.mod == 3 || f.mod == 4 then 2 else 1), hSrc f.src0.toNat 28 f.lu0], zero := f.noSrc12,
      modOk := decide (f.mod.toNat ≤ 5) }
  | .hld f =>
    f.slotted (mShape f [hDst f.d.toNat 20] false true 2)
  | .hst f =>
    f.unslotted (mShape f [hSrc f.d.toNat 20 f.lud] false true 2)
  | .hmov f =>
    { ops := [hDst f.dst.toNat 20, hSrc f.src0.toNat 28 f.lu0], zero := f.noSrc12, modOk := f.mod == 0 }
  | .hvalid f =>
    { ops := [sDst f.dst 20, hSrc f.src0.toNat 28 f.lu0], zero := f.noSrc12, modOk := f.mod == 0 }
  | .hintPf f =>
    hintPfShape f
  | .hintBank f =>
    hintBankShape f
  | .hintX _ f =>
    hintShape f
  | .mset w f =>
    f.unslotted { ops := [sSrc f.xb 28 f.lub (wn w)], zero := f.noA && f.noC, modOk := modIn f.mod (if w then 0 else 1),
                  legal := decide (f.xd.toNat ≤ 7) }
  | .msetI f =>
    { zero := f.src0 == 0 && f.lu0 == 0, modOk := f.mod == 0, legal := decide (f.dst.toNat ≤ 7) }
  | .mget w f =>
    f.unslotted { ops := [sDst f.xa 20 (wn w)], zero := f.noB && f.noC, modOk := modIn f.mod (if w then 0 else 1),
                  legal := decide (f.xd.toNat ≤ 7) }
  | .mcall f =>
    f.unslotted { ops := [sSrc f.xa 20 0, sSrc f.xb 28 f.lub], zero := f.noC, modOk := f.mod == 0 }
  | .mcallR f =>
    f.unslotted { ops := [sSrc f.xa 20 0, sSrc f.xb 28 f.lub, sSrc f.xc 37 f.luc], zero := f.noD, modOk := f.mod == 0 }
  | .mstat f | .mstatR f =>
    f.unslotted { ops := [sDst f.xa 20, sSrc f.xb 28 f.lub], zero := f.noC && f.noD, modOk := f.mod == 0 }
  | .rset p f =>
    f.unslotted { ops := [if p.isAll then sReg f.xb 28 f.lub 4 else sSrc f.xb 28 f.lub], zero := f.noA && f.noC, modOk := f.mod == 0,
                  legal := decide (f.xd.toNat ≤ 7) }
  | .rget p f =>
    f.unslotted { ops := [sDst f.xa 20 (if p.isAll then 4 else 1)], zero := f.noB && f.noC, modOk := f.mod == 0,
                  legal := decide (f.xd.toNat ≤ 7) }
  | .rpushW f | .rpopW f =>
    if f.mod.getLsbD 0 then
      f.unslotted { ops := [sSrc f.xb 28 f.lub], zero := f.noA && f.noC && f.noD, modOk := modIn f.mod 1 }
    else f.slotted { ops := [sDst f.xa 20, sSrc f.xb 28 f.lub], zero := f.noC && f.noD, modOk := modIn f.mod 1 }
  | .rpushT f | .rpopT f =>
    f.unslotted { ops := (if f.mod.getLsbD 0 then [] else [sDst f.xa 20]) ++ [sSrc f.xb 28 f.lub, pDst f.xd 46]
                  zero := f.noC && (!f.mod.getLsbD 0 || f.noA), modOk := modIn f.mod 1 }
  | .mspillL f | .mfillL f =>
    f.slotted { ops := [sSrc f.xb 28 f.lub], zero := f.noA && f.noC, modOk := f.mod == 0, legal := decide (f.xd.toNat ≤ 3) }
  | .mspillG f | .mfillG f =>
    f.slotted { ops := [hSrc f.xb.toNat 28 f.lub, sSrc f.xc 37 f.luc 2], zero := f.noA, modOk := f.mod == 0, legal := decide (f.xd.toNat ≤ 3) }
  | .mclr f =>
    f.unslotted { zero := f.noA && f.noB && f.noC, modOk := f.mod == 0, legal := decide (f.xd.toNat ≤ 3) }
  | .mloadCode f =>
    f.slotted { ops := [sDst f.xa 20, hSrc f.xb.toNat 28 f.lub, sReg f.xc 37 f.luc 4], zero := f.noD, modOk := f.mod == 0 }
  | .mloadQ f =>
    f.unslotted { ops := [sDst f.xa 20 2, sSrc f.xb 28 f.lub], zero := f.noC && f.noD, modOk := f.mod == 0 }
  | .binit f =>
    f.unslotted { ops := [sSrc f.xb 28 f.lub, sSrc f.xc 37 f.luc], zero := f.noA && f.noD, modOk := modIn f.mod 1 }
  | .barr f =>
    let sh : Shape := { ops := (if f.xa == 0 then [] else [sDst f.xa 20]) ++ [sSrc f.xb 28 f.lub, sSrc f.xc 37 f.luc], zero := f.noD,
                        modOk := scopeOk f.mod.toNat }
    if f.xa == 0 then f.unslotted sh else f.slotted sh
  | .bdrop f =>
    f.unslotted { ops := [sSrc f.xb 28 f.lub], zero := f.noA && f.noC && f.noD, modOk := scopeOk f.mod.toNat }
  | .bwait f =>
    f.unslotted { ops := [sSrc f.xb 28 f.lub, sSrc f.xc 37 f.luc], zero := f.noA && f.noD, modOk := scopeOk f.mod.toNat }
  | .bpoll f | .cqueryU f =>
    f.slotted { ops := [sDst f.xa 20 4, sSrc f.xb 28 f.lub], zero := f.noC && f.noD, modOk := f.mod == 0 }
  | .atomG f =>
    atomShape ck f true true
  | .atomL f =>
    atomShape ck f false true
  | .redG f =>
    atomShape ck f true false
  | .redL f =>
    atomShape ck f false false
  | .semSig o =>
    match o with
    | .x f => f.unslotted { ops := [sSrc f.xb 28 f.lub, sSrc f.xc 37 f.luc 2], zero := f.noA && f.noD, modOk := f.mod == 3 || f.mod == 4 }
    | .i f => { ops := [sSrc f.src0 28 f.lu0], zero := f.dst == 0, modOk := f.mod == 3 || f.mod == 4 }
  | .semBind f | .ffenceF f | .fsig f =>
    f.unslotted { ops := [sSrc f.xa 20 0, sSrc f.xb 28 f.lub, sSrc f.xc 37 f.luc 2], zero := f.noD, modOk := f.mod == 0 }
  | .fst f =>
    f.unslotted { ops := fabData ck f (wn (f.mod.getLsbD 0)) false :: fabOps f, zero := f.noD, modOk := modIn f.mod 1 }
  | .fld f =>
    f.slotted { ops := fabData ck f (wn (f.mod.getLsbD 0)) true :: fabOps f, zero := f.noD, modOk := modIn f.mod 1 }
  | .ffadd w f =>
    f.slotted { ops := [sDst f.xa 20 (wn w)] ++ fabOps f ++ [sReg f.xd 46 0 (wn w)], modOk := f.mod == 0 }
  | .fred f =>
    f.unslotted { ops := fabData ck f (atomSrcRegs (mf f.mod 2 4)) false :: fabOps f, zero := f.noD,
                  modOk := modIn f.mod 0x3C && decide (mf f.mod 2 4 < 12) }
  | .cpreempt f =>
    f.slotted { ops := [sDst f.xa 20, sSrc f.xb 28 f.lub, sSrc f.xc 37 f.luc], zero := f.noD, modOk := modIn f.mod 1 }
  | .cresumeEsc f =>
    f.slotted { ops := [sDst f.xa 20, sSrc f.xb 28 f.lub, sSrc f.xc 37 f.luc, sReg f.xd 46 0], modOk := f.mod == 1 }
  | .ctermL f =>
    f.slotted { ops := [sDst f.xa 20, sSrc f.xb 28 f.lub], zero := f.noC && f.noD, modOk := f.mod == 1 }
  | .cquery f =>
    f.slotted { ops := [sDst f.xa 20 4, sSrc f.xb 28 f.lub, sSrc f.xc 37 f.luc], zero := f.noD, modOk := f.mod == 0 }
  | _ => {}

/-! ### Opcodes, profile and privilege (R101, R117) -/

/-- The opcode of an instruction word; 512 for a step that is none. -/
def opcodeOf (i : Instr) : Nat :=
  match encode i with
  | some w => w.toNat % 512
  | none => 512

/-- The opcode lies in `[lo, hi]`. -/
def opIn (op lo hi : Nat) : Bool := decide (lo ≤ op) && decide (op ≤ hi)

/-- The opcode is in the core's profile (R117). -/
def inProfile (ck : CoreKind) (op : Nat) : Bool :=
  match ck with
  | .lattice => true
  | .stream => !(opIn op 0x052 0x053 || opIn op 0x162 0x165)
  | .control =>
    !(opIn op 0x052 0x053 || opIn op 0x06A 0x075 || opIn op 0x080 0x14F || opIn op 0x158 0x16B || op == 0x172 ||
      opIn op 0x180 0x1A7 || op == 0x1A9 || op == 0x1AB)

/-- A privileged instruction (R117): the `mload` variants are permitted under perm.ucode (R316). -/
def isPrivileged (ucode : Bool) (op : Nat) : Bool :=
  opIn op 0x078 0x07F || opIn op 0x1BB 0x1BF || (opIn op 0x19D 0x19F && !ucode)

/-- A control transfer (R100, sub-reason 0x06). -/
def isTransfer (op : Nat) : Bool := opIn op 0x04A 0x054 || opIn op 0x1B8 0x1B9

/-- An instruction before which a lattice sub-group commits (R397); `m` is the word's modifier field, where it decides. -/
def commitsFirst (i : Instr) : Bool :=
  match i with
  | .stRel .. | .qsync .. | .cpGo .. | .cclean .. | .ccleanAll .. | .binit .. | .barr .. | .bdrop .. | .bexp .. | .bwait ..
  | .atomG .. | .atomL .. | .redG .. | .redL .. | .semSig .. | .semBind .. | .fst .. | .fld .. | .ffadd .. | .fred .. | .fsig ..
  | .ffence .. | .ffenceF .. | .launch .. | .mcall .. | .mcallR .. | .mspillL .. | .mspillG .. | .mfillL .. | .mfillG ..
  | .mloadRt .. | .mloadCode .. | .acqRegW .. | .acqRegT .. | .acqSpmW .. | .acqSpmT .. | .acqMslW .. | .acqMslT .. | .relReg ..
  | .relSpm .. | .relMsl .. | .spdrop .. | .rset .. | .rpushW .. | .rpushT .. | .rpopW .. | .rpopT .. | .mclr .. | .mclrAll ..
  | .split .. | .fuse .. | .exit .. | .trap .. | .brk .. | .tesc .. | .tret .. | .tretN .. => true
  | .fence f => decide (2 ≤ mf f.mod 3 2) && mf f.mod 0 3 != 0
  | _ => false

/-- An access instruction (R269). -/
def isAccess (op : Nat) : Bool :=
  (opIn op 0x140 0x17F && !(opIn op 0x179 0x17B || opIn op 0x17E 0x17F)) || opIn op 0x1A0 0x1B7 || op == 0x076

/-! ### The guard and operand reads (R108-R111, R129, R150) -/

/-- The common fields of an instruction word. -/
def commonOf (i : Instr) : Common :=
  match encode i with
  | some w => Common.ofWord w
  | none => ⟨0, 0, 0⟩

/-- `Active` as a mask (R129). -/
def State.active (s : State) (k e : Nat) (c : Common) : W32 :=
  let p := (s.group k).pred c.guard.toNat
  (s.sub k e).lanes &&& (if c.gneg == 1 then ~~~p else p)

/-- Scalar float constants 0x80-0x8F (R109). -/
def floatConst (v : Nat) : W32 :=
  ([0x00000000, 0x3F000000, 0x3F800000, 0x40000000, 0x40800000, 0xBF000000, 0xBF800000, 0xC0000000, 0xC0800000, 0x3E800000,
    0x3FB8AA3B, 0x3F317218, 0x40490FDB, 0x3E22F983, 0x7F800000, 0x7FC00000] : List W32).getD (v - 0x80) 0

/-- The special operands (R110). -/
def State.specialOp (s : State) (k e v : Nat) : W32 :=
  let g := s.group k
  let x := g.sub e
  let b := s.block g.block
  let ctl := kindOf k == .control
  match v with
  | 0xA0 => BitVec.ofNat 32 x.tick
  | 0xA1 => BitVec.ofNat 32 (x.tick / 2 ^ 32)
  | 0xA2 => BitVec.ofNat 32 s.time
  | 0xA3 => BitVec.ofNat 32 (s.time / 2 ^ 32)
  | 0xA4 => BitVec.ofNat 32 (if ctl then k % 32 else g.gidx)
  | 0xA5 => if ctl then 0 else BitVec.ofNat 32 b.x
  | 0xA6 => if ctl then 0 else BitVec.ofNat 32 b.y
  | 0xA7 => if ctl then 0 else BitVec.ofNat 32 b.z
  | 0xA8 => BitVec.ofNat 32 (unitOfGroup k)
  | 0xA9 => BitVec.ofNat 32 (s.ctxOf k)
  | 0xAA => if ctl then 0xFFFFFFFF else BitVec.ofNat 32 b.rv.num
  | 0xAB => x.lanes
  | 0xAC => g.lpBase
  | _ => 0

/-- Literal `j` of the current clause (R96, R108). -/
def Sub.lit (x : Sub) (j : Nat) : W64 :=
  match x.clause with
  | some c => c.lits.getD j 0
  | none => 0

/-- A 32-bit scalar-class operand (R108-R111). -/
def State.opS (s : State) (k e : Nat) (f : BitVec 8) : W32 :=
  let v := f.toNat
  let x := s.sub k e
  if v < 0x40 then x.sreg v
  else if v < 0x60 then BitVec.ofNat 32 (v - 0x40)
  else if v < 0x80 then BitVec.ofInt 32 ((v : Int) - 0x80)
  else if v < 0x90 then floatConst v
  else if v < 0x93 then (x.lit (v - 0x90)).setWidth 32
  else s.specialOp k e v

/-- A 64-bit scalar-class operand: a pair, a constant, a literal (R111). -/
def State.opS64 (s : State) (k e : Nat) (f : BitVec 8) : W64 :=
  let v := f.toNat
  let x := s.sub k e
  if v = 0 then 0
  else if v < 0x40 then x.sreg (v + 1) ++ x.sreg v
  else if v < 0x60 then BitVec.ofNat 64 (v - 0x40)
  else if v < 0x80 then BitVec.ofInt 64 ((v : Int) - 0x80)
  else if v < 0x90 then (floatConst v).setWidth 64
  else if v < 0x93 then x.lit (v - 0x90)
  else (s.specialOp k e v).setWidth 64

/-- A scalar operand of 32 or 64 bits, as a number. -/
def State.opN (s : State) (k e : Nat) (f : BitVec 8) (w64 : Bool) : Nat :=
  if w64 then (s.opS64 k e f).toNat else (s.opS k e f).toNat

/-- The four registers of a quad, as 128 bits (R208). -/
def State.opQuad (s : State) (k e : Nat) (f : BitVec 8) : Nat :=
  let x := s.sub k e
  (List.range 4).foldl (fun n j => n + (x.sreg (f.toNat + j)).toNat * 2 ^ (32 * j)) 0

/-- A lane of a vector operand of `n` registers, as a number. -/
def State.laneN (s : State) (k r n l : Nat) : Nat :=
  let g := s.group k
  (List.range n).foldl (fun a j => a + (g.vreg (r + j) l).toNat * 2 ^ (32 * j)) 0

/-- The lane of a vector or scalar operand (R217). -/
def State.opLane (s : State) (k e : Nat) (f : BitVec 8) (n : Nat) (scalar : Bool) (l : Nat) : Nat :=
  if scalar then s.opN k e f (n == 2) else s.laneN k f.toNat n l

/-- The writes of an `n`-register scalar result. -/
def wrS (r n x : Nat) : List Wr :=
  if r = 0 ∧ n ≤ 2 then []   -- s0, and the pair 0x00, discard what is written (R108, R111); of a quad 0x00, s0 alone does as it lands
  else (List.range n).map (fun j => .s (r + j) (BitVec.ofNat 32 (x / 2 ^ (32 * j))) false)
/-- The writes of an `n`-register vector result in the lanes of a mask. -/
def wrV (r n : Nat) (mask : W32) (f : Nat → Nat) (pz : W32 := 0) : List Wr :=
  if mask = 0 then []
  else
    let xs := (List.range 32).map (fun l => if lane mask l then f l else 0)
    (List.range n).map (fun j => .v (r + j) mask (xs.map (fun x => BitVec.ofNat 32 (x / 2 ^ (32 * j)))) pz)

/-! ### Decode checks (R121) -/

/-- The operand value is legal in its class (check 6). -/
def Opnd.legal (o : Opnd) : Bool :=
  match o.cls with
  | .s => if o.dst || o.regOnly then decide (o.v < 0x40) else decide (o.v < 0x93) || opIn o.v 0xA0 0xAC
  | .p => decide (o.v < 0x80)
  | .h => decide (o.v < 0x20)
  | .v => true
/-- A register is named. -/
def Opnd.isReg (o : Opnd) : Bool := o.cls != .s || decide (o.v < 0x40)
/-- A pair names an even register, a quad a multiple of 4 (check 7). -/
def Opnd.aligned (o : Opnd) : Bool := !o.isReg || o.v % (if o.n = 4 then 4 else if o.n = 2 then 2 else 1) == 0

/-- The first failing check of 4-8 of R121. -/
def Shape.fail (sh : Shape) : Option Nat :=
  if !sh.zero then some 3
  else if !sh.modOk then some 4
  else if !(sh.ops.all Opnd.legal && sh.legal) then some 5
  else if !sh.ops.all Opnd.aligned then some 6
  else if !sh.sbOk then some 7
  else none

/-- The lowest valid entry of the substitution table that matches a word (R455). -/
def State.substMatch (s : State) (w : Nat) : Option (Nat × Nat) :=
  (s.hub.subst.find? (fun e => e.2.2.2.2 && e.2.2.1 % 512 == 511 && (w &&& e.2.2.1) == e.2.1)).map (fun e => (e.1, e.2.2.2.1))

/-- The trap of an undecodable or undefined word: software trap where a substitution entry matches (R455).
(DEDUCED, notes/assumptions 23; unsafe.) -/
def State.illegalTrap (s : State) (w : Nat) (reason : Nat) : TrapInfo :=
  match s.substMatch w with
  | some (j, seq) => { cause := 0x0E, info := (0x80 + j) * 2 ^ 24, addr := w, addr2 := seq }
  | none => { cause := 0x01, info := reason * 2 ^ 24 + w % 512 }

/-- The trap of the first failing check 2-8 of R121.
(DEDUCED, notes/assumptions 22; unsafe.) -/
def State.decodeTrap (s : State) (ck : CoreKind) (ucode : Bool) (i : Instr) : Option TrapInfo :=
  let op := opcodeOf i
  if !inProfile ck op then some { cause := 0x01, info := 2 * 2 ^ 24 + op }
  else if ck != .control && isPrivileged ucode op then some { cause := 0x0F, info := op }
  else match (shape ck i).fail with
    | none => none
    | some 4 => some (s.illegalTrap ((encode i).getD 0).toNat 4)
    | some r => some { cause := 0x01, info := r * 2 ^ 24 + op }

/-! ### Operand checks (R151) and last use (R149) -/

/-- The bits of a stream of lanes that `vunpack` reads: the byte lanes of element `el` of width `w` (R233, R234). -/
def packLanes (k : PackKind) (el : Nat) : List Nat :=
  match k with
  | .e2m1 => [el / 2 / 4]
  | .b8 => [el / 4]
  | .b16 => [2 * el / 4]
  | .e3m2 =>
    let g := 3 * (el / 4)
    let lo := g + (6 * (el % 4)) / 8
    let hi := g + (6 * (el % 4) + 5) / 8
    if lo / 4 = hi / 4 then [lo / 4] else [lo / 4, hi / 4]

/-- The source lane of a lane-movement instruction (R238). -/
def moveLane (i : Instr) (kk l : Nat) : Nat :=
  match i with
  | .vxshf .. => l ^^^ kk
  | .vrot .. => (l + kk) % 32
  | _ => kk

/-- Pairs (active lane, lane read for it) of the vector source at a bit position (R220). -/
def State.laneReads (s : State) (k e : Nat) (i : Instr) (pos : Nat) (act : W32) : List (Nat × Nat) :=
  let own := (lanesOf act).map (fun l => (l, l))
  match i with
  | .vperm _ f | .vxshf _ f | .vrot _ f | .vbcl _ f =>
    if pos = 28 then (lanesOf act).map (fun l => (l, moveLane i (s.opLane k e f.src1 1 (f.mod.getLsbD 0) l % 32) l)) else own
  | .vunpack kd f => (lanesOf act).flatMap (fun l => (packLanes kd (32 * mf f.mod 1 3 + l)).map (fun j => (l, j)))
  | .vpack _ _ => if pos = 37 then (lanesOf (s.sub k e).lanes).map (fun l => (l, l)) else own
  | .vexpand .. => (lanesOf act).zip (lanesOf (s.sub k e).lanes)
  | .vmovsGet .. => own.take 1
  | _ => own

/-- Registers an operand names: the scalar pair 0x00 is no register (R111). -/
def Opnd.regs (o : Opnd) : List Nat :=
  if o.cls = .s ∧ o.n = 2 ∧ o.v = 0 then [] else (List.range o.n).map (fun j => o.v + j)
/-- The guard predicate is read: not by a hint without a move (R118). -/
def readsGuard (i : Instr) : Bool :=
  match i with
  | .hintPf f | .hintBank f => f.mod.getLsbD 0
  | .hintX _ f => f.mod.getLsbD 0
  | _ => true

/-- A source register is dead (R149): s0, p0 and h0 never are. -/
def State.isDead (s : State) (k e : Nat) (c : Cls) (r : Nat) : Bool :=
  let g := s.group k
  let x := g.sub e
  match c with
  | .s => r != 0 && x.sDead.getLsbD r
  | .v => g.vDead.getLsbD r
  | .p => r != 0 && g.pDead.getLsbD r
  | .h => r != 0 && x.hDead.getLsbD r

/-- The trap of the operand checks R151, if one fails; `act` are the active lanes.
(DEDUCED, notes/assumptions 79; unsafe.) -/
def State.operandTrap (s : State) (k e : Nat) (i : Instr) (sh : Shape) (act : W32) : Option TrapInfo :=
  let g := s.group k
  let x := g.sub e
  let ck := kindOf k
  let inf (r pos : Nat) : Nat := r % 256 + pos % 64 * 256
  let unowned := sh.ops.findSome? (fun o =>
    if o.cls = .v then (o.regs.find? (fun r => !g.owns ck r)).map (fun r => ({ cause := 0x04, info := inf r o.pos } : TrapInfo))
    else none)
  let guard := (commonOf i).guard.toNat
  let dead := if readsGuard i && s.isDead k e .p guard then some ({ cause := 0x03, info := inf guard 12 } : TrapInfo)
    else sh.ops.findSome? (fun o =>
      if o.src && o.isReg then (o.regs.find? (fun r => s.isDead k e o.cls r)).map (fun r => ({ cause := 0x03, info := inf r o.pos } : TrapInfo))
      else none)
  let poison := sh.ops.findSome? (fun o =>
    if !(o.src && o.isReg) then none
    else match o.cls with
      | .s => if act = 0 then none else (o.regs.find? (fun r => r != 0 && x.sPz.getLsbD r)).map (fun r => ({ cause := 0x05, info := inf r o.pos } : TrapInfo))
      | .h => if act = 0 then none else (o.regs.find? (fun r => r != 0 && x.hPz.getLsbD r)).map (fun r => ({ cause := 0x05, info := inf r o.pos } : TrapInfo))
      | .p => none
      | .v =>
        let reads := s.laneReads k e i o.pos act
        (o.regs.find? (fun r => reads.any (fun q => lane (tget 0 g.vPz r) q.2))).map (fun r =>
          let bad := reads.filter (fun q => o.regs.any (fun r => lane (tget 0 g.vPz r) q.2))
          ({ cause := 0x05, fmask := maskOf (fun l => bad.any (fun q => q.1 == l)), info := inf r o.pos } : TrapInfo)))
  unowned.orElse fun _ => dead.orElse fun _ => poison

/-- More than one entry of the split table is in use (R136). -/
def Group.isSplit (g : Group) : Bool := decide (1 < (g.subs.filter (fun p => p.2.st != 0)).length)

/-- The register keys that an instruction's last-use bits make dead (R149). -/
def Shape.lastUses (sh : Shape) (split : Bool) : List Nat :=
  sh.ops.flatMap (fun o =>
    if !(o.src && o.lu && o.isReg) then []
    else match o.cls with
      | .s => o.regs.filter (· != 0)
      | .v => if split then [] else o.regs.map (· + 256)
      | .p => if split || o.v = 0 then [] else o.regs.map (· + 512)
      | .h => if o.v = 0 then [] else o.regs.map (· + 1024))

end Sys2Proof.Machine
end

