-- ==== Sys2Proof/Machine/Issue.lean ====
section
/-! DEFINITION. How an instruction word issues (05): the clause header's waits, the checks, implicit commits, access
order, slot waits, bank wakes, then the effect, last use, the window, the tick and the next word. -/

namespace Sys2Proof.Machine

/-! ### Waits (R402, R403) -/

/-- A sub-group's wait is found unmet: its timer runs from the first time (R402), against the limit that its results due by now leave (R139,
R199).
(DEDUCED, notes/assumptions 54; unsafe.) -/
def State.waitFor (s : State) (k e kind item addr2 : Nat) : State :=
  let x := s.sub k e
  let w : WaitRec := match x.wait with
    | some w => { w with kind := kind, item := item, addr2 := addr2 }
    | none => { kind := kind, item := item, addr2 := addr2, since := s.time - x.elapsed, limit := ((s.landDue k e x.tick []).group k).umpLim }
  { s.setSub k e { x with wait := some w } with lastPoll := some (k, e) }.postOnce .umpireExpire { a := k, b := e }

/-- Either the instruction cannot issue in this step, or it goes on. -/
inductive Gate where
  | blocked (s : State)
  | met (s : State)
  deriving DecidableEq, Repr

/-- The wait on a slot: an acquisition or another long-latency operation (R403). -/
def State.slotWait (s : State) (k e j : Nat) : State :=
  let y := (s.sub k e).slot j
  match y.request with
  | some q => s.waitFor k e 3 j q
  | none => s.waitFor k e 2 j y.opcode

/-- The results of complete slots land at the issue tick, with the window's due results (R139, R144); the slots become free. The
mark keeps a result that a rollback makes complete again (R398). -/
def State.landSlots (s : State) (k e : Nat) (js : List Nat) : State :=
  let x := s.sub k e
  let done := js.filter (fun j => (x.slot j).st == .complete)
  let s := s.landDue k e x.tick (done.map (fun j => ((x.slot j).seq, (x.slot j).wrs)))
  let x := s.sub k e
  let mark := x.mark.map (fun m => { m with slots := done.foldl (fun t j =>
    if (tget {} t j).seq == (x.slot j).seq && (tget {} t j).st != .free then tput t j (x.slot j) else t) m.slots })
  s.setSub k e { x with slots := done.foldl (fun t j => tput t j {}) x.slots, mark := mark }

/-- The trap a slot's failed operation makes at the wait on it (R378, R401, R410): the first slot of the list that has one. -/
def Sub.slotTrap (x : Sub) (js : List Nat) : Option (Nat × TrapInfo) :=
  js.findSome? (fun j =>
    match (x.slot j).fail with
    | some t => if (x.slot j).st == .complete then some (j, t) else none
    | none => (x.portTraps.find? (fun p => p.1 == some j)).map (fun p => (j, p.2.1)))

/-- That trap: the slot is freed with nothing landed, and a failure kept for the clause boundary is delivered here. -/
def State.takeSlotTrap (s : State) (k e j : Nat) (t : TrapInfo) : State :=
  let x := s.sub k e
  let s := s.setSub k e { x with
    slots := if (x.slot j).fail.isSome then tput x.slots j {} else x.slots
    portTraps := x.portTraps.filter (fun p => !(p.1 == some j && p.2.1 == t)) }
  s.takeTrap k e { t with stop := 0 }

/-! ### Token channels (R159, R160) -/

/-- Channels of a queue group by header token bit: waited on (`wu`, `wd`), signalled (`sd`, `su`). -/
def waitChannels (gidx h : Nat) : List Nat :=
  (if bitAt h 24 then (if gidx = 1 then [0] else if gidx = 2 then [1] else []) else []) ++
  (if bitAt h 26 then (if gidx = 0 then [2] else if gidx = 1 then [3] else []) else [])
def signalChannels (gidx h : Nat) : List Nat :=
  (if bitAt h 25 then (if gidx = 0 then [0] else if gidx = 1 then [1] else []) else []) ++
  (if bitAt h 27 then (if gidx = 1 then [2] else if gidx = 2 then [3] else []) else [])
/-- The queue groups that signal and wait on a channel. -/
def signaller (c : Nat) : Nat := if c = 0 then 0 else if c = 3 then 2 else 1
def waiter (c : Nat) : Nat := if c = 1 then 2 else if c = 2 then 0 else 1
/-- A token bit that names no channel for its queue group (R159). -/
def badToken (gidx h : Nat) : Bool :=
  (gidx == 0 && (bitAt h 24 || bitAt h 27)) || (gidx == 2 && (bitAt h 25 || bitAt h 26))

/-- A queue group of a block has exited. -/
def State.queueExited (s : State) (b gidx : Nat) : Bool :=
  match (s.block b).groups.find? (fun k => (s.group k).gidx == gidx) with
  | some k => (s.group k).exited
  | none => true

/-- The token waits of a clause (R160): a channel whose signaller has exited traps, an empty one holds the group.
(DEDUCED, notes/assumptions 65; unsafe.) -/
def State.takeTokens (s : State) (k e h : Nat) : Gate :=
  let g := s.group k
  let x := g.sub e
  let b := s.block g.block
  let cs := waitChannels g.gidx h
  if x.tokTaken || cs.isEmpty then .met s
  else
    match cs.find? (fun c => tget 0 b.tokens c == 0) with
    | some c =>
      if s.queueExited g.block (signaller c) then .blocked (s.takeTrap k e { cause := 0x1A, stop := 1, addr := c })
      else .blocked (s.waitFor k e 4 c 0)
    | none =>
      let s := s.setBlock g.block { b with tokens := cs.foldl (fun t c => tput t c (tget 0 t c - 1)) b.tokens }
      .met (s.setSub k e { s.sub k e with tokTaken := true })

/-- The loads and stores of a pending token signal have been performed (R160). -/
def State.signalReady (s : State) (ids : List Nat) : Bool := s.accesses.all (fun a => !ids.contains a.id)

/-- A pending signal that a full channel holds up, or that no waiting group is left for (R160). -/
def State.signalHeld (s : State) (k : Nat) : Option (Nat × Bool) :=
  let g := s.group k
  let b := s.block g.block
  match g.sigs with
  | (m, ids) :: _ =>
    if !s.signalReady ids then none
    else ((List.range 4).find? (fun c => bitAt m c && (s.queueExited g.block (waiter c) || tget 0 b.tokens c == 15))).map
      (fun c => (c, s.queueExited g.block (waiter c)))
  | [] => none

/-! ### Commits before issue (R395-R397) -/

/-- The region of a sub-group is empty and marked at its next word. -/
def State.regionClean (s : State) (k e : Nat) : Bool :=
  let g := s.group k
  let x := g.sub e
  s.accesses.all (fun a => a.group != k || a.entry != e || (a.accepted && a.release != 0)) &&
    !g.shadow.any (fun h => h.entry == e) && !g.shadowUsed.any (fun h => h.1 == e) &&
    (match x.mark with
     | some m => m.clause == x.clauseStart && m.pc == x.here
     | none => false)

/-- A commit of one sub-group before it issues: it waits until the region's accesses are accepted (R396). -/
def State.commitGate (s : State) (k e op : Nat) : Gate :=
  if kindOf k != .lattice || s.regionClean k e then .met s
  else if s.regionAccepted k e then
    let x := s.sub k e
    .met (s.commitSub k e x.clauseStart x.here x.atHeader)
  else .blocked (s.waitFor k e 8 op 0)

/-- A commit of every sub-group of the group (R395). -/
def State.commitAll (s : State) (k e op : Nat) : Gate :=
  let es := (s.group k).openSubs
  if es.all (fun i => s.regionAccepted k i) then
    .met (es.foldl (fun s i => s.commitSub k i (s.sub k i).clauseStart (s.sub k i).here (s.sub k i).atHeader) s)
  else .blocked (s.waitFor k e 8 op 0)

/-- Register keys an instruction writes (R395): its destinations, and the special and m registers it names. -/
def writeKeys (i : Instr) (sh : Shape) : List Nat :=
  let dst := (sh.ops.filter (·.dst)).flatMap (fun o => match o.cls with
    | .s => (o.regs.filter (· != 0)) | .v => o.regs.map (· + 256) | .p => o.regs.map (· + 512) | .h => o.regs.map (· + 1024))
  match i with
  | .sset _ f => (1536 + f.imm.toNat % 256) :: dst
  | .mset w f => (1280 + f.xd.toNat) :: (if w then dst else dst)
  | .msetI f => (1280 + f.dst.toNat) :: dst
  | .bl _ => 62 :: 63 :: dst
  | .vfadd _ f | .vfsub _ f | .vfmul _ f | .vfma _ f | .vfdot2 _ f | .vrcp _ f | .vrsqrt _ f | .vsqrt _ f | .vmxq _ f =>
    if mf f.mod 2 3 = 4 then (1536 + 0x0B) :: dst else dst
  | .vcvt _ _ f => if mf f.mod 5 3 = 4 then (1536 + 0x0B) :: dst else dst
  | _ => dst

/-- A store instruction of R268, or `hst` (R274). -/
def isGated (i : Instr) : Bool :=
  match i with
  | .stG .. | .stwG .. | .stGs .. | .stL .. | .stC .. | .stP .. | .hst .. => true
  | _ => false

/-- Shadow entries that the instruction's registers still need. -/
def Group.newShadow (g : Group) (e : Nat) (keys : List Nat) : List (Nat × Nat) :=
  (keys.map (fun n => (e, n))).filter (fun p => !g.shadowUsed.contains p)

/-- The gate or the shadow would be full (R395). -/
def State.regionFull (s : State) (k e : Nat) (i : Instr) (sh : Shape) (act : W32) : Bool :=
  kindOf k == .lattice &&
    ((isGated i && act != 0 && decide (16 ≤ s.gateUsed k)) ||
     decide (32 < (s.group k).shadowUsed.length + ((s.group k).newShadow e (writeKeys i sh)).length))

/-! ### Access order (R271, R272, R330, R378) -/

/-- The holds of a group that are over, and the L1 lines of the context that their acquires drop (R249). -/
def State.freeHolds (s : State) (k : Nat) : State :=
  let g := s.group k
  let ended := g.holds.filter (fun h => s.accesses.all (fun a => !h.ids.contains a.id))
  let s := s.setGroup k { g with holds := g.holds.filter (fun h => !s.accesses.all (fun a => !h.ids.contains a.id)) }
  if ended.any (·.dropL1) && kindOf k == .lattice then
    let u := unitOfGroup k
    { s with lines := tput s.lines u ((tget [] s.lines u).filter (fun l => l.ctx != s.ctxOf k)) }
  else s

/-! ### Register banks (R141, R152) -/

/-- A wait that has been met is not measured while something else holds its instruction (R402). -/
def State.pauseWait (s : State) (k e : Nat) : State :=
  let x := s.sub k e
  match x.wait with
  | some w => (s.setSub k e { x with wait := none, elapsed := s.time - w.since }).wakeOwned k
  | none => s
/-- The sub-group waits, unmeasured, until some banks are on. -/
def State.needBanks (s : State) (k e : Nat) (bs : List Nat) : Gate :=
  match s.asleep k bs with
  | [] => .met s
  | js => .blocked ((js.foldl (fun s j => s.wakeReg (unitOfGroup k) j) s).pauseWait k e)

/-- A window entry holds the value of register `r` in some lanes (R141). -/
def WinEntry.serves (w : WinEntry) (r : Nat) (ls : W32) : Bool :=
  w.landed && !w.overwritten && w.wrs.any (fun y => match y with
    | .v r' m _ _ => r' == r && ls &&& ~~~m == 0
    | _ => false)
/-- The banks that the reads of an instruction reach, and those that its entry pushes a window entry out to. -/
def State.banksFor (s : State) (k e : Nat) (i : Instr) (sh : Shape) (act : W32) : List Nat :=
  let g := s.group k
  let x := g.sub e
  let reads := (sh.ops.filter (fun o => o.cls == .v && o.src)).flatMap (fun o =>
    let ls := (s.laneReads k e i o.pos act).map (·.2)
    o.regs.filter (fun r => !ls.isEmpty && !x.win.any (fun w => w.serves r (maskOf ls.contains))))
  reads.filterMap g.bankOf ++ (if 8 ≤ x.win.length then g.writeBack (x.win.take 1) else [])
/-- The banks that the results of complete slots land in. -/
def State.landBanks (s : State) (k e : Nat) (js : List Nat) : List Nat :=
  let x := s.sub k e
  (s.group k).banksOf ((js.filter (fun j => (x.slot j).st == .complete)).flatMap (fun j => (x.slot j).wrs.map Wr.key))

/-- A wait on slots (R144): a failed operation traps; a busy slot holds the instruction; the banks that the results land in wake; the results
land. -/
def State.awaitSlots (s : State) (k e : Nat) (js : List Nat) : Gate :=
  let x := s.sub k e
  match js.find? (fun j => (x.slot j).st == .busy) with
  | some j => .blocked (s.slotWait k e j)
  | none =>
    match x.slotTrap js with
    | some (j, t) => .blocked (s.takeSlotTrap k e j t)
    | none =>
      match s.needBanks k e (s.landBanks k e js) with
      | .blocked s => .blocked s
      | .met s => .met (s.landSlots k e js)

/-- Every register of a register bank is dead or unowned, and no window entry holds a result for it (R152). -/
def State.bankIdle (s : State) (u j : Nat) : Bool :=
  s.groups.all (fun p =>
    let g := p.2
    unitOfGroup p.1 != u || !g.present || g.own.all (fun o => reach o.2 / 4 != j ||
      ((List.range 16).all (fun i => g.vDead.getLsbD (16 * o.1 + i)) &&
        g.subs.all (fun q => q.2.win.all (fun w => w.wrs.all (fun r => decide (r.key < 256) || decide (512 ≤ r.key) ||
          (r.key - 256) / 16 != o.1))))))
/-- Some register of a bank is live (R153). -/
def State.bankLive (s : State) (u j : Nat) : Bool :=
  s.groups.any (fun p => unitOfGroup p.1 == u && p.2.present && p.2.own.any (fun o => reach o.2 / 4 == j &&
    (List.range 16).any (fun i => !p.2.vDead.getLsbD (16 * o.1 + i))))
/-- Policies of the owners of a bank (R48, R153). -/
def State.bankPolicies (s : State) (u j : Nat) : List Nat :=
  (s.groups.filter (fun p => unitOfGroup p.1 == u && p.2.present && p.2.own.any (fun o => reach o.2 / 4 == j))).map
    (fun p => (s.block p.2.block).rv.bpol)
/-- Banks that may go off do so (R152). -/
def State.settleBanks (s : State) (u : Nat) (js : List Nat) : State :=
  js.foldl (fun s j =>
    let c := s.core u
    let st := tget .off c.regBank j
    if (st == .on || st == .retention) && s.bankIdle u j && !(s.bankPolicies u j).contains 2 then
      s.setCore u { c with regBank := tput c.regBank j .off }
    else s) s

/-- A drain (R142), once the banks that it writes back to are on; a bank that no window entry needs any more may go off. -/
def State.drainGate (s : State) (k e : Nat) : Gate :=
  match s.needBanks k e (s.drainBanks k e) with
  | .blocked s => .blocked s
  | .met s =>
    let js := (s.group k).banksOf ((s.sub k e).win.flatMap (fun w => w.wrs.map Wr.key))
    let s := s.drain k e
    .met (if kindOf k = .lattice then s.settleBanks (unitOfGroup k) js else s)

/-! ### The clause header's waits (R97, R142, R144, R160, R394) -/

/-- Slots of a wait mask. -/
def maskSlots (m : Nat) : List Nat := (List.range 6).filter (bitAt m)

/-- The header's waits, before the first instruction: the mark (with the commit that opens its region), the drain, the wait
mask, the tokens.
(DEDUCED, notes/assumptions 21; unsafe.) -/
def State.headerGate (s : State) (k e : Nat) : Gate :=
  let x := s.sub k e
  match x.clause with
  | none => .blocked s
  | some c =>
    if x.headerMet then .met s
    else
      let h := c.header.toNat
      let finish (s : State) : State := s.setSub k e { s.sub k e with headerMet := true, tokensOnly := false }
      if x.tokensOnly then
        match s.takeTokens k e h with
        | .blocked s => .blocked s
        | .met s => .met (finish s)
      else
        let op := (c.words.headD 0).toNat % 512
        match (if bitAt h 28 then s.commitGate k e op else .met s) with
        | .blocked s => .blocked s
        | .met s =>
          let s := if bitAt h 28 then s.takeMark k e c.start c.start true else s
          match (if bitAt h 23 then s.drainGate k e else .met s) with
          | .blocked s => .blocked s
          | .met s =>
            let js := maskSlots (field h 17 6)
            let x := s.sub k e
            match js.find? (fun j => (x.slot j).st == .busy) with
            | some j => .blocked (s.slotWait k e j)
            | none =>
              match x.slotTrap js with
              | some (j, t) => .blocked (s.takeSlotTrap k e j t)
              | none =>
                match s.needBanks k e (s.landBanks k e js) with
                | .blocked s => .blocked s
                | .met s =>
                  match s.takeTokens k e h with
                  | .blocked s => .blocked s
                  | .met s => .met (finish (s.landSlots k e js))

/-! ### After the effect -/

/-- The offset of the clause after a clause (R96). -/
def Clause.next (c : Clause) : Nat := c.start + 8 * (1 + c.words.length + c.lits.length)
def Sub.nextClause (x : Sub) : Nat :=
  match x.clause with
  | some c => c.next
  | none => x.pc

/-- The end of a clause, and where execution goes on: the token signals (R160) and the yield bit (R147). -/
def State.leaveClause (s : State) (k e pc : Nat) : State :=
  let g := s.group k
  let x := g.sub e
  let h := match x.clause with
    | some c => c.header.toNat
    | none => 0
  let chans := if kindOf k = .stream then signalChannels g.gidx h else []
  let ids := (s.accesses.filter (fun a => a.group == k && decide (x.clauseSeq ≤ a.id))).map (·.id)
  let g := g.setSub e { x with
    clause := none, pc := pc, idx := 0, headerMet := false, tokensOnly := false, tokTaken := false, resumeAt := none,
    resumeSkip := false, yielded := x.yielded || bitAt h 29 }
  if chans.isEmpty then s.setGroup k g
  else (s.setGroup k { g with sigs := g.sigs ++ [(chans.foldl (fun m c => m + 2 ^ c) 0, ids)] }).post .tokenSignal { a := k }

/-- The next word: the clause's next instruction, or the next clause. -/
def State.advance (s : State) (k e : Nat) : State :=
  let x := s.sub k e
  match x.clause with
  | none => s
  | some c => if x.idx + 1 < c.words.length then s.setSub k e { x with idx := x.idx + 1 } else s.leaveClause k e c.next

/-- The banks of an issued instruction (R152): the retained ones of its group wake where a wait has ended; those of its last uses and of the
entry that left the window may go off. -/
def State.retireBanks (s : State) (k : Nat) (waited : Bool) (keys : List Nat) : State :=
  if kindOf k = .lattice then
    let s := if waited then s.wakeOwned k else s
    s.settleBanks (unitOfGroup k) ((s.group k).banksOf keys)
  else s

/-- An instruction has issued (R138, R141, R149): last use, the window entry with its results, the tick. -/
def State.retire (s : State) (k e : Nat) (idle : Nat) (kills keys : List Nat) (wrs : List Wr) (lat : Nat) : State :=
  let s := kills.foldl (fun s n => s.kill k e n) s
  let (n, s) := s.fresh
  let g := s.group k
  let x := g.sub e
  let win := x.win ++ [{ seq := n, due := x.tick + lat, wrs := wrs }]
  (s.setGroup k { g.setSub e { x with
      win := win.drop (win.length - 8), tick := x.tick + 1 + idle, wait := none, elapsed := 0, lastIssue := n, idle := idle, yielded := false } with
    shadowUsed := if kindOf k = .lattice then g.shadowUsed ++ g.newShadow e keys else g.shadowUsed }).retireBanks k x.wait.isSome
      (kills ++ (win.take (win.length - 8)).flatMap (fun w => w.wrs.map Wr.key))

/-- A long-latency operation completes at once with nothing to land (R264, R308, R324, R435), or with the results given. -/
def State.slotDone (s : State) (k e j op : Nat) (wrs : List Wr) : State :=
  let (n, s) := s.fresh
  s.setSub k e ((s.sub k e).setSlot j { st := .complete, seq := n, opcode := op, wrs := wrs })

/-- A long-latency operation takes its slot and holds the result it completes with; the slot completes later (R143). -/
def State.slotBusy (s : State) (k e j op : Nat) (wrs : List Wr) : State :=
  let (n, s) := s.fresh
  (s.setSub k e ((s.sub k e).setSlot j { st := .busy, seq := n, opcode := op, wrs := wrs })).post .slotComplete
    { b := 8 * k + e, c := j, d := n }

/-! ### Issue -/

/-- What an instruction's effect sees: its group, sub-group, word, active lanes, slot. -/
structure Cx where
  k : Nat
  e : Nat
  i : Instr
  act : W32
  slot : Nat
  deriving DecidableEq, Repr

def Cx.ck (cx : Cx) : CoreKind := kindOf cx.k
def Cx.unit (cx : Cx) : Nat := unitOfGroup cx.k
def Cx.op (cx : Cx) : Nat := opcodeOf cx.i

/-- What an instruction does: results after a latency; a transfer; a control state of its own; a trap; a wait. -/
inductive Eff where
  | ok (s : State) (wrs : List Wr) (lat : Nat)
  | jump (s : State) (wrs : List Wr) (target : Nat) (bad : Bool)
  | gone (s : State)
  | trap (s : State) (t : TrapInfo)
  | wait (s : State) (kind item addr2 : Nat)
  | stall (s : State)
  deriving DecidableEq, Repr

/-- How the guard bears on an instruction with no active lane (R129, R264): no effect; its slot completes at once; the effect
itself judges its lanes. -/
inductive Guarding where
  | any | slot | always
  deriving DecidableEq, Repr

/-- The effect of an instruction that has passed every check, and what follows it. -/
def State.perform (s : State) (cx : Cx) (sh : Shape) (gd : Guarding) (f : Cx → State → Eff) : State :=
  let k := cx.k
  let e := cx.e
  let idle := (commonOf cx.i).idle.toNat
  let kills := sh.lastUses (s.group k).isSplit
  let keys := writeKeys cx.i sh
  if cx.act = 0 && gd != Guarding.always then
    let s := if gd == Guarding.slot && sh.slot.isSome then s.slotDone k e cx.slot cx.op [] else s
    (s.retire k e idle kills [] [] 0).advance k e
  else
    match f cx s with
    | .ok s wrs lat => (s.retire k e idle kills keys wrs lat).advance k e
    | .jump s wrs t bad =>
      let s := (s.retire k e idle kills keys wrs 1).leaveClause k e t
      if bad then s.setSub k e { s.sub k e with badPc := true } else s
    | .gone s => s
    | .trap s t => s.takeTrap k e t
    | .wait s kind item addr2 => s.waitFor k e kind item addr2
    | .stall s => s

/-- What can hold an instruction before its operand checks: a commit, the access order, its slot, its banks. With no lane active at its tick,
an instruction whose slot would complete at once waits on the slot it names like any other; one that then has no effect on its slot
does not wait.
(DESIGN CHOICE, notes/assumptions 82; unsafe.) -/
def State.issueGate (s : State) (k e : Nat) (i : Instr) (sh : Shape) (gd : Guarding) : Gate :=
  let op := opcodeOf i
  let act := (s.landDue k e (s.sub k e).tick []).active k e (commonOf i)
  match (if commitsFirst i then s.commitGate k e op else if s.regionFull k e i sh act then s.commitAll k e op else .met s) with
  | .blocked s => .blocked s
  | .met s =>
    let s := s.freeHolds k
    if isAccess op && !(s.group k).holds.isEmpty then .blocked (s.waitFor k e 8 op 0)
    else
      match (match sh.slot with
        | some j => if act = 0 && gd == Guarding.any then Gate.met (s.landDue k e (s.sub k e).tick []) else s.awaitSlots k e [j]
        | none => .met (s.landDue k e (s.sub k e).tick [])) with
      | .blocked s => .blocked s
      | .met s => s.needBanks k e (s.banksFor k e i sh (s.active k e (commonOf i)))

/-- One sub-group's attempt to issue instruction `i`, whose effect is `f`. -/
def State.issueBy (s : State) (k e : Nat) (i : Instr) (gd : Guarding) (f : Cx → State → Eff) : State :=
  match s.headerGate k e with
  | .blocked s => s
  | .met s =>
    let sh := shape (kindOf k) i
    match s.decodeTrap (kindOf k) ((s.blockOf k).rv.permUcode) i with
    | some t => s.takeTrap k e t
    | none =>
      match s.issueGate k e i sh gd with
      | .blocked s => s
      | .met s =>
        let act := s.active k e (commonOf i)
        match s.operandTrap k e i sh act with
        | some t => s.takeTrap k e t
        | none => s.perform ⟨k, e, i, act, sh.slot.getD 7⟩ sh gd f

/-- An instruction word issues from the sub-group the step moves (R121-R151). -/
def issue (i : Instr) (gd : Guarding) (f : Cx → State → Eff) (s : State) : Host.Outcome State Fault Refusal :=
  match s.cur with
  | .group k e => .next (s.issueBy k e i gd f)
  | _ => .fault .noIssuer

/-- A word that decodes to no instruction (R121 check 1): its traps follow the header's waits. -/
def State.issueUndefined (s : State) (k e : Nat) (w : Nat) : State :=
  match s.headerGate k e with
  | .blocked s => s
  | .met s => s.takeTrap k e (s.illegalTrap w 1)

/-- An event answers the next state that its step gives. -/
def event (f : State → State) (s : State) : Host.Outcome State Fault Refusal := .next (f s)

end Sys2Proof.Machine
end

