-- ==== Sys2Proof/Machine/Access.lean ====
section
/-! DEFINITION. Accesses: handles and the checks R57, R243-R246 at issue, the hub port's tables (R52, R53), caches of the
cores and chiplets (R249, R251), the range scoreboard (R259), and how an access instruction enters its queue. -/

namespace Sys2Proof.Machine

/-! ### Handles (R55, R56) -/

def HandleReg.obj (h : HandleReg) : Nat := field h.bits.toNat 104 24
def HandleReg.gen (h : HandleReg) : Nat := field h.bits.toNat 96 8
def HandleReg.rights (h : HandleReg) : Nat := field h.bits.toNat 88 8
def HandleReg.base (h : HandleReg) : Nat := field h.bits.toNat 48 40
def HandleReg.len (h : HandleReg) : Nat := field h.bits.toNat 8 40
/-- A handle from its fields. -/
def mkHandle (obj gen rights base len : Nat) (valid : Bool) : HandleReg :=
  { bits := BitVec.ofNat 128 (obj % 2 ^ 24 * 2 ^ 104 + gen % 2 ^ 8 * 2 ^ 96 + rights % 2 ^ 8 * 2 ^ 88 + base % 2 ^ 40 * 2 ^ 48 +
      len % 2 ^ 40 * 2 ^ 8), valid := valid }
/-- Rights bits (R56). -/
def rR : Nat := 1
def rW : Nat := 2
def rX : Nat := 4
def rA : Nat := 8
def rC : Nat := 16
def rF : Nat := 32
def rD : Nat := 64
def rS : Nat := 128

/-- Lanes of a list of (lane, offset), as a mask. -/
def laneMask (ls : List (Nat × Int)) : W32 := maskOf (fun l => ls.any (fun p => p.1 == l))
/-- A failing step's trap: the lanes that fail and the offset of the lowest (R264).
(DEDUCED, notes/assumptions 33; unsafe.) -/
def laneTrap (cause info : Nat) (bad : List (Nat × Int)) : TrapInfo :=
  { cause := cause, fmask := laneMask bad, addr := bitsOf 64 ((bad.headD (0, 0)).2), info := info }

/-- R57 steps 1 to 5, over the active lanes' offsets: handle register `hr`, rights needed, bytes, alignment. -/
def State.checkHandle (s : State) (k : Nat) (h : HandleReg) (hr need n align : Nat) (offs : List (Nat × Int)) : Option TrapInfo :=
  let st (i : Nat) : Nat := i * 2 ^ 24 + hr
  if !h.valid || h.bits.toNat % 256 != 0 then some (laneTrap 0x06 (st 1) offs)
  else if h.rights / 128 = 1 || (h.rights &&& need) != need then some (laneTrap 0x08 (st 2) offs)
  else
    let out := offs.filter (fun p => decide (p.2 < 0) || decide ((h.len : Int) < p.2 + n))
    if !out.isEmpty then some (laneTrap 0x07 (st 3) out)
    else
      let mis := offs.filter (fun p => ((h.base : Int) + p.2) % align != 0)
      if !mis.isEmpty then some (laneTrap 0x09 (st 4) mis)
      else
        let rv := (s.blockOf k).rv
        if kindOf k != .control && !(decide (rv.objLo ≤ h.obj) && decide (h.obj ≤ rv.objHi)) then some (laneTrap 0x06 (st 5) offs)
        else none

/-! ### Scratchpad (R243-R246) -/

/-- Bytes of a block's scratchpad. -/
def State.spmSize (s : State) (b : Nat) : Nat := (s.block b).gran.length * granSize (unitOfBlock b)
/-- The physical offset behind a block offset (R244). -/
def State.spmPhys (s : State) (b o : Nat) : Nat :=
  let gs := granSize (unitOfBlock b)
  (s.block b).gran.getD (o / gs) 0 * gs + o % gs
def State.spmAt (s : State) (b o : Nat) : Nat := spmKey (unitOfBlock b) (s.spmPhys b o)
/-- The state of a scratchpad bank: unlisted banks are off. -/
def State.spmBankAt (s : State) (b o : Nat) : Bank :=
  tget .off (s.core (unitOfBlock b)).spmBank (s.spmPhys b o / bankSize (unitOfBlock b))
/-- A byte lies in a dropped bank (R155). -/
def State.dropped (s : State) (b o : Nat) : Bool := s.spmBankAt b o == .off
/-- The range lies in the acquisition (R243 step 2). -/
def State.inSpm (s : State) (b : Nat) (o : Int) (n : Nat) : Bool :=
  let gs := granSize (unitOfBlock b)
  let a := o.toNat
  decide (0 ≤ o) && decide (o + n ≤ s.spmSize b) &&
    (n == 0 || (List.range ((a + n - 1) / gs - a / gs + 1)).all (fun i => decide ((s.block b).gran.getD (a / gs + i) 0 < pending)))
/-- Some byte of a range lies in a dropped bank. -/
def State.anyDropped (s : State) (b o n : Nat) : Bool :=
  let bs := bankSize (unitOfBlock b)
  n != 0 && (List.range ((o + n - 1) / bs - o / bs + 1)).any (fun i => s.dropped b ((o / bs + i) * bs))

/-- R243 over the active lanes, with alignment to `align`. -/
def State.checkSpm (s : State) (b n align : Nat) (read : Bool) (offs : List (Nat × Int)) : Option TrapInfo :=
  let mis := offs.filter (fun (p : Nat × Int) => p.2 % (align : Int) != 0)
  if !mis.isEmpty then some (laneTrap 0x09 0 mis)
  else
    let out := offs.filter (fun p => !s.inSpm b p.2 n)
    if !out.isEmpty then some (laneTrap 0x0A 0 out)
    else
      let dead := offs.filter (fun p => read && s.anyDropped b p.2.toNat n)
      if !dead.isEmpty then some (laneTrap 0x03 0 dead) else none

/-- Banks that an access reaches and that are neither on nor dropped: they start to wake (R154). -/
def State.wakeFor (s : State) (b : Nat) (offs : List Nat) : Option State := s.wakeKeys (offs.map (s.spmAt b))

/-! ### Object tables and extents at the hub port (R52, R53) -/

/-- A table entry or extent read at the port: a cached copy and memory may differ until `objinv` (R52), and either is used.
(DESIGN CHOICE, notes/assumptions 5; safe.) -/
def State.portRead (s : State) (ctx obj key addr : Nat) : Nat × State :=
  let new := s.num addr 16
  match s.portCache.find? (fun c => c.ctx == ctx && c.obj == obj && c.key == key) with
  | none => (new, { s with portCache := ⟨ctx, obj, key, new⟩ :: s.portCache })
  | some c =>
    if c.val = new then (new, s)
    else
      let (old, s) := s.coin
      (if old then c.val else new, s)

/-- Fields of a table entry (R52). -/
def entGen (v : Nat) : Nat := field v 120 8
def entCeil (v : Nat) : Nat := field v 112 8
def entValid (v : Nat) : Bool := bitAt v 111
def entCount (v : Nat) : Nat := field v 86 25
def entBase (v : Nat) : Nat := field v 32 48
/-- Fields of an extent (R53). -/
def extBase (v : Nat) : Nat := field v 64 64
def extChip (v : Nat) : Nat := field v 52 12
def extLoc (v : Nat) : Nat := field v 49 3
def extOrd (v : Nat) : Bool := bitAt v 48
def extRes (v : Nat) : Bool := bitAt v 47
def extHcap (v : Nat) : Bool := bitAt v 46
def extMig (v : Nat) : Bool := bitAt v 45

/-- The rows that a loc 4 extent may name: register windows, semaphore table, boot flash (R23). -/
def inDeviceRow (a n : Nat) : Bool :=
  (decide (2 ^ 41 ≤ a) && decide (a + n ≤ 2 ^ 41 + 2 ^ 40)) || (decide (3 * 2 ^ 40 ≤ a) && decide (a + n ≤ 3 * 2 ^ 40 + 2 ^ 19)) ||
    (decide (2 ^ 42 ≤ a) && decide (a + n ≤ 2 ^ 42 + 2 ^ 24))

/-- The extent obeys R53 and R25. -/
def State.extOk (s : State) (v : Nat) : Bool :=
  let b := extBase v
  let l := extLoc v
  v % 2 ^ 45 == 0 && b % 65536 == 0 && decide (l ≤ 4) && (l == 3 || extChip v == 0) && (!extHcap v || decide (l ≤ 1)) &&
  (match l with
   | 0 => s.inHbm b 65536
   | 1 => inHubSpm b 65536
   | 2 => decide (b < 2 ^ 57)
   | 3 => decide (b < 2 ^ 48)
   | _ => inDeviceRow b 65536 && extOrd v && !extMig v)

/-- The bytes of a register window that are no reserved address (R20, R25): the hub's whole window; `win.log2` of a chiplet. -/
def winSize (kind index : Nat) : Nat :=
  if kind = 0 then 2 ^ 24 else 2 ^ (12 + (Config.fixedByte (16 * kind + index) 12).toNat % 13)
/-- A unit's self-test result leaves it in use (R31). -/
def passes (r : Nat) : Bool := r == 0 || r == 2
/-- A chiplet that enumeration or its adapter's self-test has fenced: it has no window, queue identifiers or class (R20, R21). -/
def State.dieFenced (s : State) (die : Nat) : Bool := die != 0 && !passes (tget (0, 0) s.boot.tests (die * 256 + 0xF0)).1
/-- An address of the device rows that lies in a window the hub has assigned, within its `win.log2` (R20, R21, R25). -/
def State.deviceAddr (s : State) (a : Nat) : Bool :=
  if 2 ^ 41 ≤ a ∧ a < 2 ^ 41 + 2 ^ 40 then
    let d := (a - 2 ^ 41) / 2 ^ 24
    let present := d == 0 || (decide (16 ≤ d) && decide (d < 24)) || (decide (32 ≤ d) && decide (d < 36)) || d == 48 || d == 64 || d == 65
    present && !s.dieFenced d && (d == 0 || decide (a % 2 ^ 24 < winSize (d / 16) (d % 16)))
  else true

/-- What R57 steps 6 to 8 answer for one byte of an object. -/
inductive Walk where
  | fail (step : Nat)
  | ok (ext : Nat)
  deriving DecidableEq, Repr

/-- The entry of an object, and whether step 6 passes. -/
def State.walkEntry (s : State) (ctx obj gen : Nat) : Option Nat × State :=
  let c := s.context ctx
  if c.otCount ≤ obj then (none, s)
  else
    let (v, s) := s.portRead ctx obj 0 (c.otBase + 16 * obj)
    (if entValid v && entGen v == gen && !entReserved v then some v else none, s)

/-- R57 steps 7 and 8 for one extent of an object whose table entry has been read. -/
def State.walkPage (s : State) (ctx obj v page : Nat) (ctl : Bool) : Walk × State :=
  if entCount v ≤ page then (.fail 7, s)
  else
    let (x, s) := s.portRead ctx obj (1 + page) (entBase v + 16 * page)
    if !s.extOk x || (extLoc x == 4 && !ctl) then (.fail 7, s)
    else if !extRes x || extMig x then (.fail 8, s)
    else (.ok x, s)

/-- R57 steps 6 to 8 for object offset `a`; loc 4 only for control cores. -/
def State.walk (s : State) (ctx obj gen a : Nat) (ctl : Bool) : Walk × State :=
  match s.walkEntry ctx obj gen with
  | (none, s) => (.fail 6, s)
  | (some v, s) => s.walkPage ctx obj v (a / 65536) ctl

/-- The place of a byte through an extent. -/
def State.locOf (s : State) (ctx x a : Nat) : Loc :=
  let p := extBase x + a % 65536
  match extLoc x with
  | 2 => .mem (hostKey (s.context ctx).pasid p)
  | 3 => .remote (extChip x) p
  | 4 => .dev p
  | _ => .mem p

/-- Every extent that `n` bytes from object offset `a` touch, checked in the order of R57: the lowest failing step. -/
def State.walkRange (s : State) (ctx obj gen a n : Nat) (ctl : Bool) : Option Nat × State :=
  (List.range ((a + n - 1) / 65536 - a / 65536 + 1)).foldl (fun r i =>
    let (w, s) := r.2.walk ctx obj gen ((a / 65536 + i) * 65536) ctl
    (match w, r.1 with
     | .ok _, o => o
     | .fail st, none => some st
     | .fail st, some st' => some (min st st'), s)) (none, s)

/-- The bytes of an object range whose walk has passed. -/
def State.objBytes (s : State) (ctx obj gen a n : Nat) : List Byte :=
  (List.range n).map (fun i =>
    match (s.walk ctx obj gen (a + i) true).1 with
    | .ok x =>
      match s.locOf ctx x (a + i) with
      | .mem key => s.byte key
      | _ => 0
    | .fail _ => 0)

/-! ### Read caches (R249, R251) -/

/-- The key of the read cache that a core's loads may hit: its L1, or its stream chiplet's read cache. -/
def cacheKey (u : Nat) : Nat := if kindOfUnit u = .stream then 65536 + u / 256 % 16 else u
/-- The line of an object offset that core `u` hits. -/
def State.findLine (s : State) (u ctx obj gen a : Nat) : Option Line :=
  (tget [] s.lines (cacheKey u)).find? (fun l => l.ctx == ctx && l.obj == obj && l.gen == gen && l.off == a / 128 * 128 && !l.not.contains u)
/-- The chiplet's read cache is fenced (R31). -/
def State.cacheFenced (s : State) (u : Nat) : Bool := !passes (tget (0, 0) s.boot.tests (u / 256 * 256 + 0x10)).1
/-- Lines dropped. -/
def State.dropLines (s : State) (key : Nat) (p : Line → Bool) : State :=
  { s with lines := tput s.lines key ((tget [] s.lines key).filter (fun l => !p l)) }
/-- Lines dropped in every cache (R213, R212). -/
def State.dropEverywhere (s : State) (p : Line → Bool) : State :=
  { s with lines := s.lines.map (fun e => (e.1, e.2.filter (fun l => !p l))) }
/-- Lines of the stream chiplets' read caches dropped (R66). -/
def State.dropStream (s : State) (p : Line → Bool) : State :=
  { s with lines := s.lines.map (fun e => if 65536 ≤ e.1 then (e.1, e.2.filter (fun l => !p l)) else e) }

/-- A line is filled for core `u` with the bytes that its object holds now; a full cache replaces a line of a free choice (R249). The cores
of the chiplet that hit a line of the same bytes go on hitting that one (R355).
(DESIGN CHOICE, notes/assumptions 17; safe.) -/
def State.fillLine (s : State) (u ctx obj gen a : Nat) (ext : Nat) : State :=
  let off := a / 128 * 128
  let key := cacheKey u
  match s.locOf ctx ext off with
  | .mem m =>
    let bs := (List.range 128).map (fun i => [(s.byte (m + i), s.poisoned (m + i) 1)])
    let others := if 65536 ≤ key then ((List.range 4).map (fun i => u / 256 * 256 + i)).filter (fun v => v != u && (s.findLine v ctx obj gen a).isSome)
      else []
    let ls := tget [] s.lines key
    let cap := if 65536 ≤ key then 131072 else 512
    let (v, s) := if cap ≤ ls.length then s.choose ls.length else (ls.length, s)
    { s with lines := tput s.lines key (⟨ctx, obj, gen, off, m, bs, others⟩ :: ls.eraseIdx v) }
  | _ => s

/-- A core may fill its cache from an extent: loc 0, 1 (or 2 in an L1), ord 0 (R251, R266). -/
def fillable (u ext : Nat) : Bool :=
  !extOrd ext && decide (extLoc ext ≤ (if kindOfUnit u = .stream then 1 else 2))

/-- A prefetch of the line of a handle offset that passes every check (R119, R277); `l1` asks for the L1 too. -/
def State.prefetch (s : State) (k : Nat) (h : HandleReg) (o : Nat) (l1 : Bool) : State :=
  let ctx := s.ctxOf k
  let a := h.base + o
  match s.walk ctx h.obj h.gen a (kindOf k == .control) with
  | (.ok x, s) =>
    if extOrd x || extLoc x == 3 || extLoc x == 4 then s
    else
      let s := match s.locOf ctx x a with
        | .mem m => if extLoc x = 2 then { s with llcHost := sinsert s.llcHost (m / 128) } else s
        | _ => s
      if l1 && kindOf k == .lattice && (s.findLine (unitOfGroup k) ctx h.obj h.gen a).isNone then
        s.fillLine (unitOfGroup k) ctx h.obj h.gen a x
      else s
  | (.fail _, s) => s

/-! ### The range scoreboard (R259) -/

/-- A range of the block's scratchpad, or of an object, in which two accesses may meet. -/
abbrev Place := Option Nat × Int × Int

/-- The lowest entry of a block's range scoreboard that overlaps one of the places; a place is (kind, first, past the last). -/
def State.rangeHold (s : State) (b : Nat) (ps : List Place) : Option Nat :=
  let es := (s.copies.filter (fun c => c.block == b && c.spans.any (fun q => ps.any (fun p =>
    p.1 == q.1 && decide (p.2.1 < q.2.2) && decide (q.2.1 < p.2.2))))).map (·.entry)
  es.foldl (fun r e => some (match r with | none => e | some x => min x e)) none

/-! ### Offsets of a form-M instruction (R263) -/

/-- The offset of lane `l`. -/
def State.accessOffset (s : State) (cx : Cx) (f : MForm) (e : Nat) (vecOff perLane : Bool) (l : Nat) : Int :=
  let w := f.mod.getLsbD 1
  let x := if vecOff && !f.mod.getLsbD 0 then s.laneN cx.k f.off.toNat (if w then 2 else 1) l else s.opN cx.k cx.e f.off w
  (x : Int) + f.imm.toInt * e + (if perLane then (l * e : Nat) else 0)
/-- Each active lane's offset; a form with no vector operand forms lane 0's only. -/
def State.accessOffsets (s : State) (cx : Cx) (f : MForm) (e : Nat) (vecOff perLane scalar : Bool) : List (Nat × Int) :=
  if scalar then [(0, s.accessOffset cx f e vecOff perLane 0)] else (lanesOf cx.act).map (fun l => (l, s.accessOffset cx f e vecOff perLane l))

/-! ### Entering the queues (R269) -/

/-- Accesses of the load queue and of the store queue (R269, R340). -/
def AccKind.inLoads : AccKind → Bool
  | .load | .hld | .launch | .semPoll _ => true
  | _ => false
def AccKind.inStores : AccKind → Bool
  | .load | .hld | .launch | .semPoll _ | .clean | .mspill _ | .mfill _ | .fabric _ | .fsig .. => false
  | _ => true

/-- A new access of the issuing sub-group: its name, its slot, and the event that goes on with it. A gated store waits for
its region's commit (R274). -/
def State.newAccess (s : State) (cx : Cx) (a : Access) : State :=
  let (id, s) := s.fresh
  let x := s.sub cx.k cx.e
  let gated := cx.ck == .lattice && isGated cx.i
  let (rel, s) := if gated then (0, s) else s.fresh
  let a := { a with
    id := id, group := cx.k, entry := cx.e, block := (s.group cx.k).block, ctx := s.ctxOf cx.k, pc := x.here, clause := x.clauseStart, seq := id,
    slot := if cx.slot < 6 then some cx.slot else none, release := rel }
  let s := { s with accesses := s.accesses ++ [a] }
  let s := if cx.slot < 6 then s.setSub cx.k cx.e (x.setSlot cx.slot { st := .busy, seq := id, opcode := cx.op, isLoad := a.kind.inLoads && a.kind != .launch })
           else s
  let s := if a.accepted then s else s.post .accessAccepted { a := id }
  s.post (if cx.slot < 6 then .slotComplete else .storePerformed) { a := id }

/-- Names of the group's accesses that satisfy `p`. -/
def State.earlier (s : State) (k : Nat) (p : Access → Bool) : List Nat :=
  (s.accesses.filter (fun a => a.group == k && p a)).map (·.id)

end Sys2Proof.Machine
end

