-- ==== Sys2Proof/Machine/Claims.lean ====
section
/-! DEFINITION. The claim checker of a core (03 R83-R88), the placing of grants (07 R202) and releases (R85, R203). -/

namespace Sys2Proof.Machine

/-! ### Amounts -/

def Res.add (a b : Res) : Res := ⟨a.reg + b.reg, a.spm + b.spm, a.msl + b.msl⟩
def Res.sub (a b : Res) : Res := ⟨a.reg - b.reg, a.spm - b.spm, a.msl - b.msl⟩
/-- `Any_Greater` (R84). -/
def Res.gt (a b : Res) : Bool := decide (b.reg < a.reg) || decide (b.spm < a.spm) || decide (b.msl < a.msl)
/-- `n` units of kind 0 register blocks, 1 granules, 2 matrix slots. -/
def Res.of (kind n : Nat) : Res := if kind = 0 then { reg := n } else if kind = 1 then { spm := n } else { msl := n }
/-- The 20-bit layout of R61. -/
def Res.image (r : Res) : Nat := r.reg % 512 * 2048 + r.spm % 256 * 8 + r.msl % 8
def Res.ofImage (x : Nat) : Res := ⟨field x 11 9, field x 3 8, field x 0 3⟩

/-- The totals of a core (R83). -/
def totals (u : Nat) : Res := if kindOfUnit u = .lattice then ⟨256, 128, 4⟩ else ⟨0, 128, 2⟩

/-! ### The decision (R84), over the claims and holdings of the resident blocks -/

/-- What the holdings leave of `t`. -/
def avail (t : Res) (bs : List (Res × Res)) : Res := bs.foldl (fun a b => a.sub b.2) t

/-- One pass of `Safe`: blocks whose need fits finish and give up their holdings; the work and those left. -/
def safePass : Res → List (Res × Res) → Res × List (Res × Res)
  | w, [] => (w, [])
  | w, b :: t =>
    if (b.1.sub b.2).gt w then
      let (w', t') := safePass w t
      (w', b :: t')
    else safePass (w.add b.2) t

def safePasses : Nat → Res → List (Res × Res) → List (Res × Res)
  | 0, _, bs => bs
  | n + 1, w, bs => let (w', bs') := safePass w bs; safePasses n w' bs'

/-- `Safe` (R84). -/
def isSafe (t : Res) (bs : List (Res × Res)) : Bool := (safePasses 16 (avail t bs) bs).isEmpty

/-- `Claim_Check` (R84) of request `q` by a block of claim `c` and holdings `h` beside the blocks `bs`: 0 granted, 1
unavailable, 2 unsafe, 3 claim exceeded. -/
def claimCheck (t : Res) (bs : List (Res × Res)) (c h q : Res) : Nat :=
  if q.gt (c.sub h) then 3
  else if q.gt (avail t ((c, h) :: bs)) then 1
  else if isSafe t ((c, h.add q) :: bs) then 0
  else 2

/-- The resident blocks of a core. -/
def State.residents (s : State) (u : Nat) : Tab Block := s.blocks.filter (fun p => unitOfBlock p.1 == u && p.2.present)
/-- Claims and holdings of the resident blocks but one. -/
def State.holdings (s : State) (u but : Nat) : List (Res × Res) :=
  ((s.residents u).filter (fun p => p.1 != but)).map (fun p => (p.2.claim, p.2.held))
/-- The check of a request by a resident block. -/
def State.judge (s : State) (b : Nat) (q : Res) : Nat :=
  let u := unitOfBlock b
  claimCheck (totals u) (s.holdings u b) (s.block b).claim (s.block b).held q

/-! ### Free units -/

def State.freeBlocks (s : State) (u : Nat) : List Nat :=
  let used := (s.groups.filter (fun p => unitOfGroup p.1 == u && p.2.present)).flatMap (fun p => p.2.own.map (fun o => reach o.2))
  (List.range 256).filter (fun n => !used.contains n)
def State.freeGranules (s : State) (u : Nat) : List Nat :=
  let used := (s.residents u).flatMap (fun p => p.2.gran.map reach)
  (List.range 128).filter (fun n => !used.contains n)
def State.freeMslots (s : State) (u : Nat) : List Nat :=
  let used := (s.residents u).flatMap (fun p => p.2.slots.map (fun e => reach e.2))
  (List.range (totals u).msl).filter (fun n => !used.contains n)

/-- `n` elements of a list, each of a free choice: which physical register blocks a grant takes is not fixed (R202).
(DESIGN CHOICE, notes/assumptions 19; safe.) -/
def State.takeAny (s : State) : Nat → List Nat → List Nat × State
  | 0, _ => ([], s)
  | n + 1, free =>
    let (i, s) := s.choose free.length
    let (xs, s) := s.takeAny n (free.eraseIdx i)
    (free.getD i 0 :: xs, s)

/-! ### Releases and the checker's work (R85, R87) -/

/-- A release taking effect: the waiters on the list now are to be checked again, the request of a running check with them where that
check fails (R95), and the scheduler looks again (R78, R87). -/
def State.startScan (s : State) (u : Nat) : State :=
  let c := s.core u
  ((s.setCore u { c with scan := c.waiters.map (·.id), released := c.check.isSome }).postOnce .checkerNextCheck { a := u }).postOnce .schedulerPass

/-- Holdings of a block given back. -/
def State.release (s : State) (b : Nat) (r : Res) : State :=
  if r = {} then s
  else
    let x := s.block b
    (s.setBlock b { x with held := x.held.sub r }).startScan (unitOfBlock b)

/-- Scratchpad banks of a block that lie wholly inside offsets `lo` to `hi` drop (R154): the checks of later accesses see it now, the bank
once the accesses made so far are performed there (R265). -/
def State.dropBanks (s : State) (b lo hi : Nat) : State :=
  let u := unitOfBlock b
  let bs := bankSize u
  let first := (lo + bs - 1) / bs
  (List.range (hi / bs - first)).foldl (fun s i =>
    let c := s.core u
    let j := s.spmPhys b ((first + i) * bs) / bs
    let ds := c.drops.filter (fun d => d.1 != j || s.bankOwed u j d.2)
    s.setCore u { c with spmBank := tput c.spmBank j .off, drops := if s.bankOwed u j s.nextId then ds ++ [(j, s.nextId)] else ds }) s

/-! ### Grants (R202) -/

/-- The lowest `n` logical numbers below `top` that satisfy `free`. -/
def lowestFree (top n : Nat) (free : Nat → Bool) : List Nat := ((List.range top).filter free).take n
def maskNat (ns : List Nat) : Nat := ns.foldl (fun m n => m + 2 ^ n) 0

/-- Granules become on and zero-filled (R154). -/
def State.openGranules (s : State) (u : Nat) (ps : List Nat) : State :=
  ps.foldl (fun s p =>
    let c := s.core u
    let per := granSize u / bankSize u
    let c := { c with spmBank := (List.range per).foldl (fun t i => tput t (p * per + i) .on) c.spmBank }
    (s.setCore u c).zero (spmKey u (p * granSize u)) (granSize u)) s

/-- `Assign` (R202): the grant's physical units are taken now and come within reach when the returned writes land; with the
value of a `.w` grant. Units in `avoid` are not taken. -/
def State.assign (s : State) (b k kind n : Nat) (avoid : List Nat := []) : List Wr × Nat × State :=
  let u := unitOfBlock b
  if n = 0 then ([], 0, s)
  else match kind with
  | 0 =>
    let (ps, s) := s.takeAny n ((s.freeBlocks u).filter (!avoid.contains ·))
    let g := s.group k
    let ls := lowestFree 16 n (fun l => !g.own.any (fun o => o.1 == l))
    let s := s.setGroup k { g with own := g.own ++ ls.zip (ps.map (· + pending)) }
    let c := s.core u
    let s := if (s.block b).rv.bpol = 2 then s.setCore u { c with regBank := ps.foldl (fun t p => tput t (p / 4) .on) c.regBank } else s
    ([.grantReg (ls.zip ps)], maskNat ls, s)
  | 1 =>
    let ps := ((s.freeGranules u).filter (!avoid.contains ·)).take n
    let x := s.block b
    let held := x.gran.length
    let s := (s.setBlock b { x with gran := x.gran ++ ps.map (· + pending) }).openGranules u ps
    ([.grantSpm ((List.range n).map (held + ·))], held * granSize u, s)
  | _ =>
    let ps := ((s.freeMslots u).filter (!avoid.contains ·)).take n
    let x := s.block b
    let ls := lowestFree 4 n (fun l => (tfind x.slots l).isNone)
    let s := s.setBlock b { x with slots := (ls.zip ps).foldl (fun t e => tput t e.1 (e.2 + pending)) x.slots }
    let c := s.core u
    let s := s.setCore u { c with mslots := (ls.zip ps).foldl (fun t e => tput t e.2 { block := b, logical := e.1 }) c.mslots }
    ([.grantMsl (ls.zip ps)], maskNat ls, s)

/-! ### The end of accesses and groups -/

/-- An exited group with nothing left outstanding frees its slot (R137, R192). -/
def State.vacate (s : State) (k : Nat) : State :=
  let g := s.group k
  if g.exited && g.present && g.sigs.isEmpty && s.accesses.all (fun a => a.group != k) then
    (s.setGroup k { g with present := false }).postOnce .schedulerPass
  else s

/-- Matrix slots that a spill or fill held take back their state once it is gone (R314). -/
def State.freeHolders (s : State) (u : Nat) : State :=
  let c := s.core u
  let gone (m : MSlot) : Option Nat := match m.holder with
    | some (id, st) => if (s.access id).isNone then some st else none
    | none => none
  if c.mslots.any (fun p => (gone p.2).isSome) then
    s.setCore u { c with mslots := c.mslots.map (fun p => (p.1, match gone p.2 with
      | some st => { p.2 with st := st, holder := none }
      | none => p.2)) }
  else s

/-- An access ends: its slot completes with its result, unless a rollback or exit has given the slot to another; the holds that wait
for it end; an acquire drops the context's L1 lines first (R271). -/
def State.complete (s : State) (id : Nat) (wrs : List Wr) (fail : Option TrapInfo := none) : State :=
  match s.access id with
  | none => s
  | some a =>
    let s := s.dropAccess id
    let s := if a.acquire && kindOf a.group == .lattice then s.dropLines (unitOfGroup a.group) (fun l => l.ctx == a.ctx) else s
    let s := match a.slot with
      | none => s
      | some j =>
        let x := s.sub a.group a.entry
        let y := x.slot j
        if y.st == SlotState.busy && y.seq == a.seq then s.setSub a.group a.entry (x.setSlot j { y with st := SlotState.complete, wrs := wrs, fail := fail }) else s
    ((s.freeHolders (unitOfGroup a.group)).freeHolds a.group).vacate a.group

/-! ### The checker's events -/

/-- A check begins; its result is judged on the holdings of this, its first cycle (R85). -/
def State.beginCheck (s : State) (u : Nat) (q : Request) : State :=
  let c := s.core u
  (s.setCore u { c with check := some (q, s.judge q.block (Res.of q.kind q.n)), released := false }).post .claimCheckResult { a := u }

/-- The checker takes its next work (R87): a waiter of the scan, else the oldest acquisition. Admissions and resumes are
checked by the scheduler's pass. -/
def State.nextCheck (s : State) : State :=
  let u := s.arg.a
  let c := s.core u
  if c.check.isSome then s
  else match c.scan with
    | id :: rest =>
      let s := s.setCore u { c with scan := rest }
      match c.waiters.find? (fun q => q.id == id) with
      | some q => s.beginCheck u q
      | none => s.post .checkerNextCheck { a := u }
    | [] =>
      match c.requests with
      | q :: rest => (s.setCore u { c with requests := rest }).beginCheck u q
      | [] => s

/-- The grant of a `.w` request completes its slot (R201); a slot that no longer holds the request gives the grant back. -/
def State.grantSlot (s : State) (q : Request) (j : Nat) : State :=
  let x := s.sub q.group q.entry
  let y := x.slot j
  if y.st == .busy && y.seq == q.id then
    let (wrs, v, s) := s.assign q.block q.group q.kind q.n
    let x := s.sub q.group q.entry
    s.setSub q.group q.entry (x.setSlot j { y with
      st := .complete, request := none
      wrs := y.wrs.map (fun w => match w with | .s r _ pz => .s r (BitVec.ofNat 32 v) pz | w => w) ++ wrs })
  else s.release q.block (Res.of q.kind q.n)

/-- A check's result (R85, R86). A waiting requester is re-checked by the scan of a release that came during its check (R95). -/
def State.checkResult (s : State) : State :=
  let u := s.arg.a
  let c := s.core u
  match c.check with
  | none => s
  | some (q, r) =>
    let s := (s.setCore u { c with check := none }).postOnce .checkerNextCheck { a := u }
    if q.id = 0 then (if r = 0 then s.startScan u else s)
    else
      let amount := Res.of q.kind q.n
      let x := s.block q.block
      let settled : Block := { x with asked := x.asked.sub amount, held := if r = 0 then x.held.add amount else x.held }
      match q.slot with
      | none =>
        let c := s.core u
        (s.setBlock q.block settled).setCore u { c with answers := tput c.answers (8 * q.group + q.entry) (r + 4 * q.kind + 16 * q.n) }
      | some j =>
        let c := s.core u
        if r = 0 then
          ((s.setBlock q.block settled).setCore u { c with waiters := c.waiters.filter (fun w => w.id != q.id) }).grantSlot q j
        else if c.waiters.any (fun w => w.id == q.id) then s
        else s.setCore u { c with waiters := c.waiters ++ [q], scan := if c.released then c.scan ++ [q.id] else c.scan }

/-- A `.w` acquisition is withdrawn (R207, R402): a check in progress goes on, and its grant is given back. -/
def State.withdraw (s : State) (u id : Nat) : State :=
  let c := s.core u
  let all := c.requests ++ c.waiters ++ (match c.check with | some (q, _) => [q] | none => [])
  match all.find? (fun q => q.id == id && id != 0) with
  | none => s
  | some q =>
    let x := s.block q.block
    (s.setBlock q.block { x with asked := x.asked.sub (Res.of q.kind q.n) }).setCore u { c with
      requests := c.requests.filter (fun w => w.id != id), waiters := c.waiters.filter (fun w => w.id != id)
      scan := c.scan.filter (· != id)
      check := c.check.map (fun p => if p.1.id = id then ({ p.1 with id := 0 }, p.2) else p) }

/-- A request enters the checker's work. -/
def State.request (s : State) (u : Nat) (q : Request) : State :=
  let c := s.core u
  let x := s.block q.block
  ((s.setCore u { c with requests := c.requests ++ [q] }).setBlock q.block { x with asked := x.asked.add (Res.of q.kind q.n) }).postOnce
    .checkerNextCheck { a := u }

/-- CHECKER_NEXT_CHECK (R87). -/
def execCheckerNextCheck (s : State) : Host.Outcome State Fault Refusal := event (fun s => if s.relocking s.arg.a then s.again .checkerNextCheck else s.nextCheck) s
/-- CLAIM_CHECK_RESULT (R85). -/
def execClaimCheckResult (s : State) : Host.Outcome State Fault Refusal := event (fun s => if s.relocking s.arg.a then s.again .claimCheckResult else s.checkResult) s

end Sys2Proof.Machine
end

