-- ==== Sys2Proof/Machine/Flags.lean ====
section
/-! DEFINITION. The status flags of `fpcsr` (06 R173-R175), the conditions that compares and branches judge (07 R188,
R189), and saturation. -/

namespace Sys2Proof.Machine

/-- Flag masks of `fpcsr[4:0]`. -/
def fNX : BitVec 5 := 1
def fUF : BitVec 5 := 2
def fOF : BitVec 5 := 4
def fDZ : BitVec 5 := 8
def fIV : BitVec 5 := 16

/-- The flags of `f` whose enable bit is set in `csr` (R173, R175). -/
def enabledFlags (csr : W32) (f : BitVec 5) : BitVec 5 := f &&& csr.extractLsb' 8 5

/-- The trap of R175 for the flags each lane raised, if an enabled one was raised in an active lane. -/
def fpTrap (csr : W32) (act : W32) (f : Nat → BitVec 5) : Option TrapInfo :=
  let all := (lanesOf act).foldl (fun a l => a ||| f l) (0 : BitVec 5)
  let en := enabledFlags csr all
  if en = 0 then none
  else some { cause := 0x17, fmask := maskOf (fun l => lane act l && enabledFlags csr (f l) != 0),
              info := all.toNat * 256 + en.toNat }

/-- The write that ORs the flags of the active lanes into `fpcsr` as the result lands (R174). -/
def flagWr (act : W32) (f : Nat → BitVec 5) : List Wr :=
  let all := (lanesOf act).foldl (fun a l => a ||| f l) (0 : BitVec 5)
  if all = 0 then [] else [.flags all]

/-- The condition of `scmp` and `vcmp` on `W`-bit strings (R188). -/
def cond188 (c W a b : Nat) : Bool :=
  let sa := sext W a
  let sb := sext W b
  match c with
  | 0 => a == b
  | 1 => a != b
  | 2 => decide (sa < sb)
  | 3 => decide (sa ≤ sb)
  | 4 => decide (sb < sa)
  | 5 => decide (sb ≤ sa)
  | 6 => decide (a < b)
  | 7 => decide (a ≤ b)
  | 8 => decide (b < a)
  | _ => decide (b ≤ a)

/-- The order of two floats that are not NaN, zeros equal (R227): less, equal, greater. -/
def cond227 (c : Nat) (nan : Bool) (o : Ordering) : Bool :=
  match c with
  | 0 => !nan && o == .eq
  | 1 => nan || o != .eq
  | 2 => !nan && o == .lt
  | 3 => !nan && o != .gt
  | 4 => !nan && o == .gt
  | 5 => !nan && o != .lt
  | 6 => nan
  | _ => !nan

/-- Saturation over a signed and an unsigned range of `W` bits (R163). -/
def satS (W : Nat) (x : Int) : Nat := bitsOf W (satInt x (-(2 ^ (W - 1) : Nat)) ((2 ^ (W - 1) : Nat) - 1))
def satU (W : Nat) (x : Int) : Nat := bitsOf W (satInt x 0 ((2 ^ W : Nat) - 1))

end Sys2Proof.Machine
end

