-- ==== Sys2Proof/Machine/Predicate.lean ====
section
/-! DEFINITION. Predicate instructions (07 R196) and special registers (07 R197-R199). -/

namespace Sys2Proof.Machine

/-- A predicate result: every lane of amask. -/
def wrP (d : BitVec 8) (x : W32) : List Wr := if d = 0 then [] else [.p d.toNat 0xFFFFFFFF x]
/-- A predicate operand. -/
def State.opP (s : State) (k : Nat) (r : BitVec 8) : W32 := (s.group k).pred r.toNat
/-- Lanes of amask in which a predicate is true (R196). -/
def State.onLanes (s : State) (k e : Nat) (r : BitVec 8) : W32 := s.opP k r &&& (s.sub k e).lanes

def predEff (f : TForm) (r : W32 → W32 → W32) (cx : Cx) (s : State) : Eff :=
  .ok s (wrP f.dst (r (s.opP cx.k f.src0) (s.opP cx.k f.src1))) 1

/-- PAND (R196). -/
def execPand (f : TForm) (s : State) : Host.Outcome State Fault Refusal := issue (.pand f) .any (predEff f (· &&& ·)) s
/-- POR (R196). -/
def execPor (f : TForm) (s : State) : Host.Outcome State Fault Refusal := issue (.por f) .any (predEff f (· ||| ·)) s
/-- PXOR (R196). -/
def execPxor (f : TForm) (s : State) : Host.Outcome State Fault Refusal := issue (.pxor f) .any (predEff f (· ^^^ ·)) s
/-- PANDN (R196): a and not b. -/
def execPandn (f : TForm) (s : State) : Host.Outcome State Fault Refusal :=
  issue (.pandn f) .any (predEff f (fun a b => a &&& ~~~b)) s
/-- PNOT (R196). -/
def execPnot (f : TForm) (s : State) : Host.Outcome State Fault Refusal := issue (.pnot f) .any (predEff f (fun a _ => ~~~a)) s
/-- PMOV (R196): a predicate, or lane l from imm[l mod 16]. -/
def execPmov (o : PmovForm) (s : State) : Host.Outcome State Fault Refusal :=
  issue (.pmov o) .any (fun cx s =>
    match o with
    | .t f => .ok s (wrP f.dst (s.opP cx.k f.src0)) 1
    | .i f => .ok s (wrP f.dst (f.imm ++ f.imm)) 1) s
/-- PFROMS (R196). -/
def execPfroms (f : TForm) (s : State) : Host.Outcome State Fault Refusal :=
  issue (.pfroms f) .any (fun cx s => .ok s (wrP f.dst (s.opS cx.k cx.e f.src0)) 2) s
/-- PTOS (R196). -/
def execPtos (f : TForm) (s : State) : Host.Outcome State Fault Refusal :=
  issue (.ptos f) .any (fun cx s => .ok s (wrS f.dst.toNat 1 (s.onLanes cx.k cx.e f.src0).toNat) 2) s
/-- PANY (R196). -/
def execPany (f : TForm) (s : State) : Host.Outcome State Fault Refusal :=
  issue (.pany f) .any (fun cx s => .ok s (wrS f.dst.toNat 1 (if s.onLanes cx.k cx.e f.src0 = 0 then 0 else 1)) 2) s
/-- PALL (R196). -/
def execPall (f : TForm) (s : State) : Host.Outcome State Fault Refusal :=
  issue (.pall f) .any (fun cx s =>
    .ok s (wrS f.dst.toNat 1 (if s.onLanes cx.k cx.e f.src0 = (s.sub cx.k cx.e).lanes then 1 else 0)) 2) s
/-- PPOP (R196). -/
def execPpop (f : TForm) (s : State) : Host.Outcome State Fault Refusal :=
  issue (.ppop f) .any (fun cx s => .ok s (wrS f.dst.toNat 1 (lanesOf (s.onLanes cx.k cx.e f.src0)).length) 2) s

/-- The value of special register `n` at the issue tick, and whether it is 64 bits wide (R198). -/
def State.special (s : State) (k e n : Nat) : Nat :=
  let g := s.group k
  let x := g.sub e
  match n with
  | 0x00 => x.tick % 2 ^ 64
  | 0x01 => s.time % 2 ^ 64
  | 0x02 => (s.specialOp k e 0xA4).toNat
  | 0x03 => (s.specialOp k e 0xA5).toNat
  | 0x04 => (s.specialOp k e 0xA6).toNat
  | 0x05 => (s.specialOp k e 0xA7).toNat
  | 0x06 => (s.specialOp k e 0xA8).toNat
  | 0x07 => (s.specialOp k e 0xA9).toNat
  | 0x08 => (s.specialOp k e 0xAA).toNat
  | 0x09 => x.lanes.toNat
  | 0x0B => (tget 0 g.lfsr ((lanesOf x.lanes).headD 0)).toNat
  | n => (g.special n).toNat

/-- SGET (R197): bits [31:0], or the pair. -/
def execSget (w64 : Bool) (f : IForm) (s : State) : Host.Outcome State Fault Refusal :=
  issue (.sget w64 f) .any (fun cx s => .ok s (wrS f.dst.toNat (wn w64) (s.special cx.k cx.e (f.imm.toNat % 256))) 1) s
/-- SSET (R197): the write lands at T + 1. -/
def execSset (w64 : Bool) (f : IForm) (s : State) : Host.Outcome State Fault Refusal :=
  issue (.sset w64 f) .any (fun cx s =>
    .ok s [.special (f.imm.toNat % 256) w64 (BitVec.ofNat 64 (s.opN cx.k cx.e f.src0 w64))] 1) s

end Sys2Proof.Machine
end

