-- ==== Sys2Proof/Machine/Handles.lean ====
section
/-! DEFINITION. Handle register instructions (10 R278-R280) and hints (04 R118-R120). -/

namespace Sys2Proof.Machine

/-- A handle result. -/
def wrH (d : Nat) (x : HandleReg) (pz : Bool := false) : List Wr := if d % 32 = 0 then [] else [.h d x pz]
/-- A handle operand. -/
def State.opH (s : State) (k e : Nat) (r : Nat) : HandleReg := (s.sub k e).hreg r

/-- Checks 1 and 2 of R279 on a source handle. -/
def narrowTrap (h : HandleReg) (src : Nat) : Option TrapInfo :=
  let info (n : Nat) : Nat := n * 2 ^ 24 + src % 32
  if !h.valid || h.bits.toNat % 256 != 0 then some { cause := 0x06, info := info 1 }
  else if bitAt h.rights 7 || !bitAt h.rights 6 then some { cause := 0x08, info := info 2 }
  else none

/-- HDERIVE (R279). -/
def execHderive (f : TForm) (s : State) : Host.Outcome State Fault Refusal :=
  issue (.hderive f) .any (fun cx s =>
    let h := s.opH cx.k cx.e f.src0.toNat
    let off := (s.opS64 cx.k cx.e f.src1).toNat
    let len := (s.opS64 cx.k cx.e f.src2).toNat
    match narrowTrap h f.src0.toNat with
    | some t => .trap s t
    | none =>
      if h.len < off + len then .trap s { cause := 0x07, addr := off, addr2 := len, info := 3 * 2 ^ 24 + f.src0.toNat % 32 }
      else .ok s (wrH f.dst.toNat (mkHandle h.obj h.gen h.rights (h.base + off) len true)) 1) s
/-- HRESTRICT (R279). -/
def execHrestrict (f : TForm) (s : State) : Host.Outcome State Fault Refusal :=
  issue (.hrestrict f) .any (fun cx s =>
    let h := s.opH cx.k cx.e f.src0.toNat
    let m := (s.opS cx.k cx.e f.src1).toNat % 256
    match narrowTrap h f.src0.toNat with
    | some t => .trap s t
    | none => .ok s (wrH f.dst.toNat (mkHandle h.obj h.gen ((h.rights &&& m) % 128 + m / 128 * 128) h.base h.len true)) 1) s
/-- HGET (R280): one field, whatever the handle's validity. -/
def execHget (f : TForm) (s : State) : Host.Outcome State Fault Refusal :=
  issue (.hget f) .any (fun cx s =>
    let h := s.opH cx.k cx.e f.src0.toNat
    .ok s (match f.mod.toNat with
      | 0 => wrS f.dst.toNat 1 h.obj
      | 1 => wrS f.dst.toNat 1 h.gen
      | 2 => wrS f.dst.toNat 1 h.rights
      | 3 => wrS f.dst.toNat 2 h.base
      | 4 => wrS f.dst.toNat 2 h.len
      | _ => wrS f.dst.toNat 1 (if h.valid then 1 else 0)) 1) s
/-- HMOV (R280): the bits, the valid bit and the poison. -/
def execHmov (f : TForm) (s : State) : Host.Outcome State Fault Refusal :=
  issue (.hmov f) .any (fun cx s =>
    .ok s (wrH f.dst.toNat (s.opH cx.k cx.e f.src0.toNat) ((s.sub cx.k cx.e).hPz.getLsbD f.src0.toNat)) 1) s
/-- HVALID (R280). -/
def execHvalid (f : TForm) (s : State) : Host.Outcome State Fault Refusal :=
  issue (.hvalid f) .any (fun cx s => .ok s (wrS f.dst.toNat 1 (if (s.opH cx.k cx.e f.src0.toNat).valid then 1 else 0)) 1) s

/-! ### Hints -/

/-- The move that every hint makes (R118): nothing where mod[0] is 0. -/
def hintMove (f : TForm) (cx : Cx) (s : State) : List Wr :=
  if !f.mod.getLsbD 0 || cx.act = 0 then []
  else
    match mf f.mod 1 2 with
    | 0 => wrS f.dst.toNat 1 (s.opS cx.k cx.e f.src0).toNat
    | 1 => wrV f.dst.toNat 1 cx.act (fun l => s.laneN cx.k f.src0.toNat 1 l)
    | 2 => wrP f.dst (s.opP cx.k f.src0)
    | _ => wrH f.dst.toNat (s.opH cx.k cx.e f.src0.toNat)

/-- A scalar-class source that a hint may read: legal, live and not poisoned (R119). -/
def State.hintScalar (s : State) (k e : Nat) (v : BitVec 8) : Bool :=
  let o : Opnd := sSrc v 0 0
  o.legal && (!o.isReg || (!s.isDead k e .s v.toNat && !(s.sub k e).sPz.getLsbD v.toNat)) &&
    (!opIn v.toNat 0x90 0x92 || decide (v.toNat - 0x90 < (match (s.sub k e).clause with | some c => c.lits.length | none => 0)))

/-- HINT_PF (R119): the move, and the line that holds Read(src2) through handle src1. -/
def execHintPf (f : TForm) (s : State) : Host.Outcome State Fault Refusal :=
  issue (.hintPf f) .always (fun cx s =>
    let wrs := hintMove f cx s
    let r := f.src1.toNat
    let h := s.opH cx.k cx.e r
    let o := (s.opS cx.k cx.e f.src2).toNat
    let ok := cx.act != 0 && !s.isDead cx.k cx.e .p (commonOf cx.i).guard.toNat && decide (r < 32) && !s.isDead cx.k cx.e .h r && !(s.sub cx.k cx.e).hPz.getLsbD r &&
      s.hintScalar cx.k cx.e f.src2 && (s.checkHandle cx.k h r rR 1 1 [(0, (o : Int))]).isNone
    .ok (if ok then s.prefetch cx.k h o (f.mod.getLsbD 3) else s) wrs 1) s
/-- HINT_BANK (R120): the move, and the wake of a bank in retention. A src1 that is dead, poisoned or no operand names no bank: no wake, and
no trap.
(DESIGN CHOICE, notes/assumptions 81; unsafe.) -/
def execHintBank (f : TForm) (s : State) : Host.Outcome State Fault Refusal :=
  issue (.hintBank f) .always (fun cx s =>
    let wrs := hintMove f cx s
    let b := (s.opS cx.k cx.e f.src1).toNat
    let s := if cx.act != 0 && cx.ck == .lattice && !s.isDead cx.k cx.e .p (commonOf cx.i).guard.toNat && s.hintScalar cx.k cx.e f.src1 then
        match (s.group cx.k).own.find? (fun p => p.1 == b) with
        | some p => if tget .off (s.core cx.unit).regBank (p.2 / 4) == .retention then s.wakeReg cx.unit (p.2 / 4) else s
        | none => s
      else s
    .ok s wrs 1) s
/-- HINT_X (R118): an unassigned hint is its move alone. -/
def execHintX (op : Fin 30) (f : TForm) (s : State) : Host.Outcome State Fault Refusal :=
  issue (.hintX op f) .always (fun cx s => .ok s (hintMove f cx s) 1) s

end Sys2Proof.Machine
end

