-- ==== Sys2Proof/Machine/Memory.lean ====
section
/-! DEFINITION. The issue of the memory instructions (10 R261-R277, R281; 09 R243-R246, R252): offsets, checks, the access
that enters a queue, fences. Performance is in Machine/Perform.lean. -/

namespace Sys2Proof.Machine

/-- The fields of an access that issue fills in for every kind. -/
def Access.start (kind : AccKind) (elems : List Elem) : Access :=
  { id := 0, group := 0, entry := 0, block := 0, kind := kind, elems := elems }

/-- Holds (R271, R272): the group's later access instructions wait for the accesses named; where none is left the L1 drop of an
acquire is made at once. -/
def State.hold (s : State) (k : Nat) (ids : List Nat) (dropL1 : Bool) : State :=
  (s.setGroup k { s.group k with holds := (s.group k).holds ++ [⟨ids, dropL1⟩] }).freeHolds k

/-- The lanes' places in an object, for the range scoreboard. -/
def objPlaces (h : HandleReg) (n : Nat) (offs : List (Nat × Int)) : List Place :=
  offs.map (fun p => (some h.obj, (h.base : Int) + p.2, (h.base : Int) + p.2 + n))
def spmPlaces (n : Nat) (offs : List (Nat × Int)) : List Place := offs.map (fun p => (none, p.2, p.2 + n))

/-- An access through a handle: R57 steps 1 to 5, the range scoreboard, then its queue. -/
def State.handleAccess (s : State) (cx : Cx) (hr need n align : Nat) (offs : List (Nat × Int)) (a : HandleReg → Access)
    (lane0 : Int := (offs.headD (0, 0)).2) : Eff :=
  let h := s.opH cx.k cx.e hr
  match s.checkHandle cx.k h hr need n align offs with
  | some t => .trap s t
  | none =>
    match s.rangeHold (s.group cx.k).block (objPlaces h n offs) with
    | some i => .wait s 0x07 i 0
    | none => .ok (s.newAccess cx { a h with hbits := h.bits, hreg := hr % 32, off0 := bitsOf 64 lane0 }) [] 1

/-- Elements of a handle access, one per lane. -/
def objElems (h : HandleReg) (n : Nat) (offs : List (Nat × Int)) (data : Nat → List Byte) : List Elem :=
  offs.map (fun p => { lane := p.1, off := p.2.toNat, obj := h.base + p.2.toNat, n := n, data := data p.1 })

/-- An access to the block's own scratchpad: R243, the range scoreboard, the banks, then its queue. `align` 1 where the form's own
rule has judged alignment. -/
def State.spmAccess (s : State) (cx : Cx) (n align : Nat) (read : Bool) (offs : List (Nat × Int)) (a : Access) : Eff :=
  let b := (s.group cx.k).block
  match s.checkSpm b n align read offs with
  | some t => .trap s t
  | none =>
    match s.rangeHold b (spmPlaces n offs) with
    | some i => .wait s 0x07 i 0
    | none =>
      match s.wakeFor b (offs.map (fun p => p.2.toNat)) with
      | some s => .stall s
      | none => .ok (s.newAccess cx { a with accepted := true, local_ := true }) [] 1

/-- Elements of a scratchpad access. -/
def State.spmElems (s : State) (b n : Nat) (offs : List (Nat × Int)) (data : Nat → List Byte) : List Elem :=
  offs.map (fun p => { lane := p.1, off := p.2.toNat, obj := p.2.toNat, n := n, loc := .mem (s.spmAt b p.2.toNat), data := data p.1 })

/-- A vector register's lane, or a scalar, as the bytes that a store writes. -/
def State.storeVec (s : State) (k r e : Nat) (l : Nat) : List Byte := leBytes e (s.laneN k r (regsOf e) l)
def State.storeScalar (s : State) (k e : Nat) (f : BitVec 8) (n : Nat) : List Byte := leBytes n (s.opN k e f (decide (4 < n)))

/-! ### What the group's own queue holds (R269), and reads through a cache (R249, R251) -/

/-- Which byte of an element byte `i` from place `l` is, where the element covers it. -/
def Elem.covers (el : Elem) (l : Loc) (i : Nat) : Option Nat :=
  let at_ (m a : Nat) : Option Nat := if m ≤ a + i ∧ a + i < m + el.n then some (a + i - m) else none
  match el.loc, l with
  | .mem m, .mem a => at_ m a
  | .remote c m, .remote d a => if c = d then at_ m a else none
  | _, _ => none
/-- The latest store of group `k` named below `before` that covers byte `i` from a place, as the element that supplies it: the highest lane (R268,
R269). -/
def State.ownElem (s : State) (k before : Nat) (l : Loc) (i : Nat) : Option Elem :=
  let st := s.accesses.filter (fun a => a.group == k && decide (a.id < before) && (a.kind == .store || a.kind == .hst) &&
    a.elems.any (fun el => (el.covers l i).isSome))
  st.getLast?.bind (fun a => (a.elems.filter (fun el => (el.covers l i).isSome)).getLast?)
/-- The byte that the latest store of group `k` named below `before` gives byte `i` from a place, while that store is not yet performed
there. -/
def State.ownByte (s : State) (k before : Nat) (l : Loc) (i : Nat) : Option Byte :=
  match s.ownElem k before l i with
  | some el => if el.done then none else (el.covers l i).bind (fun n => el.data[n]?)
  | none => none
/-- Bytes as the group sees them: its own stores first. -/
def State.ownBytes (s : State) (k key n : Nat) : List Byte :=
  (List.range n).map (fun i => (s.ownByte k s.nextId (.mem key) i).getD (s.byte (key + i)))
/-- An earlier access of the group other than a plain store or a load has not been performed on these bytes.
(DEDUCED, notes/assumptions 24; unsafe.) -/
def State.ownBusy (s : State) (k key n : Nat) : Bool :=
  s.accesses.any (fun a => a.group == k && a.kind.inStores && a.kind != .store && a.kind != .hst && a.elems.any (fun el =>
    match el.loc with
    | .mem m => decide (m < key + n) && decide (key < m + el.n)
    | _ => false))

/-- A byte with its poison at a memory key, read by core `u` through its cache where that holds the line: a value that the byte has had since
the fill, or has now (R347). -/
def State.readVia (s : State) (u ctx obj gen a key : Nat) : (Byte × Bool) × State :=
  let new := (s.byte key, s.poisoned key 1)
  match s.findLine u ctx obj gen a with
  | none => (new, s)
  | some l =>
    let vs := addVal new (l.vals.getD (a % 128) [])
    let (i, s) := s.choose vs.length
    (vs.getD i new, s)

/-- A write at a point of performance, by the access named `id` or by another agent: a dropped scratchpad bank revives zero-filled first (R154),
unless its drop comes after the access (R265). -/
def State.storeAt (s : State) (id key : Nat) (bs : List Byte) : State :=
  let s := s.settleDrops id key
  let u := spmKeyUnit key
  let j := spmKeyBank key
  let c := s.core u
  if isSpmKey key && tget .off c.spmBank j == .off && !s.dropsAfter id key then
    ((s.setCore u { c with spmBank := tput c.spmBank j .on }).zero (spmKey u (j * bankSize u)) (bankSize u)).write key bs
  else s.write key bs
/-- The last-level cache holds the line of a host memory key (R248). -/
def State.holdHost (s : State) (key : Nat) : State := if 2 ^ 60 ≤ key then { s with llcHost := sinsert s.llcHost (key / 128) } else s
/-- A write by an agent other than a group's access. -/
def State.writeAt (s : State) (key : Nat) (bs : List Byte) : State := (s.holdHost key).storeAt s.nextId key bs

/-! ### Loads and stores (R266, R268) -/

/-- A load through a handle. -/
def loadG (f : MForm) (e : Nat) (vec perLane scalar : Bool) (cx : Cx) (s : State) : Eff :=
  let offs := s.accessOffsets cx f e vec perLane scalar
  s.handleAccess cx f.h.toNat rR e e offs (fun h => { Access.start .load (objElems h e offs (fun _ => [])) with
    size := e, signed := f.mod.getLsbD 2, dst := f.d.toNat, scalar := scalar, cacheMod := mf f.mod 3 2 }) (s.accessOffset cx f e vec perLane 0)
/-- A store through a handle. -/
def storeG (f : MForm) (e : Nat) (vec perLane scalar : Bool) (cx : Cx) (s : State) : Eff :=
  let offs := s.accessOffsets cx f e vec perLane scalar
  let data (l : Nat) := if scalar then s.storeScalar cx.k cx.e f.d e else s.storeVec cx.k f.d.toNat e l
  s.handleAccess cx f.h.toNat rW e e offs (fun h => { Access.start .store (objElems h e offs data) with
    size := e, cacheMod := mf f.mod 3 2 }) (s.accessOffset cx f e vec perLane 0)

/-- LD_G (R266). -/
def execLdG (z : Size5) (f : MForm) (s : State) : Host.Outcome State Fault Refusal :=
  issue (.ldG z f) .slot (loadG f z.bytes true false false) s
/-- ST_G (R268). -/
def execStG (z : Size5) (f : MForm) (s : State) : Host.Outcome State Fault Refusal :=
  issue (.stG z f) .any (storeG f z.bytes true false false) s
/-- LDW_G (R266). -/
def execLdwG (z : SizeW) (f : MForm) (s : State) : Host.Outcome State Fault Refusal :=
  issue (.ldwG z f) .slot (loadG f z.bytes false true false) s
/-- STW_G (R268). -/
def execStwG (z : SizeW) (f : MForm) (s : State) : Host.Outcome State Fault Refusal :=
  issue (.stwG z f) .any (storeG f z.bytes false true false) s
/-- LD_GS (R266). -/
def execLdGs (z : Size4) (f : MForm) (s : State) : Host.Outcome State Fault Refusal :=
  issue (.ldGs z f) .slot (loadG f z.bytes false false true) s
/-- ST_GS (R268). -/
def execStGs (z : Size4) (f : MForm) (s : State) : Host.Outcome State Fault Refusal :=
  issue (.stGs z f) .any (storeG f z.bytes false false true) s

/-- LD_L (R266). -/
def execLdL (z : Size5) (f : MForm) (s : State) : Host.Outcome State Fault Refusal :=
  issue (.ldL z f) .slot (fun cx s =>
    let e := z.bytes
    let offs := s.accessOffsets cx f e true false false
    s.spmAccess cx e e true offs { Access.start .load (s.spmElems (s.group cx.k).block e offs (fun _ => [])) with
      size := e, signed := f.mod.getLsbD 2, dst := f.d.toNat }) s
/-- ST_L (R268). -/
def execStL (z : Size5) (f : MForm) (s : State) : Host.Outcome State Fault Refusal :=
  issue (.stL z f) .any (fun cx s =>
    let e := z.bytes
    let offs := s.accessOffsets cx f e true false false
    s.spmAccess cx e e false offs { Access.start .store (s.spmElems (s.group cx.k).block e offs (s.storeVec cx.k f.d.toNat e)) with
      size := e }) s

/-! ### Cluster members (R246) -/

/-- A cluster access: the member is checked here, its scratchpad at its own core unless it is the block itself. -/
def clusterAccess (f : MForm) (e : Nat) (kind : AccKind) (data : Nat → List Byte) (read : Bool) (cx : Cx) (s : State) : Eff :=
  let offs := s.accessOffsets cx f e true false false
  let m := f.h.toNat % 4
  let b := (s.group cx.k).block
  let x := s.block b
  if x.csize ≤ m then .trap s (laneTrap 0x0A (2 ^ 24) offs)
  else if m = x.x % x.csize then
    s.spmAccess cx e e read offs { Access.start kind (s.spmElems b e offs data) with size := e, dst := f.d.toNat }
  else
    let elems := offs.map (fun (p : Nat × Int) => ({ lane := p.1, off := bitsOf 64 p.2, obj := bitsOf 64 p.2, n := e, data := data p.1 } : Elem))
    .ok (s.newAccess cx { Access.start kind elems with size := e, dst := f.d.toNat, hreg := m, member := some (x.members.getD m b) }) [] 1

/-- LD_C (R246). -/
def execLdC (w64 : Bool) (f : MForm) (s : State) : Host.Outcome State Fault Refusal :=
  issue (.ldC w64 f) .slot (clusterAccess f (4 * wn w64) .load (fun _ => []) true) s
/-- ST_C (R246): its slot completes when every byte has been performed. -/
def execStC (w64 : Bool) (f : MForm) (s : State) : Host.Outcome State Fault Refusal :=
  issue (.stC w64 f) .slot (fun cx s => clusterAccess f (4 * wn w64) .store (s.storeVec cx.k f.d.toNat (4 * wn w64)) false cx s) s

/-! ### Lane-private slices (R245) -/

/-- `Lp_Addr` (R245). -/
def lpAddr (base l q : Nat) : Nat := base + 128 * (q / 4) + 4 * l + q % 4

/-- A lane-private access of `e` bytes: a 64-bit element is two words. -/
def privateAccess (f : MForm) (e : Nat) (kind : AccKind) (read : Bool) (data : Nat → List Byte) (cx : Cx) (s : State) : Eff :=
  let q : Int := (s.opN cx.k cx.e f.off false : Int) + f.imm.toInt * e
  let base := (s.group cx.k).lpBase.toNat
  let all := (lanesOf cx.act).map (fun l => (l, q))
  let n := min e 4
  if base % 128 ≠ 0 || q % e ≠ 0 then .trap s (laneTrap 0x09 0 all)
  else if q < 0 then .trap s (laneTrap 0x0A 0 all)
  else
    let b := (s.group cx.k).block
    let part (j : Nat) : List (Nat × Int) := (lanesOf cx.act).map (fun l => (l, (lpAddr base l (q.toNat + 4 * j) : Int)))
    let offs := part 0 ++ (if e = 8 then part 1 else [])
    let elems := s.spmElems b n (part 0) (fun l => (data l).take n) ++
      (if e = 8 then (s.spmElems b n (part 1) (fun l => (data l).drop 4)).map (fun x => { x with part := 1 }) else [])
    s.spmAccess cx n 1 read offs { Access.start kind elems with size := e, signed := f.mod.getLsbD 2, dst := f.d.toNat }

/-- LD_P (R245). -/
def execLdP (z : SizeP) (f : MForm) (s : State) : Host.Outcome State Fault Refusal :=
  issue (.ldP z f) .slot (privateAccess f z.bytes .load true (fun _ => [])) s
/-- ST_P (R245). -/
def execStP (z : SizeP) (f : MForm) (s : State) : Host.Outcome State Fault Refusal :=
  issue (.stP z f) .any (fun cx s => privateAccess f z.bytes .store false (s.storeVec cx.k f.d.toNat z.bytes) cx s) s

/-! ### Acquire, release and fences (R271, R272) -/

/-- Scope `.dev` or `.sys`: an acquire drops L1 lines. -/
def wideScope (sc : Nat) : Bool := sc == 3 || sc == 4
/-- Accesses that a release at a scope waits for: none at `.grp`. -/
def State.releaseAfter (s : State) (k sc : Nat) : List Nat :=
  if sc = 0 then [] else s.earlier k (fun a => a.kind.inLoads || a.kind.inStores)

/-- LD_ACQ (R271). -/
def execLdAcq (w64 : Bool) (f : MForm) (s : State) : Host.Outcome State Fault Refusal :=
  issue (.ldAcq w64 f) .slot (fun cx s =>
    let e := 4 * wn w64
    let offs := s.accessOffsets cx f e false false true
    match s.handleAccess cx f.h.toNat rR e e offs (fun h => { Access.start .load (objElems h e offs (fun _ => [])) with
        size := e, dst := f.d.toNat, scalar := true, acquire := wideScope (mf f.mod 2 3) }) with
    | .ok s' wrs lat => .ok (s'.hold cx.k [s.nextId] false) wrs lat
    | r => r) s
/-- ST_REL (R271). -/
def execStRel (w64 : Bool) (f : MForm) (s : State) : Host.Outcome State Fault Refusal :=
  issue (.stRel w64 f) .any (fun cx s =>
    let e := 4 * wn w64
    let offs := s.accessOffsets cx f e false false true
    let after := s.releaseAfter cx.k (mf f.mod 2 3)
    s.handleAccess cx f.h.toNat rW e e offs (fun h =>
      { Access.start .store (objElems h e offs (fun _ => s.storeScalar cx.k cx.e f.d e)) with size := e, after := after })) s
/-- FENCE (R272). -/
def execFence (f : XForm) (s : State) : Host.Outcome State Fault Refusal :=
  issue (.fence f) .any (fun cx s =>
    let sc := mf f.mod 0 3
    let kind := mf f.mod 3 2
    if sc = 0 then .ok s [] 1
    else
      let ids := s.earlier cx.k (fun a => a.kind.inLoads || (a.kind.inStores && kind != 1))
      .ok (s.hold cx.k ids (kind != 2 && wideScope sc)) [] 1) s
/-- QSYNC (R272). -/
def execQsync (f : XForm) (s : State) : Host.Outcome State Fault Refusal :=
  issue (.qsync f) .any (fun cx s => .ok (s.hold cx.k (s.earlier cx.k (fun a => a.kind.inLoads || a.kind.inStores)) false) [] 1) s

/-! ### Cleaning and invalidation (R252, R276), prefetch (R277) -/

/-- The checks of `cclean` and `cinval`: steps 1, 2 for a sealed handle, 3 and 5, for the whole range. -/
def State.rangeTrap (s : State) (cx : Cx) (hr : Nat) (h : HandleReg) (o : Int) (n : Nat) : Option TrapInfo :=
  s.checkHandle cx.k h hr 0 n 1 [(0, o)]

/-- Stores that a clean waits for (R252): those of the issuing block (of the group on a control core) that satisfy `p`, but for
stores still in another group's gate. -/
def State.cleanAfter (s : State) (cx : Cx) (p : Access → Bool) : List Nat :=
  (s.accesses.filter (fun a => a.kind.inStores && !a.local_ && a.member.isNone && p a &&
    (if cx.ck == .control then a.group == cx.k else a.block == (s.group cx.k).block && kindOf a.group != .control) &&
    (a.release != 0 || a.group == cx.k))).map (·.id)

/-- A clean: an access that is done when the stores it waits for are. -/
def State.cleanBy (s : State) (cx : Cx) (p : Access → Bool) : Eff :=
  .ok (s.newAccess cx { Access.start .clean [] with accepted := true, after := s.cleanAfter cx p }) [] 1

/-- An element lies in a range of an object. -/
def Access.inRange (a : Access) (obj lo hi : Nat) : Bool :=
  field a.hbits.toNat 104 24 == obj && a.elems.any (fun el => decide (el.obj < hi) && decide (lo < el.obj + el.n))

/-- Lines of a range dropped from the issuing core's read cache (R252). -/
def State.invalidate (s : State) (cx : Cx) (p : Line → Bool) : State :=
  if cx.ck == .control then s else s.dropLines (cacheKey cx.unit) (fun l => l.ctx == s.ctxOf cx.k && p l)

/-- CCLEAN (R276). -/
def execCclean (f : MForm) (s : State) : Host.Outcome State Fault Refusal :=
  issue (.cclean f) .slot (fun cx s =>
    let h := s.opH cx.k cx.e f.h.toNat
    let n := s.opN cx.k cx.e f.d false
    let o := ((s.accessOffsets cx f 16 false false true).headD (0, 0)).2
    match s.rangeTrap cx f.h.toNat h o n with
    | some t => .trap s t
    | none =>
      if n = 0 then .ok (s.slotDone cx.k cx.e cx.slot cx.op []) [] 1
      else s.cleanBy cx (fun a => a.inRange h.obj (h.base + o.toNat) (h.base + o.toNat + n))) s
/-- CCLEAN_ALL (R276). -/
def execCcleanAll (f : MForm) (s : State) : Host.Outcome State Fault Refusal :=
  issue (.ccleanAll f) .slot (fun cx s => s.cleanBy cx (fun _ => true)) s
/-- CINVAL (R276). -/
def execCinval (f : MForm) (s : State) : Host.Outcome State Fault Refusal :=
  issue (.cinval f) .slot (fun cx s =>
    let h := s.opH cx.k cx.e f.h.toNat
    let n := s.opN cx.k cx.e f.d false
    let o := ((s.accessOffsets cx f 16 false false true).headD (0, 0)).2
    match s.rangeTrap cx f.h.toNat h o n with
    | some t => .trap s t
    | none =>
      if n = 0 then .ok (s.slotDone cx.k cx.e cx.slot cx.op []) [] 1
      else
        let lo := h.base + o.toNat
        let s := s.invalidate cx (fun l => l.obj == h.obj && decide (l.off < lo + n) && decide (lo < l.off + 128))
        .ok (s.slotBusy cx.k cx.e cx.slot cx.op []) [] 1) s
/-- CINVAL_ALL (R276). -/
def execCinvalAll (f : MForm) (s : State) : Host.Outcome State Fault Refusal :=
  issue (.cinvalAll f) .slot (fun cx s => .ok ((s.invalidate cx (fun _ => true)).slotBusy cx.k cx.e cx.slot cx.op []) [] 1) s

/-- A prefetch that traps on a bad handle (R277). -/
def prefetchG (f : MForm) (l1 : Bool) (cx : Cx) (s : State) : Eff :=
  let h := s.opH cx.k cx.e f.h.toNat
  let offs := s.accessOffsets cx f 16 false false true
  match s.checkHandle cx.k h f.h.toNat rR 1 1 offs with
  | some t => .trap s t
  | none => .ok (s.prefetch cx.k h ((offs.headD (0, 0)).2).toNat l1) [] 1
/-- PF (R277). -/
def execPf (f : MForm) (s : State) : Host.Outcome State Fault Refusal := issue (.pf f) .any (prefetchG f false) s
/-- PF_RO (R277). -/
def execPfRo (f : MForm) (s : State) : Host.Outcome State Fault Refusal := issue (.pfRo f) .any (prefetchG f true) s

/-! ### Handles in memory (R281) -/

/-- HLD (R281). -/
def execHld (f : MForm) (s : State) : Host.Outcome State Fault Refusal :=
  issue (.hld f) .slot (fun cx s =>
    let offs := s.accessOffsets cx f 16 false false true
    s.handleAccess cx f.h.toNat rR 16 16 offs (fun h => { Access.start .hld (objElems h 16 offs (fun _ => [])) with
      size := 16, dst := f.d.toNat, scalar := true })) s
/-- HST (R281): the tag follows the register's valid bit. -/
def execHst (f : MForm) (s : State) : Host.Outcome State Fault Refusal :=
  issue (.hst f) .any (fun cx s =>
    let offs := s.accessOffsets cx f 16 false false true
    let x := s.opH cx.k cx.e f.d.toNat
    s.handleAccess cx f.h.toNat rW 16 16 offs (fun h =>
      { Access.start .hst ((objElems h 16 offs (fun _ => leBytes 16 x.bits.toNat)).map (fun el => { el with tag := x.valid })) with
        size := 16, scalar := true })) s

end Sys2Proof.Machine
end

