-- ==== Sys2Proof/Machine/Copy.lean ====
section
/-! DEFINITION. The asynchronous copy engine (09 R253-R258, 10 R275) and ring pushes (12 R291). -/

namespace Sys2Proof.Machine

/-! ### The descriptor (R253, R254) -/

def dBits (d : List Byte) (lo n : Nat) : Nat := field (leNat (d.take 64)) lo n
/-- Dimension entry `i`: extent, source limit, source and destination stride. -/
def dDim (d : List Byte) (i : Nat) : Nat := leNat ((d.drop (64 + 16 * i)).take 16)
def dExt (d : List Byte) (i : Nat) : Nat := field (dDim d i) 96 32
def dSlim (d : List Byte) (i : Nat) : Nat := field (dDim d i) 64 32
def dSstr (d : List Byte) (i : Nat) : Int := sext 32 (field (dDim d i) 32 32)
def dDstr (d : List Byte) (i : Nat) : Int := sext 32 (field (dDim d i) 0 32)
def dSrcOff (d : List Byte) : Nat := dBits d 472 40
def dDstOff (d : List Byte) : Nat := dBits d 432 40
def dBar (d : List Byte) : Nat := dBits d 400 32
def dNdim (d : List Byte) : Nat := dBits d 396 4
def dEsize (d : List Byte) : Nat := dBits d 393 3
def dSrcKind (d : List Byte) : Nat := dBits d 391 2
def dDstKind (d : List Byte) : Nat := dBits d 389 2
def dSrcReg (d : List Byte) : Nat := dBits d 384 5
def dDstReg (d : List Byte) : Nat := dBits d 379 5
def dXpose (d : List Byte) : Nat := dBits d 377 2
def dZfill (d : List Byte) : Bool := dBits d 376 1 == 1
def dRing (d : List Byte) : Bool := dBits d 375 1 == 1
def dRnum (d : List Byte) : Nat := dBits d 372 3

/-- Elements of a copy. -/
def dCount (d : List Byte) : Nat := (List.range (dNdim d)).foldl (fun n i => n * dExt d i) 1
/-- The index vector of a linear index, dimension 0 fastest. -/
def dIndex (d : List Byte) : Nat → Nat → Nat → List Nat
  | 0, _, _ => []
  | n + 1, i, x => let e := max (dExt d i) 1; (x % e) :: dIndex d n (i + 1) (x / e)
def dVec (d : List Byte) (x : Nat) : List Nat := dIndex d (dNdim d) 0 x
/-- The destination's index vector (R255). -/
def dSwap (d : List Byte) (v : List Nat) : List Nat :=
  if dXpose d = 0 then v
  else match v with
    | a :: b :: t => b :: a :: t
    | v => v
def dSum (v : List Nat) (str : Nat → Int) : Int := v.zipIdx.foldl (fun n p => n + (p.1 : Int) * str p.2) 0
/-- `sa` and `da` of element `x` (R255). -/
def dSa (d : List Byte) (x : Nat) : Int := (dSrcOff d : Int) + dSum (dVec d x) (dSstr d)
def dDa (d : List Byte) (x : Nat) : Int := (dDstOff d : Int) + dSum (dSwap d (dVec d x)) (dDstr d)

/-- Checks 0x01 to 0x06 of R256. -/
def State.descReason (s : State) (b : Nat) (d : List Byte) : Option Nat :=
  let n := dNdim d
  if dBits d 0 8 ≠ 1 || dBits d 8 364 ≠ 0 || n = 0 || 12 < n || 4 < dEsize d || !(List.range 12).all (fun i => decide (i < n) || dDim d i == 0) ||
     (dSrcKind d ≠ 0 && dSrcReg d ≠ 0) || (dDstKind d ≠ 0 && dDstReg d ≠ 0) || (!dRing d && dRnum d ≠ 0) then some 1
  else if !((dSrcKind d == 0 && dDstKind d == 1) || (dSrcKind d == 1 && decide (dDstKind d ≤ 1))) then some 2
  else if dXpose d ≠ 0 && (n < 2 || dXpose d = 3 || dEsize d + 1 ≠ dXpose d) then some 3
  else if dRing d && dDstKind d ≠ 1 then some 4
  else if dBar d % 16 ≠ 0 || !s.inSpm b (dBar d) 16 then some 5
  else if 2 ^ 32 ≤ dCount d * 2 ^ dEsize d then some 6
  else none

/-- The span of one side (R256): from the least address to past the greatest. -/
def dSpan (d : List Byte) (off : Nat) (exts : List Nat) (str : Nat → Int) : Int × Int :=
  exts.zipIdx.foldl (fun r p =>
    let m : Int := ((p.1 : Int) - 1) * str p.2
    (r.1 + min m 0, r.2 + max m 0)) ((off : Int), (off : Int) + (2 ^ dEsize d : Nat))
def dExts (d : List Byte) : List Nat := (List.range (dNdim d)).map (dExt d)

/-- The source and destination places of a copy. -/
def copySpans (d : List Byte) (src dst : HandleReg) (r : Ring) : List Place :=
  if dCount d = 0 then []
  else
    let a := dSpan d (dSrcOff d) (dExts d) (dSstr d)
    let b := dSpan d (dDstOff d) (dSwap d (dExts d)) (dDstr d)
    let place (kind : Nat) (h : HandleReg) (p : Int × Int) : Place :=
      if kind = 0 then (some h.obj, p.1 + h.base, p.2 + h.base) else (none, p.1, p.2)
    [place (dSrcKind d) src a,
     if dRing d then (none, (r.base : Int), (r.base : Int) + ((128 * r.tsize * r.cap : Nat) : Int)) else place (dDstKind d) dst b]

/-- Dead-read and poison checks of the handle registers that a descriptor names (R275 step 4). -/
def State.descRegTrap (s : State) (k e r : Nat) : Option TrapInfo :=
  let info := r + 0x3F * 256
  if s.isDead k e .h r then some { cause := 0x03, info := info }
  else if r != 0 && (s.sub k e).hPz.getLsbD r then some { cause := 0x05, info := info }
  else none
/-- Steps 1, 2 and 5 of R57 on a copy's handle. -/
def State.descHandleTrap (s : State) (k r : Nat) (h : HandleReg) (need : Nat) : Option TrapInfo :=
  (s.checkHandle k h r need 0 1 [(0, 0)]).map (fun t => { t with fmask := 0, addr := 0 })

/-- CP_GO (R275). -/
def execCpGo (f : XForm) (s : State) : Host.Outcome State Fault Refusal :=
  issue (.cpGo f) .any (fun cx s =>
    let b := (s.group cx.k).block
    let at_ := (s.opS cx.k cx.e f.xb).toNat
    match s.checkSpm b 256 16 true [(0, (at_ : Int))] with
    | some t => .trap s { t with fmask := 0 }
    | none =>
      match s.rangeHold b [(none, (at_ : Int), (at_ : Int) + 256)] with
      | some i => .wait s 0x07 i 0
      | none =>
        match firstBelow (fun i => !s.copies.any (fun c => c.block == b && c.entry == i)) 16 with
        | none => .wait s 0x07 16 0
        | some entry =>
          match s.wakeFor b [at_, at_ + 255] with
          | some s => .stall s
          | none =>
            if (List.range 16).any (fun i => s.ownBusy cx.k (s.spmAt b (at_ + 16 * i)) 16) then .stall s
            else
            let d := (List.range 256).map (fun i => (s.ownBytes cx.k (s.spmAt b (at_ + i)) 1).headD 0)
            let bad (r : Nat) : Eff := .trap s { cause := 0x13, addr := at_, info := r * 2 ^ 24 }
            match s.descReason b d with
            | some r => bad r
            | none =>
              let regs := (if dSrcKind d = 0 then [dSrcReg d] else []) ++ (if dDstKind d = 0 then [dDstReg d] else [])
              match regs.findSome? (s.descRegTrap cx.k cx.e) with
              | some t => .trap s t
              | none =>
                let sh := s.opH cx.k cx.e (dSrcReg d)
                let dh := s.opH cx.k cx.e (dDstReg d)
                match (if dSrcKind d = 0 then s.descHandleTrap cx.k (dSrcReg d) sh (rR + rC) else none).orElse (fun _ =>
                    if dDstKind d = 0 then s.descHandleTrap cx.k (dDstReg d) dh (rW + rC) else none) with
                | some t => .trap s t
                | none =>
                  let spans := copySpans d sh dh (tget {} (s.block b).rings (dRnum d))
                  let clash := match spans with
                    | [p, q] => p.1 == q.1 && decide (p.2.1 < q.2.2) && decide (q.2.1 < p.2.2)
                    | _ => false
                  if clash then bad 7
                  else if dCount d = 0 then .ok s [] 1
                  else
                    let (id, s) := s.fresh
                    let y : Copy := {
                      id := id, block := b, ctx := s.ctxOf cx.k, desc := d, srcH := sh, dstH := dh, srcReg := dSrcReg d, dstReg := dDstReg d
                      entry := entry, spans := spans, after := s.earlier cx.k (fun a => a.kind.inLoads || a.kind.inStores) }
                    .ok ({ s with copies := s.copies ++ [y] }.post .copyStart { a := id }) [] 1) s

/-! ### Running copies (R257, R258) -/

def State.copy (s : State) (id : Nat) : Option Copy := s.copies.find? (fun c => c.id == id)
def State.setCopy (s : State) (y : Copy) : State := { s with copies := s.copies.map (fun c => if c.id = y.id then y else c) }
def State.ring (s : State) (b r : Nat) : Ring := tget {} (s.block b).rings r
def State.setRing (s : State) (b r : Nat) (x : Ring) : State := s.setBlock b { s.block b with rings := tput (s.block b).rings r x }
/-- A ring that can be used (R290). -/
def Ring.usable (r : Ring) : Bool := r.en && !r.flt
/-- Scratchpad offset of a tile. -/
def Ring.tileAt (r : Ring) (t : Nat) : Nat := r.base + 128 * r.tsize * t
/-- A take (R291): the tail tile; `who` names its writer: 0 a group that took it by `rpush .res`, 1 one that finishes it, 2 a drain,
3 and up a copy. -/
def Ring.take (r : Ring) (who : Nat) : Ring × Nat :=
  let t := (r.head + r.full + r.rsv) % r.cap
  ({ r with rsv := r.rsv + 1, taken := r.taken ++ [(t, who, false)] }, t)
def Ring.isFull (r : Ring) : Bool := decide (r.cap ≤ r.full + r.rsv)
/-- A tile's writer has finished. -/
def Ring.written (r : Ring) (t : Nat) : Ring := { r with taken := r.taken.map (fun x => if x.1 = t then (x.1, x.2.1, true) else x) }

/-- COPY_START (R257): in issue order on its core, after the accesses that precede it (R350), when its ring can take a tile. -/
def State.copyBegin (s : State) : State :=
  match s.copy s.arg.a with
  | none => s
  | some y =>
    let u := unitOfBlock y.block
    if s.copies.any (fun c => unitOfBlock c.block == u && decide (c.id < y.id) && !c.started) ||
        s.accesses.any (fun a => y.after.contains a.id) then s.again .copyStart
    else
      let go (s : State) (y : Copy) : State :=
        (s.setCopy { y with started := true, left := List.range (dCount y.desc) }).post .copyLineLanded { a := y.id }
      if dRing y.desc then
        let r := s.ring y.block (dRnum y.desc)
        if !r.usable then (s.setCopy { y with started := true, failed := some (0, 0x17) }).post .copyFault { a := y.id }
        else if r.isFull then s.again .copyStart
        else
          let (r', t) := r.take (y.id + 3)
          go (s.setRing y.block (dRnum y.desc) r') { y with tile := some t, ringBase := r.tileAt t }
      else go s y

/-- One side of an element: the keys of its bytes, or the reason it fails, or the need to pause. -/
inductive Side where
  | keys (ks : List Nat)
  | bad
  | pause
  deriving DecidableEq, Repr

/-- The places of `n` bytes at handle offset `o` for the copy engine: extents with loc 3 or ord 1 are never reached (R256). Bytes past the end of
the first byte's extent lie in the next (R53). -/
def State.copyPort (s : State) (ctx : Nat) (h : HandleReg) (o n : Nat) : Side × State :=
  let a := h.base + o
  let one := (a + n - 1) / 65536 == a / 65536
  let (w, s) := s.walk ctx h.obj h.gen a false
  let (w', s) := if one then (w, s) else s.walk ctx h.obj h.gen (a + n - 1) false
  match w, w' with
  | .ok x, .ok x' =>
    let ks := (List.range n).filterMap (fun i => match s.locOf ctx (if (a + i) / 65536 = a / 65536 then x else x') (a + i) with
      | .mem k => some k
      | _ => none)
    if extOrd x || extOrd x' || ks.length ≠ n then (.bad, s) else (.keys ks, s)
  | .fail 8, .ok _ => (.pause, s)
  | .ok _, .fail 8 => (.pause, s)
  | .fail 8, .fail 8 => (.pause, s)
  | _, _ => (.bad, s)

/-- What an element does: moves a byte, fails, or pauses at a side. -/
inductive Land where
  | ok (s : State)
  | fail (s : State) (reason : Nat)
  | pause (s : State) (atSource : Bool)
  deriving DecidableEq, Repr

/-- The block's scratchpad offset at which a copy's element is written, where it is (R253, R289). -/
def Copy.spmDst (y : Copy) (x : Nat) : Option Int :=
  if dRing y.desc then some ((y.ringBase : Int) + dDa y.desc x) else if dDstKind y.desc = 1 then some (dDa y.desc x) else none
/-- The element lies outside its source (R255). -/
def State.srcOutside (s : State) (y : Copy) (x : Nat) : Bool :=
  let e : Nat := 2 ^ dEsize y.desc
  let sa := dSa y.desc x
  if dSrcKind y.desc = 0 then decide (sa < 0) || decide ((y.srcH.len : Int) < sa + e) else !s.inSpm y.block sa e
/-- The element is zero-filled (R255). -/
def State.zeroFilled (s : State) (y : Copy) (x : Nat) : Bool :=
  dZfill y.desc && ((dVec y.desc x).zipIdx.any (fun p => decide (dSlim y.desc p.2 ≤ p.1)) || s.srcOutside y x)
/-- The block's scratchpad offsets that an element reads and writes, as far as they lie in the acquisition. -/
def State.copyOffs (s : State) (y : Copy) (x : Nat) : List Nat :=
  let e : Nat := 2 ^ dEsize y.desc
  let sa := dSa y.desc x
  (if dSrcKind y.desc = 1 && !s.zeroFilled y x && s.inSpm y.block sa e then [sa.toNat] else []) ++
    (match y.spmDst x with
     | some o => if s.inSpm y.block o e then [o.toNat] else []
     | none => [])

/-- `n` bytes of a block's scratchpad. -/
def State.spmKeys (s : State) (b o n : Nat) : List Nat := (List.range n).map (fun i => s.spmAt b (o + i))

/-- Byte `i` of `Copy_Element` (R255) for linear index `x`; with `last` the element has landed whole, and a granule that it covers is no longer
poisoned (R458). -/
def State.copyByte (s : State) (y : Copy) (x i : Nat) (last : Bool) : Land :=
  let d := y.desc
  let e : Nat := 2 ^ dEsize d
  let b := y.block
  let u := unitOfBlock b
  let sa := dSa d x
  let da := dDa d x
  let outside := s.srcOutside y x
  let zero := s.zeroFilled y x
  let (src, s) :=
    if zero then (Side.keys [], s)
    else if outside then (.bad, s)
    else if dSrcKind d = 0 then s.copyPort y.ctx y.srcH sa.toNat e
    else (.keys (s.spmKeys b sa.toNat e), s)
  let r := s.ring b (dRnum d)
  let dstOut :=
    if dRing d then decide (da < 0) || decide ((128 * r.tsize : Nat) < da + e)
    else if dDstKind d = 0 then decide (da < 0) || decide ((y.dstH.len : Int) < da + e) else !s.inSpm b da e
  let lost := dRing d && (!r.usable || (!dstOut && !s.inSpm b ((y.ringBase : Int) + da) e))
  let (dst, s) :=
    if dstOut || lost then (Side.bad, s)
    else match y.spmDst x with
      | some o => (.keys (s.spmKeys b o.toNat e), s)
      | none => s.copyPort y.ctx y.dstH da.toNat e
  let pz := match src with
    | .keys ks => ks.any (fun k => s.poisoned k 1)
    | _ => false
  let reasons :=
    (if !zero && outside then [0x10] else []) ++ (if dstOut then [0x11] else []) ++
    (if (!zero && sa % (e : Int) ≠ 0) || da % (e : Int) ≠ 0 then [0x12] else []) ++
    (if !zero && !outside && src == Side.bad then [0x13] else []) ++ (if !dstOut && !lost && dst == Side.bad then [0x14] else []) ++
    (if !zero && !outside && dSrcKind d = 1 && s.anyDropped b sa.toNat e then [0x15] else [])
  match reasons with
  | rr :: _ => .fail s rr
  | [] =>
    match src, dst with
    | .pause, _ => .pause s true
    | _, .pause => .pause s false
    | .keys ks, .keys ds =>
      let a := y.srcH.base + sa.toNat + i
      let ((v, bad), s) : (Byte × Bool) × State := match ks[i]? with
        | none => ((0, false), s)
        | some k =>
          if dSrcKind d = 0 && kindOfUnit u == CoreKind.stream && !s.cacheFenced u then
            let s := match s.walk y.ctx y.srcH.obj y.srcH.gen a false with
              | (.ok ext, s) =>
                if fillable u ext && (s.findLine u y.ctx y.srcH.obj y.srcH.gen a).isNone then s.fillLine u y.ctx y.srcH.obj y.srcH.gen a ext else s
              | (_, s) => s
            s.readVia u y.ctx y.srcH.obj y.srcH.gen a k
          else ((s.byte k, pz), s)
      if bad then .fail s 0x16
      else if lost then .fail s 0x17
      else
        let k := ds.getD i 0
        let s := s.writeAt k [v]
        .ok (if last && e = 16 then { s with poison := s.poison.filter (fun g => 16 * g != ds.headD 0) } else s)
    | _, _ => .fail s (if lost then (if pz then 0x16 else 0x17) else 0x14)

/-- What a record says of a block (R405). -/
def State.blockRec (s : State) (b : Nat) : Rec :=
  let x := s.block b
  { launch := x.launch, block := x.idx, unit := unitOfBlock b, region := x.rv.num, ctx := x.ctx }

/-- Two elements of a copy write a byte in common. -/
def sameBytes (d : List Byte) (x y : Nat) : Bool :=
  let e : Int := (2 ^ dEsize d : Nat)
  decide (dDa d x < dDa d y + e) && decide (dDa d y < dDa d x + e)

/-- COPY_LINE_LANDED (R257, R258, R348): one byte, of an element and in it of free choices; an element waits for those below it that write
its bytes, and for its banks (R154, R265); a failing element leaves only those below it to be completed or checked.
(DESIGN CHOICE, notes/assumptions 55; safe.) -/
def State.copyLand (s : State) : State :=
  match s.copy s.arg.a with
  | none => s
  | some y =>
    if y.paused then s
    else
      let (i, s) := s.choose y.left.length
      match y.left[i]? with
      | none => s.post (if y.failed.isSome then .copyFault else .copyComplete) { a := y.id }
      | some x =>
        let next (s : State) (y : Copy) : State :=
          (s.setCopy y).post (if !y.left.isEmpty then .copyLineLanded else if y.failed.isSome then .copyFault else .copyComplete) { a := y.id }
        let e := 2 ^ dEsize y.desc
        let todo := (tfind y.part x).getD (List.range e)
        let offs := s.copyOffs y x
        if y.left.any (fun w => decide (w < x) && sameBytes y.desc w x) || offs.any (fun o => s.bankHeld s.nextId (s.spmAt y.block o)) then
          s.again .copyLineLanded
        else match s.wakeFor y.block offs with
        | some s => s.again .copyLineLanded
        | none =>
          let (c, s) := s.choose todo.length
          let n := todo.getD c 0
          let todo := todo.filter (· != n)
          match s.copyByte y x n todo.isEmpty with
          | .ok s =>
            if todo.isEmpty then next (s.barUpdate y.block (dBar y.desc) (.landing e)) { y with left := y.left.filter (· != x), part := tdel y.part x }
            else next s { y with part := tput y.part x todo }
          | .fail s r => next s { y with left := y.left.filter (fun w => decide (w < x)), failed := some (x, r) }
          | .pause s src =>
            let h := if src then y.srcH else y.dstH
            let o := if src then dSa y.desc x else dDa y.desc x
            (s.setCopy { y with paused := true, stuck := some (h.obj, h.base + o.toNat) }).record y.ctx 3 { s.blockRec y.block with
              cause := 5 * 2 ^ 28 + 3 * 2 ^ 16 + 0x11, info := 8 * 2 ^ 24 + (if src then y.srcReg else y.dstReg), fmask := 1
              addr := bitsOf 64 o, word := h.obj * 2 ^ 40 + (h.base + o.toNat) }

/-- COPY_COMPLETE (R257): its entry is freed, and a ring copy's tile is written. -/
def State.copyDone (s : State) : State :=
  match s.copy s.arg.a with
  | none => s
  | some y =>
    let s := { s with copies := s.copies.filter (fun c => c.id != y.id) }
    match y.tile with
    | none => s
    | some t => (s.setRing y.block (dRnum y.desc) ((s.ring y.block (dRnum y.desc)).written t)).post .ringPush { a := y.block, b := dRnum y.desc }

/-- COPY_FAULT (R258): the barrier is faulted and the block's record filled, or its count raised. -/
def State.copyStop (s : State) : State :=
  match s.copy s.arg.a with
  | none => s
  | some y =>
    let (x, r) := y.failed.getD (0, 0)
    let s := { s with copies := s.copies.filter (fun c => c.id != y.id) }
    let b := s.block y.block
    let fault : CopyFault := match b.copyFault with
      | none => ⟨dSa y.desc x, dDa y.desc x, r, 0⟩
      | some c => { c with count := min (c.count + 1) 255 }
    (s.setBlock y.block { b with copyFault := some fault }).barUpdate y.block (dBar y.desc) (.fault 1)

/-- Stores of group `k` named below `id` to block offsets `lo` to `hi`, not yet performed. -/
def State.storesTo (s : State) (k id lo hi : Nat) : Bool :=
  s.accesses.any (fun a => a.group == k && decide (a.id < id) && a.kind.inStores && a.local_ &&
    a.elems.any (fun el => decide (el.obj < hi) && decide (lo < el.obj + el.n)))

/-- RING_PUSH (R291): the oldest taken tile, once written, moves from rsv to full; a push by `rpush .fin` counts its bytes at the
ring's barrier. With the flag, a group first finishes tile `c`, once its stores to it named below `d` are performed (R313). -/
def State.pushTile (s : State) : State :=
  let r := s.ring s.arg.a s.arg.b
  if s.arg.flag && s.storesTo (leNat s.arg.data) s.arg.d (r.tileAt s.arg.c) (r.tileAt (s.arg.c + 1)) then s.again .ringPush
  else
  let s := if s.arg.flag then s.setRing s.arg.a s.arg.b (r.written s.arg.c) else s
  let r := s.ring s.arg.a s.arg.b
  match r.taken with
  | (_, who, true) :: rest =>
    let s := s.setRing s.arg.a s.arg.b { r with taken := rest, rsv := r.rsv - 1, full := r.full + 1 }
    let s := if who = 1 && r.bar ≠ 0xFFFFFFFF then s.barUpdate s.arg.a r.bar (.landing (128 * r.tsize)) else s
    match rest with
    | (_, _, true) :: _ => s.again .ringPush
    | _ => s
  | _ => s

def execCopyStart (s : State) : Host.Outcome State Fault Refusal := event State.copyBegin s
def execCopyLineLanded (s : State) : Host.Outcome State Fault Refusal := event State.copyLand s
def execCopyComplete (s : State) : Host.Outcome State Fault Refusal := event State.copyDone s
def execCopyFault (s : State) : Host.Outcome State Fault Refusal := event State.copyStop s
def execRingPush (s : State) : Host.Outcome State Fault Refusal := event State.pushTile s

end Sys2Proof.Machine
end

