-- ==== Sys2Proof/Machine/Barriers.lean ====
section
/-! DEFINITION. Barrier objects and instructions (13 R318-R331), the issue of atomics and semaphore instructions (R332-R339). -/

namespace Sys2Proof.Machine

/-! ### Barrier objects (R318-R320), as 128-bit numbers -/

def bPhase (x : Nat) : Nat := field x 32 32
def bPparty (x : Nat) : Nat := field x 64 16
def bEparty (x : Nat) : Nat := field x 80 16
def bPbytes (x : Nat) : Int := sext 32 (field x 96 32)
def bState (x : Nat) : Nat := field x 20 4
/-- Well formed (R318). -/
def bWf (x : Nat) : Bool := field x 24 8 == 0xB7 && decide (bState x ≤ 3) && field x 0 20 == 0 && decide (bPparty x ≤ bEparty x)
/-- The object that `binit` writes (R326). -/
def bInit (parties : Nat) : Nat := parties % 65536 * 2 ^ 80 + parties % 65536 * 2 ^ 64 + 0xB7 * 2 ^ 24

/-- `Set_Fault` (R320). -/
def bFault (x f : Nat) : Nat := if bState x = 0 then putField x 20 4 f else x
/-- `Party` (R320). -/
def bParty (x : Nat) (dp de : Int) : Nat :=
  let p := (bPparty x : Int) + dp
  let e := (bEparty x : Int) + de
  if p < 0 || e < p then bFault x 3 else putField (putField x 64 16 p.toNat) 80 16 e.toNat
/-- `Bytes` (R320). -/
def bBytes (x : Nat) (d : Int) : Nat :=
  let b := bPbytes x + d
  if b < -(2 ^ 31) || 2 ^ 31 - 1 < b then bFault x 3 else putField x 96 32 (bitsOf 32 b)
/-- A phase completes (R320). -/
def bComplete (x : Nat) : Nat :=
  if bState x = 0 && bPparty x = 0 && bPbytes x = 0 then putField (putField x 32 32 (bPhase x + 1)) 64 16 (bEparty x) else x

/-! ### Registration (R323) -/

def regValid (x : W64) : Bool := x.getLsbD 0
def regArr (x : W64) : Bool := x.getLsbD 1
def regOff (x : W64) : Nat := field x.toNat 4 28 * 16
def regPhase (x : W64) : Nat := field x.toNat 32 32
/-- The group's entry for barrier `b`. -/
def Group.regFor (g : Group) (b : Nat) : Option Nat := firstBelow (fun i => regValid (tget 0 g.reg i) && regOff (tget 0 g.reg i) == b) 16
def State.setReg (s : State) (k i : Nat) (x : W64) : State :=
  let g := s.group k
  s.setGroup k { g with reg := tput g.reg i x }

/-! ### A barrier cycle (R320, R321) -/

/-- The object at a block scratchpad offset. -/
def State.barAt (s : State) (b off : Nat) : Nat := s.num (s.spmAt b off) 16
/-- Updates reach the object (R321). -/
def State.barLive (s : State) (b off : Nat) : Bool := off % 16 == 0 && s.inSpm b off 16 && !s.dropped b off && bWf (s.barAt b off)

/-- The class and order of an update within a cycle: drops, arrivals, the rest in arrival order, faults, a copy's first (R341). -/
def BarUpdate.rank : BarUpdate → Nat × Nat
  | .drop g imp _ _ => (0, (if imp then 64 else 0) + g)
  | .arrive o _ _ _ _ => (1, o)
  | .expect _ _ => (2, 0)
  | .landing _ => (2, 0)
  | .fault f => (3, f)
def insertUpdate (u : BarUpdate) : List BarUpdate → List BarUpdate
  | [] => [u]
  | v :: t => if u.rank.1 < v.rank.1 || (u.rank.1 == v.rank.1 && u.rank.2 < v.rank.2) then u :: v :: t else v :: insertUpdate u t

/-- One update of object `x` of block `b`; with `live` false it is discarded (R321). -/
def State.applyUpdate (s : State) (b off : Nat) (live : Bool) (x : Nat) (u : BarUpdate) : Nat × State :=
  let discard (s : State) : State := s.setBlock b { s.block b with discards := (s.block b).discards + 1 }
  match u with
  | .drop _ _ k a =>
    let g := s.group k
    let i := g.regFor off
    let arrived := match i with
      | some i => regArr (tget 0 g.reg i) && regPhase (tget 0 g.reg i) == bPhase x
      | none => false
    let s := if live then s else discard s
    let s := match i with
      | some i => s.setReg k i 0
      | none => s
    (if !live then x else if arrived then bParty x 0 (-1) else bParty x (-1) (-1), s.complete a [])
  | .arrive _ e l k a =>
    let wrs := match a with
      | some a => if live then (match s.access a with | some c => wrS c.dst 1 (bPhase x) | none => []) else []
      | none => []
    let s := if live then
        match k with
        | some k =>
          match (s.group k).regFor off with
          | some i => s.setReg k i (BitVec.ofNat 64 (bPhase x * 2 ^ 32 + off + 3))
          | none => s
        | none => s
      else discard s
    let s := match a with
      | some a => s.complete a wrs
      | none => s
    (if live then bParty (bBytes x ((e : Int) - l)) (-1) 0 else x, s)
  | .expect n a => (if live then bBytes x n else x, (if live then s else discard s).complete a [])
  | .landing n => (if live then bBytes x (-(n : Int)) else x, if live then s else discard s)
  | .fault f => (if live then bFault x f else x, if live then s else discard s)

/-- BARRIER_CYCLE (R320): the updates that have reached the object are applied in order, and a phase completes where it is due. -/
def State.barCycle (s : State) : State :=
  let b := s.arg.a
  let off := s.arg.b
  let x := s.block b
  let us := ((x.updates.filter (fun u => u.1 == off)).map (·.2)).foldl (fun l u => insertUpdate u l) []
  match (if us.isEmpty || !s.inSpm b off 16 then none else s.wakeFor b [off]) with
  | some s => s.again .barrierCycle
  | none =>
    let s := s.setBlock b { x with updates := x.updates.filter (fun u => u.1 != off) }
    if us.isEmpty then s
    else
      let live := s.barLive b off
      let (v, s) := us.foldl (fun r u => r.2.applyUpdate b off live r.1 u) (s.barAt b off, s)
      if live then s.write (s.spmAt b off) (leBytes 16 (bComplete v)) else s
def execBarrierCycle (s : State) : Host.Outcome State Fault Refusal := event State.barCycle s

/-! ### Barrier instructions (R324-R331) -/

/-- The object as the group sees it: its own earlier stores first. -/
def State.barSeen (s : State) (k off : Nat) : Nat := leNat (s.ownBytes k (s.spmAt (s.group k).block off) 16)
/-- The group's own earlier operations on the object's bytes have still to be performed (notes/assumptions 24). -/
def State.barBusy (s : State) (k off : Nat) : Bool := s.ownBusy k (s.spmAt (s.group k).block off) 16

/-- Checks 1 to 3 of R325. -/
def State.barPlace (s : State) (k off : Nat) (live : Bool) : Option TrapInfo :=
  let b := (s.group k).block
  if off % 16 ≠ 0 then some { cause := 0x09, addr := off }
  else if !s.inSpm b off 16 then some { cause := 0x0A, addr := off }
  else if live && s.dropped b off then some { cause := 0x03, addr := off }
  else none

/-- A barrier instruction that has passed R325 goes on in `f`; `form` asks for check 4. -/
def barrierOp (off : Nat) (live form : Bool) (f : Cx → State → Eff) (cx : Cx) (s : State) : Eff :=
  match s.barPlace cx.k off live with
  | some t => .trap s t
  | none =>
    match s.rangeHold (s.group cx.k).block [(none, (off : Int), (off : Int) + 16)] with
    | some i => .wait s 0x07 i 0
    | none =>
      match s.wakeFor (s.group cx.k).block [off] with
      | some s => .stall s
      | none =>
        if form && s.barBusy cx.k off then .stall s
        else if form && !bWf (s.barSeen cx.k off) then .trap s { cause := 0x16, addr := off, info := 2 ^ 24 }
        else f cx s

/-- The access of a barrier instruction in the store queue, over the object's bytes. -/
def State.barAccess (s : State) (cx : Cx) (off : Nat) (kind : AccKind) (after : List Nat) (dst : Nat) : Eff :=
  let b := (s.group cx.k).block
  .ok (s.newAccess cx { Access.start kind [{ lane := 0, off := off, obj := off, n := 16, loc := .mem (s.spmAt b off) }] with
    accepted := true, local_ := true, after := after, dst := dst, scalar := true, size := 16 }) [] 1

/-- BINIT (R326). -/
def execBinit (f : XForm) (s : State) : Host.Outcome State Fault Refusal :=
  issue (.binit f) .any (fun cx s =>
    let off := (s.opS cx.k cx.e f.xb).toNat
    let n := (s.opS cx.k cx.e f.xc).toNat
    barrierOp off false false (fun cx s =>
      if 0xFFFF < n then .trap s { cause := 0x16, addr := off, info := 4 * 2 ^ 24 }
      else s.barAccess cx off (.binit off n (f.mod.getLsbD 0)) [] 0) cx s) s
/-- BJOIN (R327). -/
def execBjoin (f : XForm) (s : State) : Host.Outcome State Fault Refusal :=
  issue (.bjoin f) .any (fun cx s =>
    let off := (s.opS cx.k cx.e f.xb).toNat
    barrierOp off true true (fun cx s =>
      let g := s.group cx.k
      if (g.regFor off).isSome then .ok s [] 1
      else match firstBelow (fun i => !regValid (tget 0 g.reg i)) 16 with
        | none => .trap s { cause := 0x16, addr := off, info := 3 * 2 ^ 24 }
        | some i => .ok (s.setReg cx.k i (BitVec.ofNat 64 (off + 1))) [] 1) cx s) s
/-- BLEAVE (R327). -/
def execBleave (f : XForm) (s : State) : Host.Outcome State Fault Refusal :=
  issue (.bleave f) .any (fun cx s =>
    let off := (s.opS cx.k cx.e f.xb).toNat
    barrierOp off true false (fun cx s =>
      match (s.group cx.k).regFor off with
      | some i => .ok (s.setReg cx.k i 0) [] 1
      | none => .ok s [] 1) cx s) s
/-- BARR (R328). -/
def execBarr (f : XForm) (s : State) : Host.Outcome State Fault Refusal :=
  issue (.barr f) .slot (fun cx s =>
    let off := (s.opS cx.k cx.e f.xb).toNat
    let n := (s.opS cx.k cx.e f.xc).toNat
    barrierOp off true true (fun cx s =>
      if 0x7FFFFFFF < n then .trap s { cause := 0x16, addr := off, info := 4 * 2 ^ 24 }
      else s.barAccess cx off (.barr off n) (s.releaseAfter cx.k (mf f.mod 0 3)) f.xa.toNat) cx s) s
/-- BDROP (R328). -/
def execBdrop (f : XForm) (s : State) : Host.Outcome State Fault Refusal :=
  issue (.bdrop f) .any (fun cx s =>
    let off := (s.opS cx.k cx.e f.xb).toNat
    barrierOp off true true (fun cx s => s.barAccess cx off (.bdrop off) (s.releaseAfter cx.k (mf f.mod 0 3)) 0) cx s) s
/-- BEXP (R329). -/
def execBexp (f : XForm) (s : State) : Host.Outcome State Fault Refusal :=
  issue (.bexp f) .any (fun cx s =>
    let off := (s.opS cx.k cx.e f.xb).toNat
    let n := (s.opS cx.k cx.e f.xc).toNat
    barrierOp off true true (fun cx s =>
      if 0x7FFFFFFF < n then .trap s { cause := 0x16, addr := off, info := 4 * 2 ^ 24 }
      else s.barAccess cx off (.bexp off n) [] 0) cx s) s

/-- The trap of a `bwait` on a faulted object (R330, R258, R305), with the block's copy fault record emptied. -/
def State.barFaultTrap (s : State) (k off x : Nat) : TrapInfo × State :=
  let b := (s.group k).block
  let y := s.block b
  match bState x with
  | 1 =>
    match y.copyFault with
    | some c => ({ cause := 0x13, src := 3, addr := bitsOf 64 c.srcOff, addr2 := bitsOf 64 c.dstOff, info := c.reason * 2 ^ 24 + c.count * 2 ^ 16 },
                 s.setBlock b { y with copyFault := none })
    | none => ({ cause := 0x13, src := 3 }, s)
  | 2 =>
    let (upc, o, reason, routine, slot) := tget (0, 0, 0, 0, 0) y.routineFault off
    ({ cause := 0x15, src := 4, addr := upc, addr2 := o, info := reason * 2 ^ 24 + routine * 2 ^ 16 + slot * 2 ^ 8 }, s)
  | _ => ({ cause := 0x16, addr := off, info := 2 * 2 ^ 24 }, s)

/-- The wait of a `bwait` has ended: since it began, the object has been seen with another parity, or faulted or malformed (R322, R330). -/
def State.bwaitEnded (s : State) (k e parity : Nat) : Bool :=
  match (s.sub k e).wait with
  | some w => w.watch.isSome && (bitAt w.seen 2 || bitAt w.seen (1 - parity))
  | none => false
/-- A waiting `bwait` watches its object from now on. -/
def State.watchBar (s : State) (k e key : Nat) : State :=
  let x := s.sub k e
  s.setSub k e { x with wait := x.wait.map (fun w => if w.watch.isNone then { w with watch := some key } else w) }
/-- What a look at an object adds to what a `bwait` has seen: bits 0 and 1 its parity, bit 2 a fault or a malformed object. -/
def barSeenAs (x : Nat) : Nat := if !bWf x || bState x ≠ 0 then 4 else 2 ^ (bPhase x % 2)
/-- A watched object is looked at. -/
def WaitRec.look (w : WaitRec) (s : State) : WaitRec :=
  match w.watch with
  | some key => { w with seen := w.seen ||| barSeenAs (s.num key 16) }
  | none => w
/-- Every `bwait` that waits looks at its object, as it stands after each change (R322, R330). -/
def State.lookAll (s : State) : State :=
  { s with groups := s.groups.map (fun (p : Nat × Group) => (p.1, { p.2 with subs := p.2.subs.map (fun (q : Nat × Sub) =>
      (q.1, { q.2 with wait := q.2.wait.map (fun w => w.look s) })) })) }

/-- BWAIT (R330). -/
def execBwait (f : XForm) (s : State) : Host.Outcome State Fault Refusal :=
  issue (.bwait f) .any (fun cx s =>
    let off := (s.opS cx.k cx.e f.xb).toNat
    let parity := (s.opS cx.k cx.e f.xc).toNat % 2
    barrierOp off true true (fun cx s =>
      let x := s.barSeen cx.k off
      if bState x ≠ 0 then
        let (t, s) := s.barFaultTrap cx.k off x
        .trap s t
      else if bPhase x % 2 = parity && !s.bwaitEnded cx.k cx.e parity then
        .stall ((s.waitFor cx.k cx.e 0x01 off (x / 2 ^ 64)).watchBar cx.k cx.e (s.spmAt (s.group cx.k).block off))
      else
        let sc := mf f.mod 0 3
        .ok (if sc = 0 then s else s.hold cx.k (s.earlier cx.k (fun a => a.kind.inLoads)) (wideScope sc)) [] 1) cx s) s
/-- BPOLL (R331): a load of the object's 16 bytes. -/
def execBpoll (f : XForm) (s : State) : Host.Outcome State Fault Refusal :=
  issue (.bpoll f) .slot (fun cx s =>
    let off := (s.opS cx.k cx.e f.xb).toNat
    barrierOp off true false (fun cx s =>
      .ok (s.newAccess cx { Access.start .load (s.spmElems (s.group cx.k).block 16 [(0, (off : Int))] (fun _ => [])) with
        accepted := true, local_ := true, dst := f.xa.toNat, scalar := true, size := 16 }) [] 1) cx s) s

/-! ### Atomics and reductions (R332-R334) -/

/-- Bytes of an operation's data of `n` registers: a control core reads it in scalar class, a quad as registers (R332, R333). -/
def State.atomData (s : State) (cx : Cx) (d : BitVec 8) (n : Nat) (l : Nat) : List Byte :=
  leBytes (4 * n) (if cx.ck == .control then (if n = 4 then s.opQuad cx.k cx.e d else s.opN cx.k cx.e d (n == 2)) else s.laneN cx.k d.toNat n l)

/-- An atomic or reduction through a handle, or in the block's scratchpad. -/
def atomic (f : MForm) (glob ret : Bool) (cx : Cx) (s : State) : Eff :=
  let op := mf f.mod 2 4
  let e := atomSize op
  let ctl := cx.ck == .control
  let f' : MForm := if glob then f else { f with mod := f.mod &&& 1 }
  let offs := s.accessOffsets cx f' e true false ctl
  let data := s.atomData cx f.d (atomSrcRegs op)
  let kind : AccKind := if ret then .atom op else .red op
  if glob then
    s.handleAccess cx f.h.toNat (rR + rW + rA) e e offs (fun h =>
      { Access.start kind (objElems h e offs data) with size := e, dst := f.d.toNat, scalar := ctl }) (s.accessOffset cx f' e true false 0)
  else
    s.spmAccess cx e e true offs { Access.start kind (s.spmElems (s.group cx.k).block e offs data) with size := e, dst := f.d.toNat }

/-- ATOM_G (R334). -/
def execAtomG (f : MForm) (s : State) : Host.Outcome State Fault Refusal := issue (.atomG f) .slot (atomic f true true) s
/-- ATOM_L (R334). -/
def execAtomL (f : MForm) (s : State) : Host.Outcome State Fault Refusal := issue (.atomL f) .slot (atomic f false true) s
/-- RED_G (R334). -/
def execRedG (f : MForm) (s : State) : Host.Outcome State Fault Refusal := issue (.redG f) .any (atomic f true false) s
/-- RED_L (R334). -/
def execRedL (f : MForm) (s : State) : Host.Outcome State Fault Refusal := issue (.redL f) .any (atomic f false false) s

/-! ### Semaphore instructions (R336-R339) -/

/-- The check of a virtual number at issue (R337). -/
def State.semTrap (s : State) (cx : Cx) (n : Nat) : Option TrapInfo :=
  let rv := (s.blockOf cx.k).rv
  let ok := if cx.ck == .control then decide (n < 4096) else decide (rv.semLo ≤ n) && decide (n ≤ rv.semHi)
  if ok then none else some { cause := 0x06, info := 0x20 * 2 ^ 24, addr := n }

/-- A release at a scope, then an addition (R338). -/
def semSignal (n v : Nat) (cx : Cx) (s : State) : Eff :=
  match s.semTrap cx n with
  | some t => .trap s t
  | none => .ok (s.newAccess cx { Access.start (.semSig n (BitVec.ofNat 64 v)) [] with after := s.releaseAfter cx.k 3 }) [] 1

/-- SEM_SIG (R338). -/
def execSemSig (o : SemSigForm) (s : State) : Host.Outcome State Fault Refusal :=
  issue (.semSig o) .any (fun cx s =>
    match o with
    | .x f => semSignal (s.opS cx.k cx.e f.xb).toNat (s.opS64 cx.k cx.e f.xc).toNat cx s
    | .i f => semSignal (s.opS cx.k cx.e f.src0).toNat f.imm.toNat cx s) s
/-- SEM_POLL (R338). -/
def execSemPoll (f : XForm) (s : State) : Host.Outcome State Fault Refusal :=
  issue (.semPoll f) .slot (fun cx s =>
    let n := (s.opS cx.k cx.e f.xb).toNat
    match s.semTrap cx n with
    | some t => .trap s t
    | none => .ok (s.newAccess cx { Access.start (.semPoll n) [] with dst := f.xa.toNat, scalar := true }) [] 1) s
/-- Binding entries of a block in use (R339). -/
def State.bindingsOf (s : State) (b : Nat) : Nat :=
  let x := s.block b
  (s.bindings.filter (fun y => y.launch == x.launch && y.idx == x.idx)).length +
    (s.accesses.filter (fun a => a.block == b && (match a.kind with | .semBind .. => true | _ => false))).length
/-- SEM_BIND (R339). -/
def execSemBind (f : XForm) (s : State) : Host.Outcome State Fault Refusal :=
  issue (.semBind f) .any (fun cx s =>
    let off := (s.opS cx.k cx.e f.xa).toNat
    let n := (s.opS cx.k cx.e f.xb).toNat
    let v := s.opS64 cx.k cx.e f.xc
    if cx.ck == .control then .trap s { cause := 0x0A, addr := off }
    else
      barrierOp off true true (fun cx s =>
        match s.semTrap cx n with
        | some t => .trap s t
        | none =>
          if 16 ≤ s.bindingsOf (s.group cx.k).block then .wait s 0x08 cx.op 0
          else .ok (s.newAccess cx (Access.start (.semBind n v off) [])) [] 1) cx s) s

end Sys2Proof.Machine
end

