-- ==== Sys2Proof/Machine/Resource.lean ====
section
/-! DEFINITION. Resource instructions (07 R200-R206) and the power states of banks (05 R152-R154). -/

namespace Sys2Proof.Machine

/-! ### Acquisitions (R201) -/

/-- The trap of an acquisition of `n` units (R201): more than 16 blocks, or beyond the claim. Blocks granted and not yet within
reach count as owned (notes/assumptions 20). -/
def State.acquireTrap (s : State) (k kind n : Nat) : Option TrapInfo :=
  let b := s.blockOf k
  let p := b.held.add b.asked
  if kind = 0 && decide (16 < n + (s.group k).own.length) || (Res.of kind n).gt (b.claim.sub p) then some { cause := 0x0B } else none

/-- A `.w` acquisition: it takes its slot and asks the checker; of no units it completes at once. -/
def acquireW (kind : Nat) (f : XForm) (cx : Cx) (s : State) : Eff :=
  let n := (s.opS cx.k cx.e f.xb).toNat
  match s.acquireTrap cx.k kind n with
  | some t => .trap s t
  | none =>
    if n = 0 then .ok (s.slotDone cx.k cx.e cx.slot cx.op (wrS f.xa.toNat 1 (if kind = 1 then (s.blockOf cx.k).gran.length * granSize cx.unit else 0))) [] 1
    else
      let (id, s) := s.fresh
      let x := s.sub cx.k cx.e
      let s := s.setSub cx.k cx.e (x.setSlot cx.slot { st := .busy, seq := id, opcode := cx.op, wrs := wrS f.xa.toNat 1 0,
                                                       request := some (Res.of kind n).image })
      .ok (s.request cx.unit ⟨id, (s.group cx.k).block, cx.k, cx.e, kind, n, some cx.slot⟩) [] 1

/-- A `.t` acquisition: it waits before issue until its check has a result, which the writes then carry (R201). -/
def acquireT (kind : Nat) (f : XForm) (cx : Cx) (s : State) : Eff :=
  let n := (s.opS cx.k cx.e f.xb).toNat
  let u := cx.unit
  let key := 8 * cx.k + cx.e
  let c := s.core u
  let out (code : Nat) (more : List Wr) (s : State) : Eff :=
    .ok s (wrS f.xa.toNat 1 code ++ wrP f.xd (if code = 0 then 0xFFFFFFFF else 0) ++ more) 2
  match tfind c.answers key with
  | some r =>
    let s := s.setCore u { c with answers := tdel c.answers key }
    if r % 4 = 0 then
      let (wrs, _, s) := s.assign (s.group cx.k).block cx.k (r / 4 % 4) (r / 16)
      out 0 wrs s
    else out (r % 4) [] s
  | none =>
    let mine (q : Request) : Bool := q.group == cx.k && q.entry == cx.e && q.slot.isNone
    if c.requests.any mine || (match c.check with | some (q, _) => mine q && q.id != 0 | none => false) then .stall s
    else
      match s.acquireTrap cx.k kind n with
      | some t => .trap s t
      | none =>
        if n = 0 then out 0 [] s
        else
          let (id, s) := s.fresh
          .stall (s.request u ⟨id, (s.group cx.k).block, cx.k, cx.e, kind, n, none⟩)

/-- ACQ_REG_W (R201). -/
def execAcqRegW (f : XForm) (s : State) : Host.Outcome State Fault Refusal := issue (.acqRegW f) .any (acquireW 0 f) s
/-- ACQ_REG_T (R201). -/
def execAcqRegT (f : XForm) (s : State) : Host.Outcome State Fault Refusal := issue (.acqRegT f) .any (acquireT 0 f) s
/-- ACQ_SPM_W (R201). -/
def execAcqSpmW (f : XForm) (s : State) : Host.Outcome State Fault Refusal := issue (.acqSpmW f) .any (acquireW 1 f) s
/-- ACQ_SPM_T (R201). -/
def execAcqSpmT (f : XForm) (s : State) : Host.Outcome State Fault Refusal := issue (.acqSpmT f) .any (acquireT 1 f) s
/-- ACQ_MSL_W (R201). -/
def execAcqMslW (f : XForm) (s : State) : Host.Outcome State Fault Refusal := issue (.acqMslW f) .any (acquireW 2 f) s
/-- ACQ_MSL_T (R201). -/
def execAcqMslT (f : XForm) (s : State) : Host.Outcome State Fault Refusal := issue (.acqMslT f) .any (acquireT 2 f) s

/-! ### Releases (R203) -/

/-- The register of a vector write lies in one of the blocks of a mask. -/
def Wr.inBlocks (w : Wr) (m : Nat) : Bool :=
  match w with
  | .v r _ _ _ => bitAt m (r / 16)
  | _ => false

/-- Register blocks leave a group (R203): results still pending for them are discarded; their banks may go off. -/
def State.dropBlocks (s : State) (k m : Nat) : State :=
  let g := s.group k
  let gone := g.own.filter (fun o => bitAt m o.1)
  let clear (ws : List Wr) : List Wr := ws.filter (fun w => !w.inBlocks m)
  let subs := g.subs.map (fun (p : Nat × Sub) => (p.1, { p.2 with
    win := p.2.win.map (fun w => { w with wrs := clear w.wrs }), slots := p.2.slots.map (fun q => (q.1, { q.2 with wrs := clear q.2.wrs })) }))
  let dead := gone.foldl (fun d o => (List.range 16).foldl (fun d i => setBit d (16 * o.1 + i) true) d) g.vDead
  let s := s.setGroup k { g with own := g.own.filter (fun o => !bitAt m o.1), subs := subs, vDead := dead }
  let s := { s with accesses := s.accesses.map (fun (a : Access) =>
    let results := match a.kind with
      | .atom _ | .fabric _ => true
      | x => x.inLoads
    if a.group = k && !a.scalar && results && decide (a.dst < 256) && bitAt m (a.dst / 16) then { a with dst := 4096 } else a) }
  let s := s.settleBanks (unitOfGroup k) (gone.map (fun o => reach o.2 / 4))
  s.release g.block (Res.of 0 gone.length)

/-- REL_REG (R203). -/
def execRelReg (f : XForm) (s : State) : Host.Outcome State Fault Refusal :=
  issue (.relReg f) .any (fun cx s =>
    let m := (s.opS cx.k cx.e f.xb).toNat % 65536
    let g := s.group cx.k
    match firstBelow (fun l => bitAt m l && !g.own.any (fun o => o.1 == l && decide (o.2 < pending))) 16 with
    | some l => .trap s { cause := 0x04, info := 16 * l }
    | none => .ok (if m = 0 then s else s.dropBlocks cx.k m) [] 1) s

/-- An enabled ring has a byte at or beyond a scratchpad offset. -/
def Ring.reaches (r : Ring) (lo : Nat) : Bool := r.en && decide (lo < r.base + 128 * r.tsize * r.cap)

/-- The highest `n` granules leave a block (R203, R290): their banks drop, and rings in them fault. -/
def State.dropGranules (s : State) (b n : Nat) : State :=
  let x := s.block b
  let keep := x.gran.length - n
  let u := unitOfBlock b
  let s := s.dropBanks b (keep * granSize u) (x.gran.length * granSize u)
  let x := s.block b
  (s.setBlock b { x with
    gran := x.gran.take keep
    rings := x.rings.map (fun e => (e.1, if e.2.reaches (keep * granSize u) then { e.2 with flt := true } else e.2)) }).release b (Res.of 1 n)

/-- A ring push in progress, or a drain that is writing its tile, touches offsets `[lo, hi)` of a block's scratchpad (R154, R203): the tile that a
pending push retires, a tile being pushed by a group, the tile of a drain. -/
def State.ringBusy (s : State) (b lo hi : Nat) : Bool :=
  let past (n t : Nat) : Bool :=
    let r : Ring := tget {} (s.block b).rings n
    decide (lo < r.base + 128 * r.tsize * (t + 1)) && decide (r.base + 128 * r.tsize * t < hi)
  s.agenda.any (fun ev => ev.step == Instr.ringPush && ev.arg.a == b &&
    (if ev.arg.flag then past ev.arg.b ev.arg.c else (tget {} (s.block b).rings ev.arg.b : Ring).taken.any (fun t => t.2.2 && past ev.arg.b t.1))) ||
  (s.core (unitOfBlock b)).mslots.any (fun m => m.2.block == b && m.2.st == 1 && m.2.drainLeft.isSome)

/-- REL_SPM (R203): it waits for the copies, ring pushes and routine accesses in progress that touch the granules; of a running drain to an
offset every granule counts as touched.
(DESIGN CHOICE, notes/assumptions 78; safe.) -/
def execRelSpm (f : XForm) (s : State) : Host.Outcome State Fault Refusal :=
  issue (.relSpm f) .any (fun cx s =>
    let n := (s.opS cx.k cx.e f.xb).toNat
    let b := (s.group cx.k).block
    let held := (s.block b).gran.length
    let gs : Int := granSize cx.unit
    if held < n then .trap s { cause := 0x0A }
    else if n = 0 then .ok s [] 1
    else if (s.rangeHold b [(none, ((held - n : Nat) : Int) * gs, (held : Int) * gs)]).isSome || s.ringBusy b ((held - n) * granSize cx.unit) (held * granSize cx.unit) then
      .wait s 0x0A n 0
    else .ok (s.dropGranules b n) [] 1) s

/-- The physical slot behind a logical slot that a block holds. -/
def Block.slotAt (b : Block) (l : Nat) : Option Nat :=
  match tfind b.slots l with
  | some p => if p < pending then some p else none
  | none => none
def State.mslot (s : State) (u p : Nat) : MSlot := tget {} (s.core u).mslots p
def State.setMslot (s : State) (u p : Nat) (m : MSlot) : State :=
  let c := s.core u
  s.setCore u { c with mslots := tput c.mslots p m }

/-- REL_MSL (R203): it waits for the slots' routines. -/
def execRelMsl (f : XForm) (s : State) : Host.Outcome State Fault Refusal :=
  issue (.relMsl f) .any (fun cx s =>
    let m := (s.opS cx.k cx.e f.xb).toNat % 16
    let b := (s.group cx.k).block
    let x := s.block b
    match firstBelow (fun l => bitAt m l && (x.slotAt l).isNone) 4 with
    | some l => .trap s { cause := 0x04, info := l }
    | none =>
      match firstBelow (fun l => bitAt m l && (s.mslot cx.unit ((x.slotAt l).getD 0)).st == 1) 4 with
      | some l => .wait s 0x09 l 0
      | none =>
        let ls := (List.range 4).filter (bitAt m)
        let c := s.core cx.unit
        let s := s.setCore cx.unit { c with mslots := ls.foldl (fun t l => tdel t ((x.slotAt l).getD 0)) c.mslots }
        let s := s.setBlock b { x with slots := x.slots.filter (fun p => !bitAt m p.1) }
        .ok (s.release b (Res.of 2 ls.length)) [] 1) s

/-! ### Banks (R152-R154, R204-R206) -/

/-- The slot of an `rwake` is busy until its bank is on. -/
def State.wakeSlot (s : State) (cx : Cx) (key : Nat) : State :=
  let (id, s) := s.fresh
  let x := s.sub cx.k cx.e
  let s := s.setSub cx.k cx.e (x.setSlot cx.slot { st := .busy, seq := id, opcode := cx.op })
  let c := s.core cx.unit
  s.setCore cx.unit { c with wakers := c.wakers ++ [(key, cx.k, cx.e, cx.slot)] }

/-- RWAKE (R204). -/
def execRwake (f : XForm) (s : State) : Host.Outcome State Fault Refusal :=
  issue (.rwake f) .any (fun cx s =>
    let x := (s.opS cx.k cx.e f.xb).toNat
    let done (s : State) : Eff := .ok (s.slotDone cx.k cx.e cx.slot cx.op []) [] 1
    let b := (s.group cx.k).block
    if f.mod.getLsbD 0 then
      if !s.inSpm b x 1 then .trap s { cause := 0x0A, addr := x }
      else
        let j := s.spmPhys b x / bankSize cx.unit
        match tget .off (s.core cx.unit).spmBank j with
        | .on | .off => done s
        | _ => .ok ((s.wakeSpm cx.unit j).wakeSlot cx (1024 + j)) [] 1
    else
      match (s.group cx.k).own.find? (fun o => o.1 == x && decide (o.2 < pending)) with
      | none => .trap s { cause := 0x04, info := 16 * x % 256 }
      | some o =>
        match tget .off (s.core cx.unit).regBank (o.2 / 4) with
        | .on => done s
        | _ => .ok ((s.wakeReg cx.unit (o.2 / 4)).wakeSlot cx (o.2 / 4)) [] 1) s

/-- RSLEEP (R205): the group is held; how long is not counted.
(DEDUCED, notes/assumptions 67; unsafe.) -/
def execRsleep (f : XForm) (s : State) : Host.Outcome State Fault Refusal :=
  issue (.rsleep f) .any (fun cx s =>
    let n := (s.opS cx.k cx.e f.xb).toNat
    if n = 0 then .ok s [] 1
    else .ok ((s.setGroup cx.k { s.group cx.k with sleeping := some n }).post .rsleepExpire { a := cx.k }) [] 1) s

/-- SPDROP (R206). -/
def execSpdrop (f : XForm) (s : State) : Host.Outcome State Fault Refusal :=
  issue (.spdrop f) .any (fun cx s =>
    let o := (s.opS cx.k cx.e f.xb).toNat
    let n := (s.opS cx.k cx.e f.xc).toNat
    let b := (s.group cx.k).block
    if n = 0 then .ok s [] 1
    else if !s.inSpm b o n then .trap s { cause := 0x0A, addr := o }
    else match s.rangeHold b [(none, o, o + n)] with
      | some i => .wait s 0x07 i 0
      | none => .ok (s.dropBanks b o (o + n)) [] 1) s

/-- RSLEEP_EXPIRE (R205). -/
def execRsleepExpire (s : State) : Host.Outcome State Fault Refusal :=
  event (fun s =>
    if s.relocking (unitOfGroup s.arg.a) then s.again .rsleepExpire
    else (s.setGroup s.arg.a { s.group s.arg.a with sleeping := none }).wakeOwned s.arg.a) s

/-- BANK_WAKE_COMPLETE (R152, R154): the bank is on; a scratchpad bank woken from off is zero-filled (every register of a
register bank that was off is dead, and reads zero once written); the slots that wait for it complete. -/
def State.bankOn (s : State) : State :=
  let u := s.arg.a
  let j := s.arg.b
  let key := if s.arg.flag then 1024 + j else j
  let c := s.core u
  let st := if s.arg.flag then tget .off c.spmBank j else tget .off c.regBank j
  match st with
  | .waking fromOff =>
    let s := s.setCore u (if s.arg.flag then { c with spmBank := tput c.spmBank j .on } else { c with regBank := tput c.regBank j .on })
    let s := if fromOff && s.arg.flag then s.zero (spmKey u (j * bankSize u)) (bankSize u) else s
    let c := s.core u
    let mine := c.wakers.filter (fun w => w.1 == key)
    let s := s.setCore u { c with wakers := c.wakers.filter (fun w => w.1 != key) }
    mine.foldl (fun s w =>
      let x := s.sub w.2.1 w.2.2.1
      let y := x.slot w.2.2.2
      if y.st == .busy && y.opcode == 0x073 then s.setSub w.2.1 w.2.2.1 (x.setSlot w.2.2.2 { y with st := .complete }) else s) s
  | _ => s
def execBankWakeComplete (s : State) : Host.Outcome State Fault Refusal := event State.bankOn s

/-- A group is in one of the waits that let its banks rest (R153). -/
def Group.resting (g : Group) : Bool :=
  g.sleeping.isSome || g.exited || g.subs.all (fun p =>
    p.2.st == 0 || p.2.st == 3 || match p.2.wait with
      | some w => w.kind == 1 || (w.kind == 2 && (p.2.slot w.item).isLoad)
      | none => false)

/-- Retention is permitted by every owner (R48). -/
def State.mayRetain (s : State) (bs : List Nat) : Bool := bs.all (fun b => (s.block b).rv.bpol == 0)

/-- Nothing in flight or queued touches the part of a block's scratchpad that lies in a bank (R154): no copy, ring push or routine access. -/
def State.bankStill (s : State) (u j b : Nat) : Bool :=
  let gs := granSize u
  let bs := bankSize u
  let per := gs / bs
  (s.block b).gran.zipIdx.all (fun p =>
    let lo := p.2 * gs + j % per * bs
    reach p.1 != j / per || ((s.rangeHold b [(none, (lo : Int), ((lo + bs : Nat) : Int))]).isNone && !s.ringBusy b lo (lo + bs)))
/-- BANK_RETENTION_ENTER (R153, R154): a bank all of whose owners rest goes to retention, where policy permits. -/
def State.retainBank (s : State) : State :=
  let u := s.arg.a
  let j := s.arg.b
  let c := s.core u
  if s.arg.flag then
    let per := granSize u / bankSize u
    let bs := ((s.residents u).filter (fun p => p.2.gran.any (fun n => reach n == j / per))).map (·.1)
    let still := bs.all (fun b => (s.block b).groups.all (fun k => (s.group k).resting) && s.bankStill u j b)
    if tget .off c.spmBank j == .on && still && s.mayRetain bs then s.setCore u { c with spmBank := tput c.spmBank j .retention } else s
  else
    let gs := s.groups.filter (fun p => unitOfGroup p.1 == u && p.2.present && p.2.own.any (fun o => reach o.2 / 4 == j))
    if tget .off c.regBank j == .on && s.bankLive u j && gs.all (fun p => p.2.resting) && s.mayRetain (gs.map (·.2.block)) then
      s.setCore u { c with regBank := tput c.regBank j .retention }
    else s
def execBankRetentionEnter (s : State) : Host.Outcome State Fault Refusal := event State.retainBank s

end Sys2Proof.Machine
end

