-- ==== Sys2Proof/Machine/Control.lean ====
section
/-! DEFINITION. Control transfers, split and fuse, exit, waits and traps by instruction (07 R189-R195; 05 R134-R137). -/

namespace Sys2Proof.Machine

/-! ### Branches (R104, R189, R190) -/

/-- The target of a form-B instruction, and whether it lies outside 0 to 2^40 - 1. -/
def branchTarget (x : Sub) (off : BitVec 29) : Nat × Bool :=
  let t : Int := (x.clauseStart : Int) + 8 * off.toInt
  (bitsOf 40 t, decide (t < 0) || decide ((2 ^ 40 : Int) ≤ t))

def branchIf (f : BForm) (taken : Cx → State → Bool) (cx : Cx) (s : State) : Eff :=
  if taken cx s then
    let (t, bad) := branchTarget (s.sub cx.k cx.e) f.off
    .jump s [] t bad
  else .ok s [] 1

/-- The link value (R189). -/
def linkWrs (r ra : Nat) : List Wr := wrS r 2 (ra % 2 ^ 40)

/-- BR (R189). -/
def execBr (f : BForm) (s : State) : Host.Outcome State Fault Refusal := issue (.br f) .any (branchIf f (fun _ _ => true)) s
/-- BZ (R189). -/
def execBz (w64 : Bool) (f : BForm) (s : State) : Host.Outcome State Fault Refusal :=
  issue (.bz w64 f) .any (branchIf f (fun cx s => s.opN cx.k cx.e f.cond w64 == 0)) s
/-- BNZ (R189). -/
def execBnz (w64 : Bool) (f : BForm) (s : State) : Host.Outcome State Fault Refusal :=
  issue (.bnz w64 f) .any (branchIf f (fun cx s => s.opN cx.k cx.e f.cond w64 != 0)) s
/-- BL (R189): RA to (s63, s62). -/
def execBl (f : BForm) (s : State) : Host.Outcome State Fault Refusal :=
  issue (.bl f) .any (fun cx s =>
    let x := s.sub cx.k cx.e
    let (t, bad) := branchTarget x f.off
    .jump s (linkWrs 62 x.nextClause) t bad) s

/-- The transfer of `jr` and `jl` (R190). -/
def jumpTo (s : State) (v : Nat) (wrs : List Wr) : Eff :=
  if v % 8 ≠ 0 then .trap s { cause := 0x09, addr := v } else .jump s wrs (v % 2 ^ 40) (decide (2 ^ 40 ≤ v))
/-- JR (R190). -/
def execJr (f : TForm) (s : State) : Host.Outcome State Fault Refusal :=
  issue (.jr f) .any (fun cx s => jumpTo s (s.opS64 cx.k cx.e f.src0).toNat []) s
/-- JL (R190). -/
def execJl (f : TForm) (s : State) : Host.Outcome State Fault Refusal :=
  issue (.jl f) .any (fun cx s =>
    jumpTo s (s.opS64 cx.k cx.e f.src0).toNat (linkWrs f.dst.toNat (s.sub cx.k cx.e).nextClause)) s

/-! ### Split, fuse and exit -/

/-- The drain and the wait on every slot that `split`, `fuse` begin with (R134, R135). -/
def State.settle (s : State) (k e : Nat) : Gate :=
  match s.drainGate k e with
  | .blocked s => .blocked s
  | .met s => s.awaitSlots k e [0, 1, 2, 3, 4, 5]

/-- Last use, tick and window of an instruction that moves its sub-group by itself. -/
def State.retireCx (s : State) (cx : Cx) : State :=
  s.retire cx.k cx.e (commonOf cx.i).idle.toNat ((shape cx.ck cx.i).lastUses (s.group cx.k).isSplit) (writeKeys cx.i (shape cx.ck cx.i)) [] 0

/-- The children of a split (R134): `taken` goes to target `t` in entry `n`, under pair record `r`. -/
def State.splitSub (s : State) (cx : Cx) (taken : W32) (t : Nat) (bad : Bool) (n r : Nat) : State :=
  let s := (s.retireCx cx).leaveClause cx.k cx.e (s.sub cx.k cx.e).nextClause
  let g := s.group cx.k
  let x := g.sub cx.e
  let child : Sub := { x with lanes := taken, pc := t, pair := r, win := [], slots := [], badPc := bad, yielded := false }
  let rest : Sub := { x with lanes := x.lanes &&& ~~~taken, pair := r, win := [], slots := [] }
  let s := s.setGroup cx.k { (g.setSub n child).setSub cx.e rest with pairs := tput g.pairs r (true, x.pair) }
  (s.takeMark cx.k n t t true).takeMark cx.k cx.e rest.pc rest.pc true

/-- SPLIT (R134, R191). -/
def execSplit (f : BForm) (s : State) : Host.Outcome State Fault Refusal :=
  issue (.split f) .any (fun cx s =>
    match s.settle cx.k cx.e with
    | .blocked s => .stall s
    | .met s =>
      let x := s.sub cx.k cx.e
      let taken := s.active cx.k cx.e (commonOf cx.i) &&& s.opP cx.k f.cond
      let (t, bad) := branchTarget x f.off
      if taken = 0 then .ok s [] 1
      else if x.lanes &&& ~~~taken = 0 then .jump s [] t bad
      else
        let g := s.group cx.k
        match firstBelow (fun n => (g.sub n).st == 0) 8, firstBelow (fun r => !(tget (false, 7) g.pairs r).1) 7 with
        | some n, some r => .gone (s.splitSub cx taken t bad n r)
        | _, _ => .trap s { cause := 0x0C }) s

/-- The pair records from a sub-group's up to the root. -/
def pairChain (ps : Tab (Bool × Nat)) : Nat → Nat → List Nat
  | 0, _ => []
  | n + 1, r => if r = 7 then [] else r :: pairChain ps n (tget (false, 7) ps r).2

/-- The sibling side of entry `e` (R135): the entries in use, other than `e`, that descend from its pair. -/
def Group.siblings (g : Group) (e : Nat) : List Nat :=
  (g.subs.filter (fun p => p.1 != e && p.2.st != 0 && (pairChain g.pairs 8 p.2.pair).contains (g.sub e).pair)).map (·.1)

/-- The entry with the sibling side that has arrived at `fuse` offset `f`: one entry waiting there, or only exited ones. -/
def Group.arrived (g : Group) (e f : Nat) : Bool :=
  let ss := g.siblings e
  match ss with
  | [n] => ((g.sub n).st == 2 && (g.sub n).here == f && (g.sub n).pair == (g.sub e).pair) || (g.sub n).st == 3
  | _ => ss.all (fun n => (g.sub n).st == 3)

/-- The merge (R135): into the lowest entry, with the registers of the entry that holds the lowest lane. -/
def State.mergeSubs (s : State) (k e : Nat) : State :=
  let g := s.group k
  let x := g.sub e
  let ss := g.siblings e
  let live := (e :: ss).filter (fun n => (g.sub n).st != 3)
  let lanes := live.foldl (fun m n => m ||| (g.sub n).lanes) 0
  let low := (lanesOf lanes).headD 0
  let donor := g.sub ((live.find? (fun n => lane (g.sub n).lanes low)).getD e)
  let tick := (e :: ss).foldl (fun t n => max t (g.sub n).tick) 0 + 1
  let into := ss.foldl min e
  let up := (tget (false, 7) g.pairs x.pair).2
  let dead := x.pair :: ss.map (fun n => (g.sub n).pair)
  let next := x.nextClause
  let (n, s) := s.fresh
  let merged : Sub := { donor with
    st := 1, pc := next, lanes := lanes, pair := up, tick := tick, win := [], slots := [], clause := none, idx := 0, headerMet := false
    tokTaken := false, resumeAt := none, wait := none, elapsed := 0, mark := none, lastIssue := n }
  let g := { g with
    subs := tput (g.subs.filter (fun p => p.1 != e && !ss.contains p.1)) into merged
    pairs := g.pairs.filter (fun p => !dead.contains p.1) }
  (s.setGroup k g).takeMark k into next next true

/-- FUSE (R135, R192). -/
def execFuse (f : TForm) (s : State) : Host.Outcome State Fault Refusal :=
  issue (.fuse f) .any (fun cx s =>
    match s.settle cx.k cx.e with
    | .blocked s => .stall s
    | .met s =>
      let g := s.group cx.k
      let x := g.sub cx.e
      if x.pair = 7 then .ok s [] 1
      else if g.arrived cx.e x.here then .gone (s.mergeSubs cx.k cx.e)
      else
        let sib := g.sub ((g.siblings cx.e).headD cx.e)
        .wait (s.setSub cx.k cx.e { x with st := 2 }) 6 x.here sib.st) s

/-- Fabric operations of a group that have not completed (R378). -/
def Access.isFabric (a : Access) : Bool :=
  (match a.kind with | .fabric _ | .fsig .. => true | _ => false) ||
    a.elems.any (fun el => !el.done && match el.loc with
      | .remote .. => true
      | .unresolved => (a.kind.inLoads || a.kind.inStores) && !a.local_ && a.member.isNone
      | _ => false)
def State.fabricBusy (s : State) (k : Nat) : Bool :=
  s.accesses.any (fun a => a.group == k && a.isFabric) || s.outstanding.any (fun o => (s.access o.access).any (fun a => a.group == k))

/-- The record of a fabric error still pending when a group exits (R378, R407).
(DEDUCED, notes/assumptions 35; unsafe.) -/
def State.exitError (s : State) (k e : Nat) : State :=
  let g := s.group k
  match g.pend with
  | none => s
  | some p =>
    let info := p.status % 256 * 2 ^ 24 + p.chip % 4096 * 4096 + p.count % 4096
    let who := if kindOf k = .lattice then e else k % 32
    (s.setGroup k { g with pend := none }).record (s.ringOf k) 4 { s.groupRec k with
      clause := (g.sub e).clauseStart, pc := (g.sub e).here, cause := 4 * 2 ^ 28 + who * 2 ^ 25 + (if g.handler then 2 ^ 24 else 0) + 6 * 2 ^ 16 + 0x18
      info := info, fmask := 0, addr := p.addr, word := info }

/-- An implicit drop (R323): an access behind the group's earlier stores. -/
def State.exitDrops (s : State) (cx : Cx) : State :=
  let g := s.group cx.k
  (List.range 16).foldl (fun s i =>
    let en := tget 0 g.reg i
    if en.getLsbD 0 then
      s.newAccess { cx with slot := 7 } {
        id := 0, group := 0, entry := 0, block := 0, kind := .exitDrop (field en.toNat 4 28 * 16), accepted := true, local_ := true, after := s.earlier cx.k (fun a => a.kind.inStores) }
    else s) s

/-- The group exits (R137, R192, R431). -/
def State.exitGroup (s : State) (cx : Cx) : State :=
  let s := (s.exitError cx.k cx.e).exitDrops cx
  let g := s.group cx.k
  match cx.ck with
  | .control => s.setGroup cx.k { g with exited := true, present := false }
  | .stream => (s.setGroup cx.k { g with exited := true }).postOnce .blockRetire { a := g.block }
  | .lattice =>
    let own := g.own
    let s := s.setGroup cx.k { g with exited := true, own := [], vDead := BitVec.allOnes 256 }
    let s := s.settleBanks cx.unit (own.map (fun o => reach o.2 / 4))
    (((s.release g.block (Res.of 0 own.length)).postOnce .blockRetire { a := g.block }).postOnce .schedulerPass).vacate cx.k

/-- EXIT (R137, R192): acquisitions that wait are withdrawn, results never waited on are discarded. -/
def execExit (f : TForm) (s : State) : Host.Outcome State Fault Refusal :=
  issue (.exit f) .any (fun cx s =>
    let last := (s.group cx.k).subs.all (fun p => p.1 == cx.e || p.2.st == 0 || p.2.st == 3)
    if last && s.fabricBusy cx.k then .stall s
    else
      match s.drainGate cx.k cx.e with
      | .blocked s => .stall s
      | .met s =>
        let x := s.sub cx.k cx.e
        let s := (List.range 6).foldl (fun s j =>
          if (x.slot j).st == .busy && (x.slot j).request.isSome then s.withdraw cx.unit (x.slot j).seq else s) s
        let x := s.sub cx.k cx.e
        let pc := x.here
        let s := if last then s.exitGroup cx else s
        let s := s.leaveClause cx.k cx.e (s.sub cx.k cx.e).nextClause
        let x := s.sub cx.k cx.e
        .gone (s.setSub cx.k cx.e { x with st := 3, pc := pc, win := [], slots := [], wait := none, elapsed := 0, mark := none })) s

/-! ### The rest -/

/-- YIELD (R193). -/
def execYield (f : TForm) (s : State) : Host.Outcome State Fault Refusal :=
  issue (.yield f) .any (fun cx s =>
    let s := (s.retireCx cx).advance cx.k cx.e
    .gone (s.setSub cx.k cx.e { s.sub cx.k cx.e with yielded := true })) s
/-- NOP (R193). -/
def execNop (f : TForm) (s : State) : Host.Outcome State Fault Refusal := issue (.nop f) .any (fun _ s => .ok s [] 1) s
/-- SWAIT (R194): whatever the guard selects. -/
def execSwait (f : IForm) (s : State) : Host.Outcome State Fault Refusal :=
  issue (.swait f) .always (fun cx s =>
    match s.awaitSlots cx.k cx.e (maskSlots (f.imm.toNat % 64)) with
    | .blocked s => .stall s
    | .met s => .ok s [] 1) s
/-- TRAP (R195). -/
def execTrap (f : IForm) (s : State) : Host.Outcome State Fault Refusal :=
  issue (.trap f) .any (fun _ s => .trap s { cause := 0x0E, info := f.imm.toNat }) s
/-- BRK (R195). -/
def execBrk (f : IForm) (s : State) : Host.Outcome State Fault Refusal :=
  issue (.brk f) .any (fun _ s => .trap s { cause := 0x19, info := f.imm.toNat }) s

end Sys2Proof.Machine
end

