-- ==== Sys2Proof/Machine/Float.lean ====
section
/-! DEFINITION. Number formats, exact values, rounding and the functions of chapter 06 (R163-R182). -/

namespace Sys2Proof.Machine

/-- What a format has beyond finite values (R165). -/
inductive Specials where
  | ieee | nanOnly | none
  deriving DecidableEq, Repr

/-- A floating-point format (R165): exponent and fraction widths, bias, special values. -/
structure Fmt where
  eb : Nat
  mb : Nat
  bias : Nat
  sp : Specials
  deriving DecidableEq, Repr

def fmtF64 : Fmt := ⟨11, 52, 1023, .ieee⟩
def fmtF32 : Fmt := ⟨8, 23, 127, .ieee⟩
def fmtF16 : Fmt := ⟨5, 10, 15, .ieee⟩
def fmtBf16 : Fmt := ⟨8, 7, 127, .ieee⟩
def fmtE4m3 : Fmt := ⟨4, 3, 7, .nanOnly⟩
def fmtE5m2 : Fmt := ⟨5, 2, 15, .ieee⟩
def fmtE3m2 : Fmt := ⟨3, 2, 3, .none⟩
def fmtE2m3 : Fmt := ⟨2, 3, 1, .none⟩
def fmtE2m1 : Fmt := ⟨2, 1, 1, .none⟩

/-- Width of a format in bits. -/
def Fmt.width (F : Fmt) : Nat := 1 + F.eb + F.mb
/-- The exponent field of all ones. -/
def Fmt.emax (F : Fmt) : Nat := 2 ^ F.eb - 1
/-- The canonical NaN (R166); 0 where the format has none. -/
def Fmt.nan (F : Fmt) : Nat :=
  match F.sp with
  | .ieee => if F = fmtE5m2 then 0x7F else F.emax * 2 ^ F.mb + 2 ^ (F.mb - 1)
  | .nanOnly => 0x7F
  | .none => 0
/-- The encoding of +infinity. -/
def Fmt.inf (F : Fmt) : Nat := F.emax * 2 ^ F.mb
/-- The encoding of the largest finite magnitude. -/
def Fmt.maxFin (F : Fmt) : Nat :=
  match F.sp with
  | .ieee => F.inf - 1
  | .nanOnly => F.emax * 2 ^ F.mb + 2 ^ F.mb - 2
  | .none => F.emax * 2 ^ F.mb + 2 ^ F.mb - 1
/-- The sign bit. -/
def Fmt.sign (F : Fmt) (neg : Bool) : Nat := if neg then 2 ^ (F.eb + F.mb) else 0

/-- A float's value: NaN, an infinity, or `n * 2^e` with a sign. -/
inductive Fv where
  | nan
  | inf (neg : Bool)
  | fin (neg : Bool) (n : Nat) (e : Int)
  deriving DecidableEq, Repr

/-- The value of an encoding (R165). -/
def Fmt.decode (F : Fmt) (b : Nat) : Fv :=
  let b := b % 2 ^ F.width
  let neg := bitAt b (F.eb + F.mb)
  let E := field b F.mb F.eb
  let m := field b 0 F.mb
  let fin : Fv := if E = 0 then .fin neg m (1 - (F.bias : Int) - F.mb) else .fin neg (2 ^ F.mb + m) ((E : Int) - F.bias - F.mb)
  if E = F.emax then
    match F.sp with
    | .ieee => if m = 0 then .inf neg else .nan
    | .nanOnly => if m = 2 ^ F.mb - 1 then .nan else fin
    | .none => fin
  else fin

/-- An exact non-negative real: `n / d * 2^e`, or the square root of that. -/
inductive Exact where
  | ratio (n d : Nat) (e : Int)
  | root (n d : Nat) (e : Int)
  deriving DecidableEq, Repr

/-- `n * 2^k` for an integer `k`, rounded down; and whether nothing was lost. -/
def shiftZ (n : Nat) (k : Int) : Nat × Bool :=
  if 0 ≤ k then (n * 2 ^ k.toNat, true) else (n / 2 ^ (-k).toNat, n % 2 ^ (-k).toNat == 0)

/-- The integer square root, by bits. -/
def isqrtBits (n : Nat) : Nat → Nat → Nat
  | 0, r => r
  | i + 1, r => isqrtBits n i (let c := r + 2 ^ i; if c * c ≤ n then c else r)
def isqrt (n : Nat) : Nat := isqrtBits n (Nat.log2 n / 2 + 1) 0

/-- The quotient of `n * 2^k` by `d`, rounded down, and whether it is exact. -/
def divZ (n d : Nat) (k : Int) : Nat × Bool :=
  if 0 ≤ k then (n * 2 ^ k.toNat / d, n * 2 ^ k.toNat % d == 0)
  else (n / (d * 2 ^ (-k).toNat), n % (d * 2 ^ (-k).toNat) == 0)

/-- `floor (x / 2^k)` and whether `x` is that multiple exactly. -/
def Exact.floorAt (x : Exact) (k : Int) : Nat × Bool :=
  match x with
  | .ratio n d e => divZ n d (e - k)
  | .root n d e =>
    let (v, ex) := divZ n d (e - 2 * k)
    let r := isqrt v
    (r, ex && r * r == v)

/-- `floor (log2 x)` for `n / d * 2^e`, `n` not 0. -/
def log2Ratio (n d : Nat) (e : Int) : Int :=
  let g : Int := (Nat.log2 n : Int) - Nat.log2 d
  let ok : Bool := if 0 ≤ g then decide (d * 2 ^ g.toNat ≤ n) else decide (d ≤ n * 2 ^ (-g).toNat)
  e + (if ok then g else g - 1)

def Exact.log2 : Exact → Int
  | .ratio n d e => log2Ratio n d e
  | .root n d e => log2Ratio n d e / 2

def Exact.isZero : Exact → Bool
  | .ratio n _ _ => n == 0
  | .root n _ _ => n == 0

/-- A rounding mode: 0 `.rne`, 1 `.rz`, 2 `.ru`, 3 `.rd`, 4 `.sr` (R168, R218). -/
abbrev Rm := Nat

/-- The integer to which `x / 2^k` rounds, and whether it is exact (R168 step 3, R169). -/
def roundAt (x : Exact) (k : Int) (rm : Rm) (neg : Bool) (draw : Nat) : Nat × Bool :=
  let (Q, ex) := x.floorAt (k - 32)
  let q := Q / 2 ^ 32
  let f := Q % 2 ^ 32
  let exact := ex && f == 0
  let up : Bool :=
    match rm with
    | 0 => decide (2 ^ 31 < f) || (f == 2 ^ 31 && (!ex || q % 2 == 1))
    | 2 => !exact && !neg
    | 3 => !exact && neg
    | 4 => decide (2 ^ 32 ≤ f + draw)
    | _ => false
  (if up then q + 1 else q, exact)

/-- The overflow outcome (R171) of a finite value of sign `neg`. -/
def Fmt.overflow (F : Fmt) (rm : Rm) (neg sat : Bool) : Nat :=
  let big := match F.sp with
    | .ieee => F.sign neg + F.inf
    | .nanOnly => F.nan
    | .none => F.sign neg + F.maxFin
  let M := F.sign neg + F.maxFin
  if sat then M
  else match rm with
    | 1 => M
    | 2 => if neg then M else big
    | 3 => if neg then big else M
    | _ => big

/-- `Round` of a finite value (R168 steps 3 and 4): the encoding and the flags. -/
def Fmt.roundFin (F : Fmt) (rm : Rm) (sat neg : Bool) (x : Exact) (draw : Nat) : Nat × BitVec 5 :=
  if x.isZero then (F.sign neg, 0)
  else
    let emin : Int := 1 - (F.bias : Int) - F.mb
    let E := max (x.log2 - F.mb) emin
    let (r, exact) := roundAt x E rm neg draw
    let nx : BitVec 5 := if exact then 0 else fNX
    let mag := r + (E - emin).toNat * 2 ^ F.mb
    let free := roundAt x (x.log2 - F.mb) rm neg draw
    let tiny := decide (x.log2 - F.mb < emin) && decide (free.1 < 2 ^ (F.mb + (emin - (x.log2 - F.mb)).toNat))
    if F.maxFin < mag then (F.overflow rm neg sat, fOF ||| fNX)
    else (F.sign neg + mag, nx ||| (if tiny && !exact then fUF else 0))

/-- The exact result of an operation before rounding: NaN (with IV or not), an infinity, or a signed real. -/
inductive Xv where
  | nan (iv : Bool)
  | inf (neg : Bool)
  | real (neg : Bool) (x : Exact)
  deriving DecidableEq, Repr

/-- `Round(x, F, rm, sat)` (R168, R171). -/
def Fmt.round (F : Fmt) (rm : Rm) (sat : Bool) (draw : Nat) : Xv → Nat × BitVec 5
  | .nan iv => if F.sp = .none then (0, fIV) else (F.nan, if iv then fIV else 0)
  | .inf neg =>
    if sat then (F.sign neg + F.maxFin, 0)
    else match F.sp with
      | .ieee => (F.sign neg + F.inf, 0)
      | .nanOnly => (F.nan, fOF)
      | .none => (F.sign neg + F.maxFin, fOF)
  | .real neg x => F.roundFin rm sat neg x draw

/-! ### Exact arithmetic -/

/-- A finite value as an exact real. -/
def Fv.toX : Fv → Xv
  | .nan => .nan false
  | .inf s => .inf s
  | .fin s n e => .real s (.ratio n 1 e)

/-- The exact sum of signed multiples of powers of two. -/
def sumFin (a : Bool × Nat × Int) (b : Bool × Nat × Int) : Int × Int :=
  let e := min a.2.2 b.2.2
  let v (t : Bool × Nat × Int) : Int := (if t.1 then -1 else 1) * ((t.2.1 * 2 ^ (t.2.2 - e).toNat : Nat) : Int)
  (v a + v b, e)

/-- The exact sum (R167, R224): the sign of an exact zero is that of equal-signed zeros, else + (- under `.rd`). -/
def Fv.add (a b : Fv) (rm : Rm) : Xv :=
  match a, b with
  | .nan, _ => .nan false
  | _, .nan => .nan false
  | .inf s, .inf t => if s = t then .inf s else .nan true
  | .inf s, _ => .inf s
  | _, .inf t => .inf t
  | .fin s n e, .fin t m f =>
    let (v, g) := sumFin (s, n, e) (t, m, f)
    if v = 0 then .real (if n = 0 ∧ m = 0 ∧ s = t then s else rm == 3) (.ratio 0 1 0)
    else .real (decide (v < 0)) (.ratio v.natAbs 1 g)

def Fv.neg : Fv → Fv
  | .nan => .nan
  | .inf s => .inf (!s)
  | .fin s n e => .fin (!s) n e

/-- The exact product as a value: 0 × infinity is NaN. -/
def Fv.mul (a b : Fv) : Fv × Bool :=
  match a, b with
  | .nan, _ => (.nan, false)
  | _, .nan => (.nan, false)
  | .inf s, .inf t => (.inf (s != t), false)
  | .inf s, .fin t n _ => if n = 0 then (.nan, true) else (.inf (s != t), false)
  | .fin s n _, .inf t => if n = 0 then (.nan, true) else (.inf (s != t), false)
  | .fin s n e, .fin t m f => (.fin (s != t) (n * m) (e + f), false)

/-- The product before rounding. -/
def Fv.mulX (a b : Fv) : Xv :=
  match a.mul b with
  | (.nan, iv) => .nan iv
  | (p, _) => p.toX

/-- `a * b + c` before its one rounding; 0 × infinity raises IV whatever `c` is (R224). -/
def Fv.fmaX (a b c : Fv) (rm : Rm) : Xv :=
  match a.mul b with
  | (.nan, iv) => .nan iv
  | (p, _) => p.add c rm

/-- Infinities of both signs among some values. -/
def infsMeet (vs : List Fv) : Bool := vs.contains (.inf false) && vs.contains (.inf true)
/-- `a0 * b0 + a1 * b1 + c` before its one rounding (R228): 0 × ∞ and infinite terms of both signs raise IV beside a NaN too. -/
def dot2X (a0 b0 a1 b1 c : Fv) (rm : Rm) : Xv :=
  if a0 = .nan ∨ a1 = .nan ∨ b0 = .nan ∨ b1 = .nan ∨ c = .nan then
    .nan ((a0.mul b0).2 || (a1.mul b1).2 || infsMeet [(a0.mul b0).1, (a1.mul b1).1, c])
  else
    match a0.mul b0, a1.mul b1 with
    | (.nan, _), _ => .nan true
    | _, (.nan, _) => .nan true
    | (p, _), (q, _) =>
      match p, q, c with
      | .fin s n e, .fin t m f, .fin u k g =>
        let (v, h) := sumFin (s, n, e) (t, m, f)
        let (w, i) := sumFin (decide (v < 0), v.natAbs, h) (u, k, g)
        if w = 0 then .real (if n = 0 ∧ m = 0 ∧ k = 0 ∧ s = t ∧ t = u then s else rm == 3) (.ratio 0 1 0)
        else .real (decide (w < 0)) (.ratio w.natAbs 1 i)
      | p, q, c =>
        if infsMeet [p, q, c] then .nan true else .inf ([p, q, c].contains (.inf true))

/-- The order of two values, zeros equal; `none` with a NaN. -/
def Fv.cmp (a b : Fv) : Option Ordering :=
  match a, b with
  | .nan, _ => none
  | _, .nan => none
  | .inf s, .inf t => some (if s = t then .eq else if s then .lt else .gt)
  | .inf s, _ => some (if s then .lt else .gt)
  | _, .inf t => some (if t then .gt else .lt)
  | .fin s n e, .fin t m f =>
    let (v, _) := sumFin (s, n, e) (!t, m, f)
    some (if v = 0 then .eq else if v < 0 then .lt else .gt)

/-- Reciprocal, reciprocal root and root before rounding, with the flag of R229's table. -/
def Fv.rcp : Fv → Xv × BitVec 5
  | .nan => (.nan false, 0)
  | .inf s => (.real s (.ratio 0 1 0), 0)
  | .fin s n e => if n = 0 then (.inf s, fDZ) else (.real s (.ratio 1 n (-e)), 0)
def Fv.rsqrt : Fv → Xv × BitVec 5
  | .nan => (.nan false, 0)
  | .inf s => if s then (.nan true, 0) else (.real false (.ratio 0 1 0), 0)
  | .fin s n e => if n = 0 then (.inf s, fDZ) else if s then (.nan true, 0) else (.real false (.root 1 n (-e)), 0)
def Fv.sqrt : Fv → Xv × BitVec 5
  | .nan => (.nan false, 0)
  | .inf s => if s then (.nan true, 0) else (.inf false, 0)
  | .fin s n e => if n = 0 then (.real s (.ratio 0 1 0), 0) else if s then (.nan true, 0) else (.real false (.root n 1 e), 0)

/-! ### Conversions (R172, R232) -/

/-- A signed real rounded to an integer in a mode (R172, R225, R236), and whether it is exact. -/
def roundInt (neg : Bool) (x : Exact) (rm : Rm) (draw : Nat) : Int × Bool :=
  if x.isZero then (0, true)
  else
    let (q, exact) := roundAt x 0 rm neg draw
    ((if neg then -1 else 1) * (q : Int), exact)

/-- The range of an integer type of `w` bits. -/
def intLo (sgn : Bool) (w : Nat) : Int := if sgn then -(2 ^ (w - 1) : Nat) else 0
def intHi (sgn : Bool) (w : Nat) : Int := if sgn then (2 ^ (w - 1) : Nat) - 1 else (2 ^ w : Nat) - 1

/-- Float to integer (R172). -/
def Fv.toInt (v : Fv) (sgn : Bool) (w : Nat) (rm : Rm) : Int × BitVec 5 :=
  match v with
  | .nan => (0, fIV)
  | .inf s => (if s then intLo sgn w else intHi sgn w, fIV)
  | .fin s n e =>
    let (r, exact) := roundInt s (.ratio n 1 e) rm 0
    let y := satInt r (intLo sgn w) (intHi sgn w)
    (y, if y != r then fIV else if exact then 0 else fNX)

/-- An integer as an exact real. -/
def intX (v : Int) : Xv := .real (decide (v < 0)) (.ratio v.natAbs 1 0)

/-! ### Binary32 helpers and the transcendental functions (R177, R178) -/

/-- `F32(x)`. -/
def f32X (x : Xv) : Nat := (fmtF32.round 0 false 0 x).1
def f32V (b : Nat) : Fv := fmtF32.decode b
def f32Add (a b : Nat) : Nat := f32X ((f32V a).add (f32V b) 0)
def f32Mul (a b : Nat) : Nat := f32X ((f32V a).mulX (f32V b))
def f32Fma (a b c : Nat) : Nat := f32X ((f32V a).fmaX (f32V b) (f32V c) 0)

/-- A polynomial by Horner's rule with `Fma32`, highest coefficient first. -/
def horner (x : Nat) : Nat → List Nat → Nat
  | p, [] => p
  | p, c :: cs => horner x (f32Fma p x c) cs

/-- `ln2^k / k!` for k = 7 down to 0, rounded to binary32.
(DEDUCED, notes/assumptions 63; unsafe.) -/
def exp2Coef : List Nat :=
  [0x377fe5fe, 0x39218489, 0x3aaec3ff, 0x3c1d955b, 0x3d635847, 0x3e75fdf0, 0x3f317218, 0x3f800000]
/-- `2 / ((2k+1) ln 2)` for k = 4 down to 0. -/
def log2Coef : List Nat := [0x3ea4258a, 0x3ed30bb1, 0x3f13bb63, 0x3f76384f, 0x4038aa3b]
/-- `(-1)^i (2 pi)^(2i+1) / (2i+1)!` for i = 5 down to 0. -/
def sinCoef : List Nat := [0xc17183a8, 0x42283c1a, 0xc2996966, 0x42a335e3, 0xc2255de7, 0x40c90fdb]
/-- `(-1)^i (2 pi)^(2i) / (2i)!` for i = 5 down to 0. -/
def cosCoef : List Nat := [0xc1d368f9, 0x4270fa83, 0xc2aae9e4, 0x4281e0f8, 0xc19de9e6, 0x3f800000]

/-- The nearest integer, ties to even, and the rest, both exact. -/
def nearestAndRest (s : Bool) (n : Nat) (e : Int) : Int × Xv :=
  let (k, _) := roundInt s (.ratio n 1 e) 0 0
  (k, (Fv.fin s n e).add (.fin (decide (0 < k)) k.natAbs 0) 0)

/-- `Exp2_F32` with the special operands of R178: result and flags. -/
def exp2F32 (b : Nat) : Nat × BitVec 5 :=
  match f32V b with
  | .nan => (fmtF32.nan, 0)
  | .inf s => if s then (0, 0) else (fmtF32.inf, 0)
  | .fin s n e =>
    if n = 0 then (0x3f800000, 0)
    else if (Fv.fin s n e).cmp (.fin false 128 0) != some .lt then (fmtF32.inf, fOF)
    else if (Fv.fin s n e).cmp (.fin true 150 0) == some .lt then (0, 0)
    else
      let (k, f) := nearestAndRest s n e
      let p := horner (f32X f) (exp2Coef.headD 0) exp2Coef.tail
      match f32V p with
      | .fin t m g => (f32X (.real t (.ratio m 1 (g + k))), 0)
      | _ => (p, 0)

/-- `Log2_F32` with the special operands of R178. -/
def log2F32 (b : Nat) : Nat × BitVec 5 :=
  match f32V b with
  | .nan => (fmtF32.nan, 0)
  | .inf s => if s then (fmtF32.nan, fIV) else (fmtF32.inf, 0)
  | .fin s n e =>
    if n = 0 then (fmtF32.sign true + fmtF32.inf, fDZ)
    else if s then (fmtF32.nan, fIV)
    else
      let l := Nat.log2 n
      let E : Int := e + l
      let big := match (Fv.fin false n (-(l : Int))).cmp (f32V 0x3FB504F3) with
        | some .lt => false
        | _ => true
      let g : Int := -(l : Int) - (if big then 1 else 0)       -- m = n * 2^g
      let E : Int := if big then E + 1 else E
      let d := (Fv.fin false n g).add (.fin true 1 0) 0         -- m - 1
      let t := (Fv.fin false n g).add (.fin false 1 0) 0        -- m + 1
      let u := match d, t with
        | .real s (.ratio a _ i), .real _ (.ratio c _ j) => f32X (.real s (.ratio a c (i - j)))
        | _, _ => 0
      let w := f32Mul u u
      let q := horner w (log2Coef.headD 0) log2Coef.tail
      (f32X ((Fv.fin (decide (E < 0)) E.natAbs 0).add (f32V (f32Mul u q)) 0), 0)

/-- `Sincos_F32` with the special operands of R178. In quadrants 2 and 3 the sign bit of a result that is no NaN is inverted, that of a zero too.
(DESIGN CHOICE, notes/assumptions 83; unsafe.) -/
def sincosF32 (b : Nat) (c : Nat) : Nat × BitVec 5 :=
  match f32V b with
  | .nan => (fmtF32.nan, 0)
  | .inf _ => (fmtF32.nan, fIV)
  | .fin s n e =>
    if n = 0 then (if c = 0 then b else 0x3f800000, 0)
    else
      let (k, rest4) := nearestAndRest s n (e + 2)
      let r := match rest4 with
        | .real t (.ratio m _ g) => f32X (.real t (.ratio m 1 (g - 2)))
        | _ => 0
      let z := f32Mul r r
      let S := f32Mul r (horner z (sinCoef.headD 0) sinCoef.tail)
      let C := horner z (cosCoef.headD 0) cosCoef.tail
      let q := ((k + c) % 4).toNat
      let flip (x : Nat) : Nat := if x = fmtF32.nan then x else x ^^^ 0x80000000
      (if q = 0 then S else if q = 1 then C else if q = 2 then flip S else flip C, 0)

/-- The form of a transcendental function on a binary16 element (R176): no flag from the last rounding. -/
def via16 (f : Nat → Nat × BitVec 5) (h : Nat) : Nat × BitVec 5 :=
  let x := (fmtF32.round 0 false 0 (fmtF16.decode h).toX).1
  let (y, fl) := f x
  ((fmtF16.round 0 false 0 (fmtF32.decode y).toX).1, fl)

/-! ### Minimum, maximum, class, rounding to integral (R225, R226) -/

/-- `vfmin` (`max` false) and `vfmax`: -0 lies below +0. -/
def Fmt.minMax (F : Fmt) (max : Bool) (a b : Nat) : Nat :=
  match F.decode a, F.decode b with
  | .nan, .nan => F.nan
  | .nan, _ => b
  | _, .nan => a
  | va, vb =>
    let less : Bool := match va.cmp vb with
      | some .lt => true
      | some .gt => false
      | _ => bitAt a (F.eb + F.mb) && !bitAt b (F.eb + F.mb)
    if less != max then a else b

/-- The class mask (R226). -/
def Fmt.classMask (F : Fmt) (a : Nat) : Nat :=
  match F.decode a with
  | .nan => 2 ^ 8 + (if a = F.nan then 2 ^ 9 else 0)
  | .inf s => if s then 1 else 2 ^ 7
  | .fin s n _ =>
    let sub := decide (field a F.mb F.eb = 0)
    if n = 0 then (if s then 2 ^ 3 else 2 ^ 4)
    else if sub then (if s then 2 ^ 2 else 2 ^ 5)
    else (if s then 2 else 2 ^ 6)

/-- `vfrnd` (R225). -/
def Fmt.integral (F : Fmt) (rm : Rm) (a : Nat) : Nat :=
  match F.decode a with
  | .nan => F.nan
  | .inf _ => a
  | .fin s n e =>
    let (r, _) := roundInt s (.ratio n 1 e) rm 0
    (F.round 0 false 0 (.real s (.ratio r.natAbs 1 0))).1

/-! ### Generators (R169, R170) -/

def lfsrStep (s : W32) : W32 := if s.getLsbD 0 then (s >>> 1) ^^^ 0x80200003#32 else s >>> 1
/-- The state after a draw: 32 steps. -/
def lfsrNext (s : W32) : W32 := (List.range 32).foldl (fun s _ => lfsrStep s) s

end Sys2Proof.Machine
end

