-- ==== Sys2Proof/Machine/Scalar.lean ====
section
/-! DEFINITION. Scalar integer instructions (07 R184-R188). -/

namespace Sys2Proof.Machine

/-! ### Results (R185, R186), on `W`-bit strings as numbers; the write keeps the low `W` bits -/

/-- `sadd` and `vadd`: wrap, signed or unsigned saturation. -/
def addSat (m W a b : Nat) : Nat :=
  match m % 4 with
  | 1 => satS W (sext W a + sext W b)
  | 2 => satU W ((a : Int) + b)
  | _ => (a + b) % 2 ^ W
/-- `ssub` and `vsub`. -/
def subSat (m W a b : Nat) : Nat :=
  match m % 4 with
  | 1 => satS W (sext W a - sext W b)
  | 2 => satU W ((a : Int) - b)
  | _ => bitsOf W ((a : Int) - b)
/-- `smulh`: floor of the product by 2^W. -/
def mulHigh (sgn : Bool) (W a b : Nat) : Nat :=
  if sgn then bitsOf W ((sext W a * sext W b) / (2 ^ W : Nat)) else a * b / 2 ^ W
/-- a and not b. -/
def andNot (W a b : Nat) : Nat := a &&& ((2 ^ W - 1) ^^^ (b % 2 ^ W))
/-- `Shift` (R186). -/
def shiftL (W a amt : Nat) : Nat := if W ≤ amt then 0 else a * 2 ^ amt % 2 ^ W
def shiftR (W a amt : Nat) : Nat := if W ≤ amt then 0 else a / 2 ^ amt
def shiftA (W a amt : Nat) : Nat := bitsOf W (sext W a / (2 ^ min amt (W - 1) : Nat))
/-- The lesser and the greater, read as S or U. -/
def lesser (sgn : Bool) (W a b : Nat) : Nat :=
  if sgn then (if sext W a ≤ sext W b then a else b) else min a b
def greater (sgn : Bool) (W a b : Nat) : Nat :=
  if sgn then (if sext W a ≤ sext W b then b else a) else max a b
/-- Leading zero bits; W for 0. -/
def leadingZeros (W a : Nat) : Nat := if a % 2 ^ W = 0 then W else W - 1 - Nat.log2 (a % 2 ^ W)
/-- One bits. -/
def onesCount (W a : Nat) : Nat := ((List.range W).filter (bitAt a)).length
/-- `Field_Extract` (R186). -/
def fieldExtract (sgn : Bool) (W x ctl : Nat) : Nat :=
  let p := min (ctl % 256) W
  let n := min (ctl / 256 % 256) (W - p)
  let f := x / 2 ^ p % 2 ^ n
  if sgn && decide (0 < n) then bitsOf W (sext n f) else f
/-- `Field_Insert` (R186). -/
def fieldInsert (W base v ctl : Nat) : Nat :=
  let p := min (ctl % 256) W
  let n := min (ctl / 256 % 256) (W - p)
  let m := (2 ^ n - 1) * 2 ^ p
  andNot W base m ||| ((v * 2 ^ p) &&& m)
/-- `Divide` (R187): quotient and remainder. -/
def divide (sgn : Bool) (W a b : Nat) : Nat × Nat :=
  let x : Int := if sgn then sext W a else a
  let y : Int := if sgn then sext W b else b
  if y = 0 then (2 ^ W - 1, a)
  else (bitsOf W (x.tdiv y), bitsOf W (x - x.tdiv y * y))

/-! ### Operands and results of the two forms (R184) -/

def aluMod : AluForm → Nat
  | .t _ f => f.mod.toNat
  | .i _ f => f.mod.toNat
def aluWide : AluForm → Bool
  | .t w _ => w
  | .i w _ => w
/-- The operands a, b and c: `b32` where b is a 32-bit operand in both variants, `zext` where form I zero-extends. -/
def State.aluArgs (s : State) (k e : Nat) (o : AluForm) (b32 zext : Bool) : Nat × Nat × Nat :=
  match o with
  | .t w f => (s.opN k e f.src0 w, s.opN k e f.src1 (w && !b32), s.opN k e f.src2 false)
  | .i w f =>
    (s.opN k e f.src0 w,
     if zext then f.imm.toNat else bitsOf (if w then 64 else 32) f.imm.toInt, 0)

/-- A scalar integer instruction of latency 1 (R184). -/
def aluEff (o : AluForm) (b32 zext d32 : Bool) (r : Nat → Nat → Nat → Nat → Nat) (cx : Cx) (s : State) : Eff :=
  let W := if aluWide o then 64 else 32
  let (a, b, c) := s.aluArgs cx.k cx.e o b32 zext
  .ok s (wrS (match o with | .t _ f => f.dst.toNat | .i _ f => f.dst.toNat) (wn (aluWide o && !d32)) (r W a b c)) 1

/-- `sdiv` and `srem` (R187): the slot is busy until the operation completes. -/
def divEff (o : AluForm) (part : Nat × Nat → Nat) (cx : Cx) (s : State) : Eff :=
  let W := if aluWide o then 64 else 32
  let (a, b, _) := s.aluArgs cx.k cx.e o false false
  let sgn := match o with | .t _ f => f.mod.getLsbD 0 | .i _ f => f.mod.getLsbD 0
  .ok (s.slotBusy cx.k cx.e cx.slot cx.op
    (wrS (match o with | .t _ f => f.dst.toNat | .i _ f => f.dst.toNat) (wn (aluWide o)) (part (divide sgn W a b)))) [] 0

/-- SADD (R185). -/
def execSadd (o : AluForm) (s : State) : Host.Outcome State Fault Refusal :=
  issue (.sadd o) .any (aluEff o false false false (fun W a b _ => addSat (aluMod o) W a b)) s

/-- SSUB (R185). -/
def execSsub (o : AluForm) (s : State) : Host.Outcome State Fault Refusal :=
  issue (.ssub o) .any (aluEff o false false false (fun W a b _ => subSat (aluMod o) W a b)) s

/-- SMUL (R185): the low half of U(a) × U(b). -/
def execSmul (o : AluForm) (s : State) : Host.Outcome State Fault Refusal :=
  issue (.smul o) .any (aluEff o false false false (fun _ a b _ => a * b)) s

/-- SMULH (R185): the high half. -/
def execSmulh (o : AluForm) (s : State) : Host.Outcome State Fault Refusal :=
  issue (.smulh o) .any (aluEff o false false false (fun W a b _ => mulHigh (bitAt (aluMod o) 0) W a b)) s

/-- SAND (R185). -/
def execSand (o : AluForm) (s : State) : Host.Outcome State Fault Refusal :=
  issue (.sand o) .any (aluEff o false false false (fun _ a b _ => a &&& b)) s

/-- SOR (R185). -/
def execSor (o : AluForm) (s : State) : Host.Outcome State Fault Refusal :=
  issue (.sor o) .any (aluEff o false false false (fun _ a b _ => a ||| b)) s

/-- SXOR (R185). -/
def execSxor (o : AluForm) (s : State) : Host.Outcome State Fault Refusal :=
  issue (.sxor o) .any (aluEff o false false false (fun _ a b _ => a ^^^ b)) s

/-- SANDN (R185). -/
def execSandn (o : AluForm) (s : State) : Host.Outcome State Fault Refusal :=
  issue (.sandn o) .any (aluEff o false false false (fun W a b _ => andNot W a b)) s

/-- SSHL (R186). -/
def execSshl (o : AluForm) (s : State) : Host.Outcome State Fault Refusal :=
  issue (.sshl o) .any (aluEff o true true false (fun W a b _ => shiftL W a b)) s

/-- SSHR (R186). -/
def execSshr (o : AluForm) (s : State) : Host.Outcome State Fault Refusal :=
  issue (.sshr o) .any (aluEff o true true false (fun W a b _ => shiftR W a b)) s

/-- SSRA (R186). -/
def execSsra (o : AluForm) (s : State) : Host.Outcome State Fault Refusal :=
  issue (.ssra o) .any (aluEff o true true false (fun W a b _ => shiftA W a b)) s

/-- SMIN (R185). -/
def execSmin (o : AluForm) (s : State) : Host.Outcome State Fault Refusal :=
  issue (.smin o) .any (aluEff o false false false (fun W a b _ => lesser (bitAt (aluMod o) 0) W a b)) s

/-- SMAX (R185). -/
def execSmax (o : AluForm) (s : State) : Host.Outcome State Fault Refusal :=
  issue (.smax o) .any (aluEff o false false false (fun W a b _ => greater (bitAt (aluMod o) 0) W a b)) s

/-- SCLZ (R185). -/
def execSclz (o : AluForm) (s : State) : Host.Outcome State Fault Refusal :=
  issue (.sclz o) .any (aluEff o false false false (fun W a _ _ => leadingZeros W a)) s

/-- SPOP (R185). -/
def execSpop (o : AluForm) (s : State) : Host.Outcome State Fault Refusal :=
  issue (.spop o) .any (aluEff o false false false (fun W a _ _ => onesCount W a)) s

/-- SBFX (R186). -/
def execSbfx (o : AluForm) (s : State) : Host.Outcome State Fault Refusal :=
  issue (.sbfx o) .any (aluEff o true true false (fun W a b _ => fieldExtract (bitAt (aluMod o) 0) W a b)) s

/-- SBFI (R186): form I deposits a into zero under the immediate. -/
def execSbfi (o : AluForm) (s : State) : Host.Outcome State Fault Refusal :=
  issue (.sbfi o) .any (aluEff o false true false (fun W a b c => match o with | .t _ _ => fieldInsert W a b c | .i _ _ => fieldInsert W 0 a b)) s

/-- SSEL (R185): a if the 32-bit condition c is not zero, otherwise b. -/
def execSsel (o : AluForm) (s : State) : Host.Outcome State Fault Refusal :=
  issue (.ssel o) .any (aluEff o false false false (fun _ a b c => if c = 0 then b else a)) s

/-- SCMP (R188). -/
def execScmp (o : AluForm) (s : State) : Host.Outcome State Fault Refusal :=
  issue (.scmp o) .any (aluEff o false false true (fun W a b _ => if cond188 (aluMod o % 16) W a b then 1 else 0)) s

/-- SMOV (R185). -/
def execSmov (o : AluForm) (s : State) : Host.Outcome State Fault Refusal :=
  issue (.smov o) .any (aluEff o false false false (fun _ a _ _ => a)) s

/-- SDIV (R187): the quotient lands at the wait on the slot. -/
def execSdiv (o : AluForm) (s : State) : Host.Outcome State Fault Refusal :=
  issue (.sdiv o) .any (divEff o (fun p => p.1)) s

/-- SREM (R187): the remainder lands at the wait on the slot. -/
def execSrem (o : AluForm) (s : State) : Host.Outcome State Fault Refusal :=
  issue (.srem o) .any (divEff o (fun p => p.2)) s

/-- SMOVI (R185). -/
def execSmovi (k : MoviKind) (f : IForm) (s : State) : Host.Outcome State Fault Refusal :=
  issue (.smovi k f) .any (fun _ s =>
    .ok s (match k with
      | .i32 => wrS f.dst.toNat 1 (f.imm.signExtend 32).toNat
      | .n32 => wrS f.dst.toNat 1 f.imm.toNat
      | .i64 => wrS f.dst.toNat 2 (f.imm.signExtend 64).toNat) 1) s

/-- SMOVI_HI (R185). -/
def execSmoviHi (f : IForm) (s : State) : Host.Outcome State Fault Refusal :=
  issue (.smoviHi f) .any (fun cx s => .ok s (wrS f.dst.toNat 1 (f.imm.toNat * 65536 + (s.opS cx.k cx.e f.src0).toNat % 65536)) 1) s

end Sys2Proof.Machine
end

