-- ==== Sys2Proof/Machine/Vector.lean ====
section
/-! DEFINITION. Vector integer, bit, lane-movement, pack and reduction instructions (08 R217-R223, R233-R235, R238-R240). -/

namespace Sys2Proof.Machine

/-- `Vector_Exec` (R217): registers of the destination and sources, whether src2 is scalar, latency, lane function. -/
def vecEff (f : TForm) (nd n0 n1 n2 : Nat) (c2 : Bool) (lat : Nat) (F : Nat → Nat → Nat → Nat → Nat) (cx : Cx) (s : State) : Eff :=
  let k := cx.k
  let e := cx.e
  let b (l : Nat) : Nat := if n1 = 0 then 0 else s.opLane k e f.src1 n1 (f.mod.getLsbD 0) l
  let c (l : Nat) : Nat := if n2 = 0 then 0 else s.opLane k e f.src2 n2 c2 l
  .ok s (wrV f.dst.toNat nd cx.act (fun l => F (s.laneN k f.src0.toNat n0 l) (b l) (c l) l)) lat

/-- Lane width of a variant. -/
def vW (w64 : Bool) : Nat := if w64 then 64 else 32

/-- VADD (R221): as `sadd`, with its mod[1:0] in mod[2:1]. -/
def execVadd (w : Bool) (f : TForm) (s : State) : Host.Outcome State Fault Refusal :=
  issue (.vadd w f) .always (vecEff f (wn w) (wn w) (wn w) 0 false 1 (fun a b _ _ => addSat (mf f.mod 1 2) (vW w) a b)) s

/-- VSUB (R221). -/
def execVsub (w : Bool) (f : TForm) (s : State) : Host.Outcome State Fault Refusal :=
  issue (.vsub w f) .always (vecEff f (wn w) (wn w) (wn w) 0 false 1 (fun a b _ _ => subSat (mf f.mod 1 2) (vW w) a b)) s

/-- VMUL (R221). -/
def execVmul (w : Bool) (f : TForm) (s : State) : Host.Outcome State Fault Refusal :=
  issue (.vmul w f) .always (vecEff f (wn w) (wn w) (wn w) 0 false 1 (fun a b _ _ => a * b)) s

/-- VMULH (R221). -/
def execVmulh (w : Bool) (f : TForm) (s : State) : Host.Outcome State Fault Refusal :=
  issue (.vmulh w f) .always (vecEff f (wn w) (wn w) (wn w) 0 false 1 (fun a b _ _ => mulHigh (f.mod.getLsbD 1) (vW w) a b)) s

/-- VMAD (R221): U(a) × U(b) + U(c). -/
def execVmad (w : Bool) (f : TForm) (s : State) : Host.Outcome State Fault Refusal :=
  issue (.vmad w f) .always (vecEff f (wn w) (wn w) (wn w) (wn w) (f.mod.getLsbD 1) 1 (fun a b c _ => a * b + c)) s

/-- VAND (R221). -/
def execVand (w : Bool) (f : TForm) (s : State) : Host.Outcome State Fault Refusal :=
  issue (.vand w f) .always (vecEff f (wn w) (wn w) (wn w) 0 false 1 (fun a b _ _ => a &&& b)) s

/-- VOR (R221). -/
def execVor (w : Bool) (f : TForm) (s : State) : Host.Outcome State Fault Refusal :=
  issue (.vor w f) .always (vecEff f (wn w) (wn w) (wn w) 0 false 1 (fun a b _ _ => a ||| b)) s

/-- VXOR (R221). -/
def execVxor (w : Bool) (f : TForm) (s : State) : Host.Outcome State Fault Refusal :=
  issue (.vxor w f) .always (vecEff f (wn w) (wn w) (wn w) 0 false 1 (fun a b _ _ => a ^^^ b)) s

/-- VANDN (R221). -/
def execVandn (w : Bool) (f : TForm) (s : State) : Host.Outcome State Fault Refusal :=
  issue (.vandn w f) .always (vecEff f (wn w) (wn w) (wn w) 0 false 1 (fun a b _ _ => andNot (vW w) a b)) s

/-- VSHL (R221): a 32-bit count. -/
def execVshl (w : Bool) (f : TForm) (s : State) : Host.Outcome State Fault Refusal :=
  issue (.vshl w f) .always (vecEff f (wn w) (wn w) 1 0 false 1 (fun a b _ _ => shiftL (vW w) a b)) s

/-- VSHR (R221). -/
def execVshr (w : Bool) (f : TForm) (s : State) : Host.Outcome State Fault Refusal :=
  issue (.vshr w f) .always (vecEff f (wn w) (wn w) 1 0 false 1 (fun a b _ _ => shiftR (vW w) a b)) s

/-- VSRA (R221). -/
def execVsra (w : Bool) (f : TForm) (s : State) : Host.Outcome State Fault Refusal :=
  issue (.vsra w f) .always (vecEff f (wn w) (wn w) 1 0 false 1 (fun a b _ _ => shiftA (vW w) a b)) s

/-- VMIN (R221). -/
def execVmin (w : Bool) (f : TForm) (s : State) : Host.Outcome State Fault Refusal :=
  issue (.vmin w f) .always (vecEff f (wn w) (wn w) (wn w) 0 false 1 (fun a b _ _ => lesser (f.mod.getLsbD 1) (vW w) a b)) s

/-- VMAX (R221). -/
def execVmax (w : Bool) (f : TForm) (s : State) : Host.Outcome State Fault Refusal :=
  issue (.vmax w f) .always (vecEff f (wn w) (wn w) (wn w) 0 false 1 (fun a b _ _ => greater (f.mod.getLsbD 1) (vW w) a b)) s

/-- VABS (R221). -/
def execVabs (w : Bool) (f : TForm) (s : State) : Host.Outcome State Fault Refusal :=
  issue (.vabs w f) .always (vecEff f (wn w) (wn w) 0 0 false 1 (fun a _ _ _ => let m := (sext (vW w) a).natAbs; if f.mod.getLsbD 1 then min m (2 ^ (vW w - 1) - 1) else m)) s

/-- VCLZ (R221). -/
def execVclz (w : Bool) (f : TForm) (s : State) : Host.Outcome State Fault Refusal :=
  issue (.vclz w f) .always (vecEff f (wn w) (wn w) 0 0 false 1 (fun a _ _ _ => leadingZeros (vW w) a)) s

/-- VPOP (R221). -/
def execVpop (w : Bool) (f : TForm) (s : State) : Host.Outcome State Fault Refusal :=
  issue (.vpop w f) .always (vecEff f (wn w) (wn w) 0 0 false 1 (fun a _ _ _ => onesCount (vW w) a)) s

/-- VBFX (R221): a 32-bit control. -/
def execVbfx (w : Bool) (f : TForm) (s : State) : Host.Outcome State Fault Refusal :=
  issue (.vbfx w f) .always (vecEff f (wn w) (wn w) 1 0 false 1 (fun a b _ _ => fieldExtract (f.mod.getLsbD 1) (vW w) a b)) s

/-- VBFI (R221): base a, value b, control c. -/
def execVbfi (w : Bool) (f : TForm) (s : State) : Host.Outcome State Fault Refusal :=
  issue (.vbfi w f) .always (vecEff f (wn w) (wn w) (wn w) 1 (f.mod.getLsbD 1) 1 (fun a b c _ => fieldInsert (vW w) a b c)) s

/-- VSEL (R221): a where the predicate is true, otherwise b. -/
def execVsel (w : Bool) (f : TForm) (s : State) : Host.Outcome State Fault Refusal :=
  issue (.vsel w f) .always (fun cx s => vecEff f (wn w) (wn w) (wn w) 0 false 1 (fun a b _ l => if lane (s.opP cx.k f.src2) l then a else b) cx s) s

/-- VMOV (R221). -/
def execVmov (w : Bool) (f : TForm) (s : State) : Host.Outcome State Fault Refusal :=
  issue (.vmov w f) .always (vecEff f (wn w) (wn w) 0 0 false 1 (fun a _ _ _ => a)) s

/-- VMOVS (R221): the scalar in every active lane. -/
def execVmovs (w : Bool) (f : TForm) (s : State) : Host.Outcome State Fault Refusal :=
  issue (.vmovs w f) .always (fun cx s => .ok s (wrV f.dst.toNat (wn w) cx.act (fun _ => s.opN cx.k cx.e f.src0 w)) 1) s

/-- VMOVS_GET (R223): the lowest active lane, into a scalar. -/
def execVmovsGet (w : Bool) (f : TForm) (s : State) : Host.Outcome State Fault Refusal :=
  issue (.vmovsGet w f) .any (fun cx s => .ok s (wrS f.dst.toNat (wn w) (s.laneN cx.k f.src0.toNat (wn w) ((lanesOf cx.act).headD 0))) 4) s

/-- VCMP (R222): every lane of amask, 0 where not active. -/
def execVcmp (w : Bool) (f : TForm) (s : State) : Host.Outcome State Fault Refusal :=
  issue (.vcmp w f) .always (fun cx s =>
    let c := mf f.mod 1 4
    .ok s (wrP f.dst (maskOf (fun l => lane cx.act l &&
      cond188 c (vW w) (s.laneN cx.k f.src0.toNat (wn w) l) (s.opLane cx.k cx.e f.src1 (wn w) (f.mod.getLsbD 0) l)))) 2) s

/-- VPERM (R238). -/
def execVperm (w : Bool) (f : TForm) (s : State) : Host.Outcome State Fault Refusal :=
  issue (.vperm w f) .always (fun cx s =>
    .ok s (wrV f.dst.toNat (wn w) cx.act (fun l =>
      let kk := s.opLane cx.k cx.e f.src1 1 (f.mod.getLsbD 0) l % 32
      s.laneN cx.k f.src0.toNat (wn w) (kk))) 4) s

/-- VXSHF (R238). -/
def execVxshf (w : Bool) (f : TForm) (s : State) : Host.Outcome State Fault Refusal :=
  issue (.vxshf w f) .always (fun cx s =>
    .ok s (wrV f.dst.toNat (wn w) cx.act (fun l =>
      let kk := s.opLane cx.k cx.e f.src1 1 (f.mod.getLsbD 0) l % 32
      s.laneN cx.k f.src0.toNat (wn w) (l ^^^ kk))) 4) s

/-- VROT (R238). -/
def execVrot (w : Bool) (f : TForm) (s : State) : Host.Outcome State Fault Refusal :=
  issue (.vrot w f) .always (fun cx s =>
    .ok s (wrV f.dst.toNat (wn w) cx.act (fun l =>
      let kk := s.opLane cx.k cx.e f.src1 1 (f.mod.getLsbD 0) l % 32
      s.laneN cx.k f.src0.toNat (wn w) ((l + kk) % 32))) 4) s

/-- VBCL (R238). -/
def execVbcl (w : Bool) (f : TForm) (s : State) : Host.Outcome State Fault Refusal :=
  issue (.vbcl w f) .always (fun cx s =>
    .ok s (wrV f.dst.toNat (wn w) cx.act (fun l =>
      let kk := s.opLane cx.k cx.e f.src1 1 (f.mod.getLsbD 0) l % 32
      s.laneN cx.k f.src0.toNat (wn w) (kk))) 4) s

/-- VCOMPRESS (R240): lane A[i] from lane S[i]. -/
def execVcompress (w : Bool) (f : TForm) (s : State) : Host.Outcome State Fault Refusal :=
  issue (.vcompress w f) .always (fun cx s =>
    let A := lanesOf (s.sub cx.k cx.e).lanes
    let S := lanesOf cx.act
    let into := (A.zip S)
    .ok s (wrV f.dst.toNat (wn w) (maskOf (fun l => into.any (fun p => p.1 == l))) (fun l =>
      match into.find? (fun p => p.1 == l) with
      | some p => s.laneN cx.k f.src0.toNat (wn w) p.2
      | none => 0)) 4) s

/-- VEXPAND (R240): lane S[i] from lane A[i]. -/
def execVexpand (w : Bool) (f : TForm) (s : State) : Host.Outcome State Fault Refusal :=
  issue (.vexpand w f) .always (fun cx s =>
    let into := (lanesOf cx.act).zip (lanesOf (s.sub cx.k cx.e).lanes)
    .ok s (wrV f.dst.toNat (wn w) cx.act (fun l =>
      match into.find? (fun p => p.1 == l) with
      | some p => s.laneN cx.k f.src0.toNat (wn w) p.2
      | none => 0)) 4) s

/-- The 128-byte stream of a register (R233), as a number. -/
def State.stream (s : State) (k r : Nat) : Nat := (List.range 32).foldl (fun n l => n + (s.laneN k r 1 l) * 2 ^ (32 * l)) 0
/-- Element width of a pack kind (R233). -/
def packWidth (k : PackKind) : Nat :=
  match k with
  | .e2m1 => 4 | .e3m2 => 6 | .b8 => 8 | .b16 => 16

/-- VPACK (R235): every lane of amask receives the stream, also when no lane is active. -/
def execVpack (kd : PackKind) (f : TForm) (s : State) : Host.Outcome State Fault Refusal :=
  issue (.vpack kd f) .always (fun cx s =>
    let w := packWidth kd
    let st := (lanesOf cx.act).foldl (fun n l => putField n (w * (32 * mf f.mod 1 3 + l)) w (s.laneN cx.k f.src0.toNat 1 l))
      (s.stream cx.k f.src1.toNat)
    .ok s (wrV f.dst.toNat 1 (s.sub cx.k cx.e).lanes (fun l => field st (32 * l) 32)) 3) s

/-- VUNPACK (R234). -/
def execVunpack (kd : PackKind) (f : TForm) (s : State) : Host.Outcome State Fault Refusal :=
  issue (.vunpack kd f) .always (fun cx s =>
    let w := packWidth kd
    let st := s.stream cx.k f.src0.toNat
    .ok s (wrV f.dst.toNat 1 cx.act (fun l =>
      let x := field st (w * (32 * mf f.mod 1 3 + l)) w
      if f.mod.getLsbD 4 then bitsOf 32 (sext w x) else x)) 3) s

end Sys2Proof.Machine
end

