-- ==== Sys2Proof/Machine/VectorFloat.lean ====
section
/-! DEFINITION. Floating-point vector instructions, conversions, MX quantisation and reductions (08 R224-R232, R236, R237,
R239). -/

namespace Sys2Proof.Machine

/-- The format, element count and element width of a type (R165). -/
def fvFmt : FVar → Fmt
  | .f32 => fmtF32 | .f64 => fmtF64 | .f16x2 => fmtF16 | .bf16x2 => fmtBf16
def fvElems : FVar → Nat
  | .f16x2 | .bf16x2 => 2
  | _ => 1
def f3Var : F3 → FVar
  | .f32 => .f32 | .f16x2 => .f16x2 | .f64 => .f64
/-- Element `j` of a lane value. -/
def elemOf (t : FVar) (x j : Nat) : Nat := if fvElems t = 2 then field x (16 * j) 16 else x
/-- A lane value from its elements. -/
def joinElems (t : FVar) (g : Nat → Nat) : Nat := if fvElems t = 2 then g 0 % 65536 + 65536 * (g 1 % 65536) else g 0

/-- A float constant in an operand of a type (R109). -/
def floatConstAs (t : FVar) (v : Nat) : Nat :=
  let x := fmtF32.decode (floatConst v).toNat
  match t with
  | .f32 => (floatConst v).toNat
  | .f64 => (fmtF64.round 0 false 0 x.toX).1
  | t => let h := ((fvFmt t).round 0 false 0 x.toX).1; h + 65536 * h

/-- A lane of a floating-point source (R109, R217). -/
def State.opLaneF (s : State) (k e : Nat) (f : BitVec 8) (t : FVar) (scalar : Bool) (l : Nat) : Nat :=
  if scalar && opIn f.toNat 0x80 0x8F then floatConstAs t f.toNat else s.opLane k e f t.n scalar l

/-- The draws of a lane's generator (R169): the j-th, and the state after n. -/
def drawAt (st : W32) : Nat → W32
  | 0 => st
  | j + 1 => drawAt (lfsrNext st) j

/-- A floating-point result for the active lanes: `F l draw` is lane `l`'s value and flags. An enabled flag traps (R175);
otherwise the generators advance by the draws made (R169) and the lanes and flags land (R174); with an enable bit set a slotted one holds
its group (R230). -/
def State.fpResult (s : State) (cx : Cx) (f : TForm) (nd lat draws : Nat) (slot : Bool)
    (F : Nat → (Nat → Nat) → Nat × BitVec 5) : Eff :=
  let k := cx.k
  let g := s.group k
  let st (l : Nat) : W32 := tget 0 g.lfsr l
  let res := (List.range 32).map (fun l => if lane cx.act l then F l (fun j => (drawAt (st l) j).toNat) else (0, 0))
  let fl (l : Nat) : BitVec 5 := (res.getD l (0, 0)).2
  match fpTrap g.fpcsr cx.act fl with
  | some t => .trap s t
  | none =>
    let s := if draws = 0 || cx.act = 0 then s
             else s.land k cx.e (.lfsr ((lanesOf cx.act).foldl (fun t l => tput t l (drawAt (st l) draws)) g.lfsr))
    let wrs := wrV f.dst.toNat nd cx.act (fun l => (res.getD l (0, 0)).1) ++ flagWr cx.act fl
    if slot then
      let s := s.slotBusy k cx.e cx.slot cx.op wrs
      let x := s.sub k cx.e
      .ok (if g.fpcsr &&& 0x1F00 = 0 then s else s.setSub k cx.e (x.setSlot cx.slot { x.slot cx.slot with hold := true })) [] 0
    else .ok s wrs lat

/-- Draws per lane of a rounding mode: one for each element under `.sr`. -/
def drawsFor (rm elems : Nat) : Nat := if rm = 4 then elems else 0

/-- An element-wise floating-point operation: `x a b c` is the exact result of an element (R224). -/
def fpEff (t : FVar) (f : TForm) (nsrc : Nat) (x : Fv → Fv → Fv → Rm → Xv) (cx : Cx) (s : State) : Eff :=
  let F := fvFmt t
  let rm := mf f.mod 2 3
  s.fpResult cx f t.n 5 (drawsFor rm (fvElems t)) false (fun l draw =>
    let a := s.laneN cx.k f.src0.toNat t.n l
    let b := s.opLaneF cx.k cx.e f.src1 t (f.mod.getLsbD 0) l
    let c := if nsrc = 3 then s.opLaneF cx.k cx.e f.src2 t (f.mod.getLsbD 1) l else 0
    let r (j : Nat) := F.round rm false (draw j) (x (F.decode (elemOf t a j)) (F.decode (elemOf t b j)) (F.decode (elemOf t c j)) rm)
    (joinElems t (fun j => (r j).1), (List.range (fvElems t)).foldl (fun m j => m ||| (r j).2) (0 : BitVec 5)))

/-- An element-wise function of one or two sources that raises no flag. -/
def fpQuiet (t : FVar) (f : TForm) (two : Bool) (nd lat : Nat) (g : Nat → Nat → Nat) (cx : Cx) (s : State) : Eff :=
  .ok s (wrV f.dst.toNat nd cx.act (fun l =>
    let a := s.laneN cx.k f.src0.toNat t.n l
    let b := if two then s.opLaneF cx.k cx.e f.src1 t (f.mod.getLsbD 0) l else 0
    joinElems t (fun j => g (elemOf t a j) (elemOf t b j)))) lat

/-- VFADD (R224). -/
def execVfadd (t : FVar) (f : TForm) (s : State) : Host.Outcome State Fault Refusal :=
  issue (.vfadd t f) .always (fpEff t f 2 (fun a b _ rm => a.add b rm)) s
/-- VFSUB (R224). -/
def execVfsub (t : FVar) (f : TForm) (s : State) : Host.Outcome State Fault Refusal :=
  issue (.vfsub t f) .always (fpEff t f 2 (fun a b _ rm => a.add b.neg rm)) s
/-- VFMUL (R224). -/
def execVfmul (t : FVar) (f : TForm) (s : State) : Host.Outcome State Fault Refusal :=
  issue (.vfmul t f) .always (fpEff t f 2 (fun a b _ _ => a.mulX b)) s
/-- VFMA (R224). -/
def execVfma (t : FVar) (f : TForm) (s : State) : Host.Outcome State Fault Refusal :=
  issue (.vfma t f) .always (fpEff t f 3 (fun a b c rm => a.fmaX b c rm)) s
/-- VFMIN (R225). -/
def execVfmin (t : FVar) (f : TForm) (s : State) : Host.Outcome State Fault Refusal :=
  issue (.vfmin t f) .always (fpQuiet t f true t.n 5 ((fvFmt t).minMax false)) s
/-- VFMAX (R225). -/
def execVfmax (t : FVar) (f : TForm) (s : State) : Host.Outcome State Fault Refusal :=
  issue (.vfmax t f) .always (fpQuiet t f true t.n 5 ((fvFmt t).minMax true)) s
/-- VFRND (R225). -/
def execVfrnd (t : FVar) (f : TForm) (s : State) : Host.Outcome State Fault Refusal :=
  issue (.vfrnd t f) .always (fpQuiet t f false t.n 3 (fun a _ => (fvFmt t).integral (mf f.mod 2 3) a)) s
/-- VFCLASS (R226). -/
def execVfclass (t : FVar) (f : TForm) (s : State) : Host.Outcome State Fault Refusal :=
  issue (.vfclass t f) .always (fpQuiet t f false 1 1 (fun a _ => (fvFmt t).classMask a)) s
/-- VFCMP (R227). -/
def execVfcmp (t : FVar) (f : TForm) (s : State) : Host.Outcome State Fault Refusal :=
  issue (.vfcmp t f) .always (fun cx s =>
    let F := fvFmt t
    let holds (l j : Nat) : Bool :=
      let a := F.decode (elemOf t (s.laneN cx.k f.src0.toNat t.n l) j)
      let b := F.decode (elemOf t (s.opLaneF cx.k cx.e f.src1 t (f.mod.getLsbD 0) l) j)
      match a.cmp b with
      | some o => cond227 (mf f.mod 1 4) false o
      | none => cond227 (mf f.mod 1 4) true .eq
    let both (l : Nat) : Bool :=
      if fvElems t = 1 then holds l 0
      else match mf f.mod 5 2 with
        | 0 => holds l 0
        | 1 => holds l 1
        | 2 => holds l 0 && holds l 1
        | _ => holds l 0 || holds l 1
    .ok s (wrP f.dst (maskOf (fun l => lane cx.act l && both l))) 2) s
/-- VFDOT2 (R228). -/
def execVfdot2 (bf : Bool) (f : TForm) (s : State) : Host.Outcome State Fault Refusal :=
  issue (.vfdot2 bf f) .always (fun cx s =>
    let t : FVar := if bf then .bf16x2 else .f16x2
    let F := fvFmt t
    let rm := mf f.mod 2 3
    s.fpResult cx f 1 5 (drawsFor rm 1) false (fun l draw =>
      let a := s.laneN cx.k f.src0.toNat 1 l
      let b := s.opLaneF cx.k cx.e f.src1 t (f.mod.getLsbD 0) l
      let c := s.opLaneF cx.k cx.e f.src2 .f32 (f.mod.getLsbD 1) l
      fmtF32.round rm false (draw 0) (dot2X (F.decode (elemOf t a 0)) (F.decode (elemOf t b 0)) (F.decode (elemOf t a 1))
        (F.decode (elemOf t b 1)) (fmtF32.decode c) rm))) s

/-- A rounded long-latency function (R229): the exact result of an element and the flag its table gives. -/
def fpRooted (t : FVar) (f : TForm) (x : Fv → Xv × BitVec 5) (cx : Cx) (s : State) : Eff :=
  let F := fvFmt t
  let rm := mf f.mod 2 3
  s.fpResult cx f t.n 0 (drawsFor rm (fvElems t)) true (fun l draw =>
    let a := s.laneN cx.k f.src0.toNat t.n l
    let r (j : Nat) : Nat × BitVec 5 :=
      let (v, fl) := x (F.decode (elemOf t a j))
      let (y, fl') := F.round rm false (draw j) v
      (y, fl ||| fl')
    (joinElems t (fun j => (r j).1), (List.range (fvElems t)).foldl (fun m j => m ||| (r j).2) (0 : BitVec 5)))
/-- A transcendental function (R176-R178). -/
def fpTranscendental (half : Bool) (f : TForm) (g : Nat → Nat × BitVec 5) (cx : Cx) (s : State) : Eff :=
  let t : FVar := if half then .f16x2 else .f32
  s.fpResult cx f 1 0 0 true (fun l _ =>
    let a := s.laneN cx.k f.src0.toNat 1 l
    let r (j : Nat) : Nat × BitVec 5 := if half then via16 g (elemOf t a j) else g a
    (joinElems t (fun j => (r j).1), (List.range (fvElems t)).foldl (fun m j => m ||| (r j).2) (0 : BitVec 5)))

/-- VRCP (R229). -/
def execVrcp (t : F3) (f : TForm) (s : State) : Host.Outcome State Fault Refusal :=
  issue (.vrcp t f) .always (fpRooted (f3Var t) f Fv.rcp) s
/-- VRSQRT (R229). -/
def execVrsqrt (half : Bool) (f : TForm) (s : State) : Host.Outcome State Fault Refusal :=
  issue (.vrsqrt half f) .always (fpRooted (if half then .f16x2 else .f32) f Fv.rsqrt) s
/-- VSQRT (R229). -/
def execVsqrt (t : F3) (f : TForm) (s : State) : Host.Outcome State Fault Refusal :=
  issue (.vsqrt t f) .always (fpRooted (f3Var t) f Fv.sqrt) s
/-- VEXP2 (R177). -/
def execVexp2 (half : Bool) (f : TForm) (s : State) : Host.Outcome State Fault Refusal :=
  issue (.vexp2 half f) .always (fpTranscendental half f exp2F32) s
/-- VLOG2 (R177). -/
def execVlog2 (half : Bool) (f : TForm) (s : State) : Host.Outcome State Fault Refusal :=
  issue (.vlog2 half f) .always (fpTranscendental half f log2F32) s
/-- VSIN (R177). -/
def execVsin (half : Bool) (f : TForm) (s : State) : Host.Outcome State Fault Refusal :=
  issue (.vsin half f) .always (fpTranscendental half f (fun a => sincosF32 a 0)) s
/-- VCOS (R177). -/
def execVcos (half : Bool) (f : TForm) (s : State) : Host.Outcome State Fault Refusal :=
  issue (.vcos half f) .always (fpTranscendental half f (fun a => sincosF32 a 1)) s

/-! ### Conversions (R231, R232) -/

/-- Float formats by source index and as a destination. -/
def srcFmt (i : Nat) : Fmt :=
  [fmtF64, fmtF32, fmtF16, fmtBf16, fmtE4m3, fmtE5m2, fmtE3m2, fmtE2m3, fmtE2m1].getD i fmtF32
/-- Destination of `vcvt`: a float format, or an integer type by signedness and width. -/
def cvtFmt : CvtDst → Fmt ⊕ (Bool × Nat)
  | .f64 => .inl fmtF64 | .f32 => .inl fmtF32 | .f16 => .inl fmtF16 | .bf16 => .inl fmtBf16 | .e4m3 => .inl fmtE4m3
  | .e5m2 => .inl fmtE5m2 | .e3m2 => .inl fmtE3m2 | .e2m3 => .inl fmtE2m3 | .e2m1 => .inl fmtE2m1
  | .i8 => .inr (true, 8) | .i16 => .inr (true, 16) | .i32 => .inr (true, 32) | .i64 => .inr (true, 64)
  | .n8 => .inr (false, 8) | .n16 => .inr (false, 16) | .n32 => .inr (false, 32) | .n64 => .inr (false, 64)
/-- An integer in its lane: `.i8` and `.i16` fill the lane with copies of their sign (R219). -/
def intLane (sgn : Bool) (w : Nat) (y : Int) : Nat := if sgn && decide (w < 32) then bitsOf 32 y else bitsOf w y

/-- One lane of a conversion (R232); an infinity converted under `.sat` is no exception (R171). -/
def convert (d : CvtDst) (int : Bool) (src rm : Nat) (sat : Bool) (x draw : Nat) : Nat × BitVec 5 :=
  if int then
    let w := 8 * 2 ^ (src % 4)
    let v : Int := if src < 4 then sext w x else (x % 2 ^ w : Nat)
    match cvtFmt d with
    | .inl F => F.round rm sat draw (intX v)
    | .inr (sgn, w) =>
      let y := satInt v (intLo sgn w) (intHi sgn w)
      (intLane sgn w y, if y = v then 0 else fIV)
  else
    let S := srcFmt src
    let v := S.decode x
    match cvtFmt d with
    | .inl F => if F = S ∧ (sat → v ≠ .inf false ∧ v ≠ .inf true) then (if v = .nan then F.nan else x % 2 ^ F.width, 0) else F.round rm sat draw v.toX
    | .inr (sgn, w) => let (y, fl) := v.toInt sgn w rm; (intLane sgn w y, fl)

/-- VCVT (R231, R232). -/
def execVcvt (d : CvtDst) (int : Bool) (f : TForm) (s : State) : Host.Outcome State Fault Refusal :=
  issue (.vcvt d int f) .always (fun cx s =>
    let src := mf f.mod 1 4
    let rm := mf f.mod 5 3
    let ns := if int then (if src = 3 || src = 7 then 2 else 1) else (if src = 0 then 2 else 1)
    s.fpResult cx f d.n 3 (drawsFor rm 1) false (fun l draw =>
      convert d int src rm (f.mod.getLsbD 8) (s.laneN cx.k f.src0.toNat ns l) (draw 0))) s

/-! ### MX (R236, R237) -/

/-- Element format of an MX type; `none` for `.i8`. -/
def mxFmt : MxKind → Option Fmt
  | .e4m3 => some fmtE4m3 | .e5m2 => some fmtE5m2 | .e3m2 => some fmtE3m2 | .e2m3 => some fmtE2m3 | .e2m1 => some fmtE2m1
  | .i8 => none
def mxEmax : MxKind → Int
  | .e4m3 => 8 | .e5m2 => 15 | .e3m2 => 4 | .e2m3 => 2 | .e2m1 => 2 | .i8 => 0
/-- Bits of an element (R237). -/
def mxWidth : MxKind → Nat
  | .e4m3 | .e5m2 | .i8 => 8
  | .e3m2 | .e2m3 => 6
  | .e2m1 => 4

/-- The shared scale of the active lanes' values (R236). -/
def mxScale (x : MxKind) (vs : List Fv) : Nat :=
  if vs.any (fun v => match v with | .fin .. => false | _ => true) then 0xFF
  else
    let ms := vs.filterMap (fun v => match v with | .fin _ n e => if n = 0 then none else some (log2Ratio n 1 e) | _ => none)
    match ms with
    | [] => 0
    | m :: t => (satInt (t.foldl max m - mxEmax x + 127) 0 254).toNat

/-- One lane of `vmxq` under scale `E` (R236). -/
def mxElem (x : MxKind) (E : Nat) (rm draw : Nat) (v : Fv) : Nat × BitVec 5 :=
  if E = 0xFF then (E * 256, match v with | .fin .. => 0 | _ => fIV)
  else
    match v with
    | .fin sg n e =>
      let y : Exact := .ratio n 1 (e - ((E : Int) - 127))
      match mxFmt x with
      | some F => let (q, fl) := F.round rm true draw (.real sg y); (E * 256 + q, fl)
      | none =>
        let (r, exact) := roundInt sg (.ratio n 1 (e - ((E : Int) - 127) + 6)) rm draw
        let q := satInt r (-128) 127
        (E * 256 + bitsOf 8 q, if q != r then fOF ||| fNX else if exact then 0 else fNX)
    | _ => (E * 256, 0)

/-- VMXQ (R236). Where the block holds a NaN or an infinity no element is rounded, so no draw is made (R169;
DEDUCED, see the assumption log).
(DEDUCED, notes/assumptions 36; unsafe.) -/
def execVmxq (x : MxKind) (f : TForm) (s : State) : Host.Outcome State Fault Refusal :=
  issue (.vmxq x f) .always (fun cx s =>
    let v (l : Nat) : Fv := f32V (s.laneN cx.k f.src0.toNat 1 l)
    let E := mxScale x ((lanesOf cx.act).map v)
    let rm := mf f.mod 2 3
    s.fpResult cx f 1 3 (if E = 0xFF then 0 else drawsFor rm 1) false (fun l draw => mxElem x E rm (draw 0) (v l))) s

/-- The value of an MX element times its scale, before rounding (R172, R180, R237). -/
def mxValue (x : MxKind) (b E : Nat) : Xv :=
  match mxFmt x with
  | some F =>
    match F.decode b with
    | .fin sg n e => .real sg (.ratio n 1 (e + E - 127))
    | v => v.toX
  | none => let v := sext 8 b; .real (decide (v < 0)) (.ratio v.natAbs 1 ((E : Int) - 133))

/-- VMXD (R237). -/
def execVmxd (x : MxKind) (f : TForm) (s : State) : Host.Outcome State Fault Refusal :=
  issue (.vmxd x f) .always (fun cx s =>
    s.fpResult cx f 1 3 0 false (fun l _ =>
      let b := s.laneN cx.k f.src0.toNat 1 l % 2 ^ mxWidth x
      let E := field (s.opLane cx.k cx.e f.src1 1 (f.mod.getLsbD 0) l) 8 8
      if E = 0xFF then (fmtF32.nan, 0) else fmtF32.round 0 false 0 (mxValue x b E))) s

/-! ### Reductions (R239) -/

/-- The format of a float operation of `vred`. -/
def redFmt : RedOp → Option Fmt
  | .addF32 | .minF32 | .maxF32 => some fmtF32
  | .addF64 => some fmtF64
  | _ => none
/-- `Combine` (R239). -/
def combine (o : RedOp) (rm acc x : Nat) : Nat × BitVec 5 :=
  match o with
  | .addI32 => ((acc + x) % 2 ^ 32, 0)
  | .addI64 => ((acc + x) % 2 ^ 64, 0)
  | .addF32 => fmtF32.round rm false 0 ((fmtF32.decode acc).add (fmtF32.decode x) rm)
  | .addF64 => fmtF64.round rm false 0 ((fmtF64.decode acc).add (fmtF64.decode x) rm)
  | .minI32 => (lesser true 32 acc x, 0)
  | .maxI32 => (greater true 32 acc x, 0)
  | .minN32 => (min acc x, 0)
  | .maxN32 => (max acc x, 0)
  | .minF32 => (fmtF32.minMax false acc x, 0)
  | .maxF32 => (fmtF32.minMax true acc x, 0)
  | .andB32 => (acc &&& x, 0)
  | .orB32 => (acc ||| x, 0)
  | .xorB32 => (acc ^^^ x, 0)
/-- `Canon` (R239). -/
def canon (o : RedOp) (x : Nat) : Nat :=
  match redFmt o with
  | some F => if F.decode x = .nan then F.nan else x
  | none => x
/-- The running values of the active lanes, ascending: lane, value, the flags its addition raised. -/
def runCombine (o : RedOp) (rm : Nat) : Option Nat → List (Nat × Nat) → List (Nat × Nat × BitVec 5)
  | _, [] => []
  | none, (l, x) :: t => (l, canon o x, 0) :: runCombine o rm (some (canon o x)) t
  | some a, (l, x) :: t => let (r, fl) := combine o rm a x; (l, r, fl) :: runCombine o rm (some r) t
def redLatency (o : RedOp) : Nat := if (redFmt o).isSome then 5 else 4
/-- The running values of an instruction's active lanes. -/
def State.running (s : State) (cx : Cx) (o : RedOp) (f : TForm) : List (Nat × Nat × BitVec 5) :=
  runCombine o (mf f.mod 2 3) none ((lanesOf cx.act).map (fun l => (l, s.laneN cx.k f.src0.toNat o.n l)))
/-- The flags of a lane's addition. -/
def runFlags (r : List (Nat × Nat × BitVec 5)) (l : Nat) : BitVec 5 :=
  match r.find? (fun p => p.1 == l) with
  | some p => p.2.2
  | none => 0
def runValue (r : List (Nat × Nat × BitVec 5)) (l : Nat) : Nat :=
  match r.find? (fun p => p.1 == l) with
  | some p => p.2.1
  | none => 0

/-- VRED (R239). -/
def execVred (o : RedOp) (f : TForm) (s : State) : Host.Outcome State Fault Refusal :=
  issue (.vred o f) .any (fun cx s =>
    let r := s.running cx o f
    match fpTrap (s.group cx.k).fpcsr cx.act (runFlags r) with
    | some t => .trap s t
    | none => .ok s (wrS f.dst.toNat o.n (match r.getLast? with | some p => p.2.1 | none => 0) ++ flagWr cx.act (runFlags r)) (redLatency o)) s
/-- VSCAN (R239). -/
def execVscan (o : RedOp) (f : TForm) (s : State) : Host.Outcome State Fault Refusal :=
  issue (.vscan o f) .always (fun cx s =>
    let r := s.running cx o f
    match fpTrap (s.group cx.k).fpcsr cx.act (runFlags r) with
    | some t => .trap s t
    | none => .ok s (wrV f.dst.toNat o.n cx.act (runValue r) ++ flagWr cx.act (runFlags r)) (redLatency o)) s

end Sys2Proof.Machine
end

