-- ==== Sys2Proof/Machine/Engine.lean ====
section
/-! DEFINITION. The matrix engine (12 R286-R307): its values, its microinstructions, routine faults, the library routines. -/

namespace Sys2Proof.Machine

/-! ### Scratchpad ranges of a block -/

/-- `n` bytes from a block offset, and whether each is poisoned. -/
def State.spmRead (s : State) (b o n : Nat) : List Byte := (List.range n).map (fun i => s.byte (s.spmAt b (o + i)))
/-- Bytes written from a block offset, bank by bank; a dropped bank revives (R154). -/
def State.spmWriteN (s : State) (b o : Nat) : Nat → List Byte → State
  | 0, _ => s
  | f + 1, bs =>
    if bs.isEmpty then s
    else
      let z := bankSize (unitOfBlock b)
      let n := z - o % z
      (s.writeAt (s.spmAt b o) (bs.take n)).spmWriteN b (o + n) f (bs.drop n)
def State.spmWrite (s : State) (b o : Nat) (bs : List Byte) : State := s.spmWriteN b o (bs.length / bankSize (unitOfBlock b) + 2) bs
/-- One offset in each bank that a range touches. -/
def bankOffsets (u o n : Nat) : List Nat :=
  if n = 0 then []
  else (List.range ((o + n - 1) / bankSize u - o / bankSize u + 1)).map (fun i => max o ((o / bankSize u + i) * bankSize u))
/-- Some granule of a range is poisoned. -/
def State.spmPoisoned (s : State) (b o n : Nat) : Bool := (List.range n).any (fun i => s.poisoned (s.spmAt b (o + i)) 1)

/-! ### Values (R164, R165, R180-R182) -/

/-- Bits of an element of a format code (R297). -/
def muWidth (c : Nat) : Nat := if c = 2 || c = 3 then 6 else if c = 4 || c = 6 then 4 else if 7 ≤ c then 16 else 8
def muFmt (c : Nat) : Fmt :=
  match c with
  | 0 => fmtE4m3 | 1 => fmtE5m2 | 2 => fmtE3m2 | 3 => fmtE2m3 | 4 => fmtE2m1 | 7 => fmtF16 | _ => fmtBf16
/-- The value of an element; an absent one is an exact zero. -/
def muVal (c : Nat) (x : Option Nat) : Fv :=
  match x with
  | none => .fin false 0 0
  | some b => if c = 5 then .fin (decide (sext 8 b < 0)) (sext 8 b).natAbs (-6) else (muFmt c).decode b
def muInt (c : Nat) (x : Option Nat) : Int :=
  match x with
  | none => 0
  | some b => sext (muWidth c) b
/-- The path of R301: 0 none, 1 float, 2 integer. -/
def muPath (mx : Bool) (fa fb : Nat) : Nat :=
  let float (c : Nat) : Bool := decide (c ≤ 4) || c == 7 || c == 8
  if (if mx then decide (fa ≤ 5) && decide (fb ≤ 5) else float fa && float fb) then 1
  else if !mx && (fa == 5 || fa == 6) && (fb == 5 || fb == 6) then 2
  else 0

/-- Elements of a row, packed under R164. -/
def unpackRow (c n : Nat) (bs : List Byte) : List (Option Nat) :=
  let x := leNat bs
  (List.range n).map (fun i => some (field x (muWidth c * i) (muWidth c)))

/-- The exact sum of finite values. -/
def sumFv (ps : List Fv) : Int × Int :=
  ps.foldl (fun a p =>
    match p with
    | .fin sg n e => if n = 0 then a else if a.1 = 0 then ((if sg then -(n : Int) else n), e) else sumFin (decide (a.1 < 0), a.1.natAbs, a.2) (sg, n, e)
    | _ => a) (0, 0)

/-- R180 steps 2 to 5 and R181 for one element: the rounded block sum. -/
def blockSum (ps : List (Fv × Fv)) (scales : Option (Nat × Nat)) : Nat :=
  let isNan (v : Fv) : Bool := v == .nan
  let ff := match scales with
    | some (x, y) => x == 0xFF || y == 0xFF
    | none => false
  let prods := ps.map (fun p => (p.1.mul p.2).1)
  if ff || ps.any (fun p => isNan p.1 || isNan p.2) || prods.any isNan then fmtF32.nan
  else
    match prods.any (· == .inf false), prods.any (· == .inf true) with
    | true, true => fmtF32.nan
    | true, false => fmtF32.inf
    | false, true => fmtF32.sign true + fmtF32.inf
    | false, false =>
      let (v, e) := sumFv prods
      let sc : Int := match scales with
        | some (x, y) => (x : Int) + y - 254
        | none => 0
      if v = 0 then 0 else f32X (.real (decide (v < 0)) (.ratio v.natAbs 1 (e + sc)))

/-- A whole tile from a function of its element numbers; +0 is not listed. -/
def tileOf (n : Nat) (f : Nat → W32) : Tab W32 := (List.range n).filterMap (fun i => if f i = 0 then none else some (i, f i))

/-! ### Reads of a ring tile (R297-R300) -/

/-- What a read gives: bytes, a fault with its scratchpad offset, or a wait. -/
inductive Got (α : Type) where
  | ok (x : α)
  | bad (reason off : Nat)
  | wait (s : State)

/-- The tile `ahead` of the head: its offset and length; a fault or a wait. -/
def State.tileAhead (s : State) (b ring ahead : Nat) : Got (Nat × Nat) :=
  let r := s.ring b ring
  if !r.usable then .bad 0x04 0
  else if r.full ≤ ahead then .wait s
  else .ok (r.tileAt ((r.head + ahead) % r.cap), 128 * r.tsize)

/-- Ranges of a tile read: all must lie in it, in banks not dropped, unpoisoned. -/
def State.readTile (s : State) (b start len : Nat) (rs : List (Nat × Nat)) : Got (List (List Byte)) :=
  match rs.find? (fun r => decide (len < r.1 + r.2)) with
  | some r => .bad 0x03 (start + r.1)
  | none =>
    let offs := rs.flatMap (fun r => bankOffsets (unitOfBlock b) (start + r.1) r.2)
    match offs.find? (s.dropped b) with
    | some o => .bad 0x05 o
    | none =>
      match s.wakeFor b offs with
      | some s => .wait s
      | none =>
        if offs.any (fun o => s.bankHeld s.nextId (s.spmAt b o)) then .wait s
        else match rs.find? (fun r => s.spmPoisoned b (start + r.1) r.2) with
        | some r => .bad 0x0C (start + r.1)
        | none => .ok (rs.map (fun r => s.spmRead b (start + r.1) r.2))

/-- A parsed record: its rows, or a fault reason; and the bytes taken. -/
abbrev Parsed := Except Nat (List (List (Option Nat))) × Nat

/-- A stripe record of two-level mode (R299): 32 columns. -/
def parseStripe (c : Nat) (bs : List Byte) : Parsed :=
  let bitmap := leNat (bs.take 8)
  let live := (List.range 64).filter (bitAt bitmap)
  let L := live.length
  let ni := (2 * L + 7) / 8 * 8
  let idx := (bs.drop 8).take ni
  let nv := L * muWidth c
  let nvp := (nv + 15) / 16 * 16
  let vals := (bs.drop (8 + ni)).take nvp
  let total := 8 + ni + nvp
  let word (v : Nat) : Nat := leNat ((idx.drop (2 * v)).take 2)
  if bs.length < total then (.error 0x03, bs.length)
  else if (idx.drop (2 * L)).any (· != 0) || (vals.drop nv).any (· != 0) ||
      (List.range L).any (fun v => (List.range 4).any (fun g => decide (field (word v) (4 * g + 2) 2 ≤ field (word v) (4 * g) 2))) then
    (.error 0x09, total)
  else
    let x := leNat vals
    (.ok ((List.range 32).map (fun col => (List.range 32).map (fun k =>
      let bit := 2 * col + k / 16
      if !bitAt bitmap bit then none
      else
        let v := live.idxOf bit
        let g := k % 16 / 4
        let at_ (j : Nat) : Option Nat := some (field x (muWidth c * (8 * v + 2 * g + j)) (muWidth c))
        if k % 4 = field (word v) (4 * g) 2 then at_ 0
        else if k % 4 = field (word v) (4 * g + 2) 2 then at_ 1
        else none))), total)

/-- A row record of intersection mode (R300). -/
def parseRow (c : Nat) (bs : List Byte) : Parsed :=
  let mask := leNat (bs.take 4)
  let live := (List.range 32).filter (bitAt mask)
  let bits := live.length * muWidth c
  let total := (4 + (bits + 7) / 8 + 15) / 16 * 16
  let x := leNat ((bs.take total).drop 4)
  if bs.length < total then (.error 0x03, bs.length)
  else if x / 2 ^ bits ≠ 0 then (.error 0x09, total)
  else
    (.ok [(List.range 32).map (fun k => if bitAt mask k then some (field x (muWidth c * live.idxOf k) (muWidth c)) else none)], total)

/-- `n` records, one after another. -/
def parseMany (p : List Byte → Parsed) : Nat → List Byte → Parsed
  | 0, _ => (.ok [], 0)
  | n + 1, bs =>
    match p bs with
    | (.error r, t) => (.error r, t)
    | (.ok x, t) =>
      match parseMany p n (bs.drop t) with
      | (.error r, u) => (.error r, t + u)
      | (.ok y, u) => (.ok (x ++ y), t + u)

/-- What a feed reads (R298-R300) at `base` in the tile: the operand's rows, and the length of the records. -/
def State.feed (s : State) (b : Nat) (mode : Nat) (opB : Bool) (ring base stride c ahead : Nat) : Got (List (List (Option Nat)) × Nat) :=
  let u := unitOfBlock b
  let rows := if opB then accCols u else accRows u
  match s.tileAhead b ring ahead with
  | .bad r o => .bad r o
  | .wait s => .wait s
  | .ok (start, len) =>
    let stripes := mode == 1 && opB
    if stripes || mode == 2 then
      if stride ≠ 0 then .bad 0x09 (start + base)
      else if len < base then .bad 0x03 (start + base)
      else
        let bs := s.spmRead b (start + base) (len - base)
        let (r, t) := if stripes then parseMany (parseStripe c) (rows / 32) bs else parseMany (parseRow c) rows bs
        match s.readTile b start len [(base, t)], r with
        | .bad r o, _ => .bad r o
        | .wait s, _ => .wait s
        | .ok _, .error r => .bad r (start + base)
        | .ok _, .ok x => .ok (x, t)
    else
      let n := 4 * muWidth c
      match s.readTile b start len ((List.range rows).map (fun i => (base + 16 * stride * i, n))) with
      | .bad r o => .bad r o
      | .wait s => .wait s
      | .ok xs => .ok (xs.map (unpackRow c 32), 0)

/-- The scale bytes of an operand (R297). -/
def State.feedScale (s : State) (b : Nat) (opB : Bool) (ring base ahead : Nat) : Got (List Nat) :=
  let u := unitOfBlock b
  match s.tileAhead b ring ahead with
  | .bad r o => .bad r o
  | .wait s => .wait s
  | .ok (start, len) =>
    match s.readTile b start len [(base, if opB then accCols u else accRows u)] with
    | .bad r o => .bad r o
    | .wait s => .wait s
    | .ok xs => .ok (xs.flatMap (·.map BitVec.toNat))

/-! ### Steps (R301, R302) -/

def MSlot.emptyLatches (m : MSlot) : MSlot := { m with a := none, b := none, sa := none, sb := none }

/-- `Mu_Step` (R301). -/
def MSlot.step (m : MSlot) (mx : Bool) : Except Nat MSlot :=
  match m.a, m.b with
  | some (fa, xs), some (fb, ys) =>
    if muPath mx fa fb = 0 then .error 0x06
    else if m.buf.isSome then .error 0x07
    else .ok { m with buf := some mx, bufA := (fa, xs), bufB := (fb, ys) }
  | _, _ => .error 0x06

/-- `Mu_Acc` (R301). -/
def MSlot.accumulate (m : MSlot) (u : Nat) : Except Nat MSlot :=
  match m.buf with
  | none => .error 0x07
  | some mx =>
    if mx && (m.sa.isNone || m.sb.isNone) then .error 0x08
    else if !m.accPz.isEmpty then .error 0x0C
    else
      let N := accCols u
      let fa := m.bufA.1
      let fb := m.bufB.1
      let val (n : Nat) : W32 :=
        let i := n / N
        let j := n % N
        let row := m.bufA.2.getD i []
        let col := m.bufB.2.getD j []
        let c := tget 0 m.acc n
        if muPath mx fa fb = 2 then
          let sum := ((row.zip col).map (fun p => muInt fa p.1 * muInt fb p.2)).foldl (· + ·) 0
          BitVec.ofNat 32 (bitsOf 32 (sext 32 c.toNat + sum))
        else
          let ps := (row.zip col).map (fun p => (muVal fa p.1, muVal fb p.2))
          let sc := if mx then some ((m.sa.getD []).getD i 0, (m.sb.getD []).getD j 0) else none
          BitVec.ofNat 32 (f32Add c.toNat (blockSum ps sc))
      .ok { m with acc := tileOf (accRows u * N) val, buf := none, sa := none, sb := none }

/-- The bytes of row `i` in an output format (R302). -/
def MSlot.rowBytes (m : MSlot) (u ofmt i : Nat) : List Byte :=
  (List.range (accCols u)).flatMap (fun j =>
    let c := (tget 0 m.acc (accCols u * i + j)).toNat
    match ofmt with
    | 0 => leBytes 4 c
    | 1 => leBytes 2 (fmtF16.round 0 false 0 (f32V c).toX).1
    | _ => leBytes 2 (fmtBf16.round 0 false 0 (f32V c).toX).1)

/-- Bytes of a row of the tile in an output format, and the offset of byte `x` of a tile written at `o` (R302). -/
def rowSize (u ofmt : Nat) : Nat := accCols u * (if ofmt = 0 then 4 else 2)
def drainAt (u ofmt o stride x : Nat) : Nat := o + 16 * stride * (x / rowSize u ofmt) + x % rowSize u ofmt
/-- Bytes of a whole tile in an output format. -/
def drainSize (u ofmt : Nat) : Nat := accRows u * rowSize u ofmt

/-- What keeps a tile from being written at a block offset (R302): bytes outside `lo` to `hi`, or a poisoned accumulator. -/
def State.drainBad (s : State) (b : Nat) (m : MSlot) (o stride ofmt lo hi : Nat) : Option (Nat × Nat) :=
  let u := unitOfBlock b
  let n := rowSize u ofmt
  let at_ (i : Nat) : Nat := o + 16 * stride * i
  match (List.range (accRows u)).find? (fun i => decide (at_ i < lo) || decide (hi < at_ i + n) || !s.inSpm b (at_ i) n) with
  | some i => some (0x03, at_ i)
  | none => if m.accPz.isEmpty then none else some (0x0C, 0)

/-- One byte of the tile, of a free choice among those left, is written (R348): of bytes that meet at one offset the later row's comes last.
A wait where the byte's bank is waking, or where a drop of it has not taken effect (R154, R265).
(DESIGN CHOICE, notes/assumptions 78; safe.) -/
def State.drainByte (s : State) (b : Nat) (m : MSlot) (o stride ofmt : Nat) (left : List Nat) : Got (State × List Nat) :=
  let u := unitOfBlock b
  let (i, s) := s.choose left.length
  let place := drainAt u ofmt o stride (left.getD i 0)
  match left.find? (fun x => drainAt u ofmt o stride x == place) with
  | none => .ok (s, left)
  | some x =>
    match s.wakeFor b [place] with
    | some s => .wait s
    | none =>
      if s.bankHeld s.nextId (s.spmAt b place) then .wait s
      else .ok (s.writeAt (s.spmAt b place) [(m.rowBytes u ofmt (x / rowSize u ofmt)).getD (x % rowSize u ofmt) 0], left.filter (· != x))

/-- The granules that a drain has written whole are no longer poisoned (R458). -/
def State.drainClean (s : State) (b : Nat) (o stride ofmt : Nat) : State :=
  let u := unitOfBlock b
  let n := rowSize u ofmt
  let gs := (List.range (accRows u)).flatMap (fun i =>
    let a := o + 16 * stride * i
    ((List.range (n / 16 + 1)).map (fun j => (a / 16 + j) * 16)).filter (fun g => decide (a ≤ g) && decide (g + 16 ≤ a + n)))
  { s with poison := s.poison.filter (fun g => !gs.any (fun p => s.spmAt b p == 16 * g)) }

/-! ### Arrivals, the end of a routine, faults (R303, R305) -/

/-- A routine's arrival with `n` landed bytes. -/
def State.routineArrives (s : State) (b p off n : Nat) : State := s.barUpdate b off (.arrive (100 + p) 0 n none none)

/-- The end of a routine (R303): its arrival, and the idle slot. -/
def State.routineEnds (s : State) (u p : Nat) (m : MSlot) : State :=
  let s := if m.bar = 0xFFFFFFFF then s else s.routineArrives m.block p m.bar m.nbytes
  (s.setMslot u p { m.emptyLatches with st := 0, buf := none, nbytes := 0, lib := none }).postOnce .blockRetire { a := m.block }

/-- A routine fault (R305). -/
def State.routineFaults (s : State) (u p reason off : Nat) : State :=
  let m := s.mslot u p
  let s := s.setMslot u p { m.emptyLatches with st := 3, reason := reason, buf := none, lib := none, drainTile := none, drainLeft := none }
  let s := if m.bar = 0xFFFFFFFF then s
    else
      let x := s.block m.block
      (s.setBlock m.block { x with routineFault := tput x.routineFault m.bar (m.upc, off, reason, m.routine, m.logical) }).barUpdate
        m.block m.bar (.fault 2)
  s.postOnce .blockRetire { a := m.block }

/-- The tile at the head is popped, and banks wholly inside it drop (R292). -/
def State.popTile (s : State) (b ring : Nat) : State :=
  let r := s.ring b ring
  (s.setRing b ring { r with full := r.full - 1, head := (r.head + 1) % r.cap }).dropBanks b (r.tileAt r.head) (r.tileAt (r.head + 1))
/-- `mu.pop` (R303): the fault it makes. -/
def State.popFault (s : State) (b ring : Nat) : Option Nat :=
  let r := s.ring b ring
  if !r.usable then some 0x04 else if r.full = 0 then some 0x0A else none

/-- A yield (R303): where a pre-emption of the block is pending the slot is suspended; a terminated block's routine stops (R408). -/
def State.yieldSlot (s : State) (m : MSlot) : MSlot :=
  let m := m.emptyLatches
  if (s.block m.block).terminated then { m with st := 0 } else if (s.block m.block).saving.isSome then { m with st := 2 } else m

/-- A waiting routine of a terminated block stops where it is (R408). -/
def State.engineWaits (s : State) (u p : Nat) : State :=
  let m := s.mslot u p
  if (s.block m.block).terminated then (s.setMslot u p { m.emptyLatches with st := 0, buf := none, lib := none, drainTile := none, drainLeft := none }).postOnce .blockRetire { a := m.block } else s

/-! ### Microinstructions (R296-R303) -/

/-- What a microinstruction does. -/
inductive MuEff where
  | go (s : State) (m : MSlot)
  | jump (s : State) (m : MSlot) (target : Nat)
  | fault (reason off : Nat)
  | wait (s : State)
  | over (s : State)

/-- Bits of the word that an op lists (R296). -/
def muListed (i : Instr) : Nat :=
  match i with
  | .muFeed _ => 2 ^ 58 - 2 ^ 8
  | .muStep _ => 2 ^ 57
  | .muSparse _ => 3 * 2 ^ 56
  | .muScale _ => 2 ^ 58 - 2 ^ 39 + (2 ^ 23 - 2 ^ 8)
  | .muDrain _ => 2 ^ 58 - 2 ^ 23 + (2 ^ 20 - 2 ^ 8)
  | .muPop _ => 7 * 2 ^ 55
  | .muLoop _ => 2 ^ 58 - 2 ^ 43
  | .muSig _ => 15 * 2 ^ 54
  | _ => 0

/-- A microinstruction of the routine that the step moves.
(DEDUCED, notes/assumptions 64; unsafe.) -/
def micro (i : Instr) (w : MuWord) (f : Nat → Nat → MSlot → State → MuEff) (s : State) : Host.Outcome State Fault Refusal :=
  match s.cur with
  | .engine u p =>
    let m := s.mslot u p
    if w.toNat &&& muListed i ≠ w.toNat then .next (s.routineFaults u p 0x01 0)
    else
      match f u p m s with
      | .go s m => .next (s.setMslot u p { m with upc := m.upc + 1 })
      | .jump s m t => .next (s.setMslot u p { m with upc := t })
      | .fault r o => .next (s.routineFaults u p r o)
      | .wait s => .next (s.engineWaits u p)
      | .over s => .next s
  | _ => .fault .noIssuer

def MSlot.wreg (m : MSlot) (n : Nat) : Nat := (tget 0 m.w n).toNat
def MSlot.setW (m : MSlot) (n : Nat) (x : Int) : MSlot := { m with w := tput m.w n (BitVec.ofNat 64 (bitsOf 64 x)) }
/-- The address fields of a feed, scale or drain: offset, advance. -/
def muBase (w : MuWord) (m : MSlot) : Nat := m.wreg (field w.toNat 51 3) % 2 ^ 32 + 16 * field w.toNat 39 12
def muAdvance (w : MuWord) (m : MSlot) : MSlot :=
  let n := field w.toNat 51 3
  m.setW n ((m.wreg n : Int) + 16 * sext 12 (field w.toNat 8 12))

/-- MU_FEED (R297). -/
def execMuFeed (w : MuWord) (s : State) : Host.Outcome State Fault Refusal :=
  micro (.muFeed w) w (fun _ _ m s =>
    let x := w.toNat
    let opB := bitAt x 57
    let c := field x 23 4
    let records := m.mode == 2 || (m.mode == 1 && opB)
    if 9 ≤ c || (records && field x 8 12 ≠ 0) then .fault 0x01 0
    else
      match s.feed m.block m.mode opB (field x 54 3) (muBase w m) (field x 27 12) c (field x 20 3) with
      | .bad r o => .fault r o
      | .wait s => .wait s
      | .ok (rows, n) =>
        let m := if opB then { m with b := some (c, rows) } else { m with a := some (c, rows) }
        let wo := field x 51 3
        .go s (if records then m.setW wo ((m.wreg wo : Int) + n) else muAdvance w m)) s
/-- MU_SCALE (R297). -/
def execMuScale (w : MuWord) (s : State) : Host.Outcome State Fault Refusal :=
  micro (.muScale w) w (fun _ _ m s =>
    let x := w.toNat
    let opB := bitAt x 57
    match s.feedScale m.block opB (field x 54 3) (muBase w m) (field x 20 3) with
    | .bad r o => .fault r o
    | .wait s => .wait s
    | .ok xs => .go s (muAdvance w (if opB then { m with sb := some xs } else { m with sa := some xs }))) s
/-- MU_STEP (R301). -/
def execMuStep (w : MuWord) (s : State) : Host.Outcome State Fault Refusal :=
  micro (.muStep w) w (fun _ _ m s =>
    match m.step (bitAt w.toNat 57) with
    | .error r => .fault r 0
    | .ok m => .go s m) s
/-- MU_ACC (R301). -/
def execMuAcc (w : MuWord) (s : State) : Host.Outcome State Fault Refusal :=
  micro (.muAcc w) w (fun u _ m s =>
    match m.accumulate u with
    | .error r => .fault r 0
    | .ok m => .go s m) s
/-- MU_SPARSE (R303). -/
def execMuSparse (w : MuWord) (s : State) : Host.Outcome State Fault Refusal :=
  micro (.muSparse w) w (fun _ _ m s =>
    let n := field w.toNat 56 2
    if n = 3 then .fault 0x01 0 else .go s { m.emptyLatches with mode := n }) s

/-- The drain of a ring tile or of a block offset (R302), byte by byte: it begins where nothing of the tile is left to be written, having taken
the tile of a ring under a name of its own, and a drain to a ring ends when its tile is pushed. -/
def State.drainStep (s : State) (p : Nat) (m : MSlot) (toring : Bool) (ring base stride ofmt : Nat) (clr : Bool) : MuEff :=
  let b := m.block
  let u := unitOfBlock b
  let r := s.ring b ring
  match m.drainLeft with
  | some left =>
    let o := base + (if toring then r.tileAt (m.drainTile.getD (0, 0)).1 else 0)
    match s.drainByte b m o stride ofmt left with
    | .bad x o => .fault x o
    | .wait s => .wait s
    | .ok (s, left) =>
      if left.isEmpty then
        let m := { m with drainLeft := none, nbytes := m.nbytes + drainSize u ofmt, acc := if clr then [] else m.acc }
        let s := s.drainClean b o stride ofmt
        match m.drainTile with
        | some (t, _) => .over (((s.setRing b ring ((s.ring b ring).written t)).post .ringPush { a := b, b := ring }).setMslot u p m)
        | none => .go s m
      else .over (s.setMslot u p { m with drainLeft := some left })
  | none =>
    match m.drainTile with
    | some (_, who) => if r.taken.any (fun x => x.2.1 == who) then .wait s else .go s { m with drainTile := none }
    | none =>
      if 3 ≤ ofmt then .fault 0x01 0
      else if toring && !r.usable then .fault 0x04 0
      else if toring && r.isFull then .wait s
      else
        let (who, s) := s.fresh
        let (r', t) := r.take (who + 3)
        let lo := if toring then r.tileAt t else 0
        match s.drainBad b m (base + lo) stride ofmt lo (if toring then r.tileAt (t + 1) else s.spmSize b) with
        | some (x, o) => .fault x o
        | none =>
          .over ((if toring then s.setRing b ring r' else s).setMslot u p
            { m with drainLeft := some (List.range (drainSize u ofmt)), drainTile := if toring then some (t, who + 3) else none })

/-- MU_DRAIN (R302): the advance follows the push. -/
def execMuDrain (w : MuWord) (s : State) : Host.Outcome State Fault Refusal :=
  micro (.muDrain w) w (fun _ p m s =>
    let x := w.toNat
    match s.drainStep p m (bitAt x 57) (field x 54 3) (muBase w m) (field x 27 12) (field x 24 3) (bitAt x 23) with
    | .go s m => .go s (muAdvance w m)
    | r => r) s
/-- MU_CLEAR (R303). -/
def execMuClear (w : MuWord) (s : State) : Host.Outcome State Fault Refusal :=
  micro (.muClear w) w (fun _ _ m s => .go s { m with acc := [], accPz := [] }) s
/-- MU_POP (R303). -/
def execMuPop (w : MuWord) (s : State) : Host.Outcome State Fault Refusal :=
  micro (.muPop w) w (fun _ _ m s =>
    let ring := field w.toNat 55 3
    match s.popFault m.block ring with
    | some r => .fault r 0
    | none => .go (s.popTile m.block ring) m) s
/-- The core kinds as a microcode image has them. -/
def libraryKind (u : Nat) : Nat := if kindOfUnit u = .stream then 1 else 0
/-- A routine's entry (R293): those of the library come from the microcode image loaded on the core. -/
def State.rtEntry (s : State) (u n : Nat) : Nat :=
  if n < 0x20 then
    match tfind s.boot.library u with
    | some bs => if n < 7 then 3 * 2 ^ 30 + Config.libraryEntry bs (libraryKind u) n % 2 ^ 24 else 0
    | none => 0
  else (tget 0 (s.core u).rt n).toNat
/-- Words of the microprogram store, and the first of the user area (R286). -/
def storeWords (u : Nat) : Nat := if kindOfUnit u = .stream then 4096 else 1024
def userWords (u : Nat) : Nat := if kindOfUnit u = .stream then 0x400 else 0x100
/-- A word of the store: the library area as its microcode image wrote it (R293). -/
def State.storeWord (s : State) (u w : Nat) : W64 :=
  if w < userWords u then
    match tfind s.boot.library u with
    | some bs => Config.libraryWord bs (libraryKind u) w
    | none => 0
  else tget 0 (s.core u).store w
def rtStart (e : Nat) : Nat := field e 0 12
def rtLen (e : Nat) : Nat := field e 12 12
def rtOwner (e : Nat) : Nat := field e 24 6
def rtLib (e : Nat) : Bool := bitAt e 30
def rtValid (e : Nat) : Bool := bitAt e 31
/-- A store word address lies in the routine. -/
def inRoutine (e w : Nat) : Bool := decide (rtStart e ≤ w) && decide (w ≤ rtStart e + rtLen e)

/-- MU_LOOP (R303). -/
def execMuLoop (w : MuWord) (s : State) : Host.Outcome State Fault Refusal :=
  micro (.muLoop w) w (fun u _ m s =>
    let n := field w.toNat 55 3
    let t := field w.toNat 43 12
    let x := m.wreg n
    if x = 0 then .go s m
    else
      let m' := m.setW n ((x : Int) - 1)
      if x - 1 = 0 then .go s m'
      else if inRoutine (s.rtEntry u m.routine) t then .jump s m' t
      else .fault 0x02 0) s
/-- MU_SIG (R303). -/
def execMuSig (w : MuWord) (s : State) : Host.Outcome State Fault Refusal :=
  micro (.muSig w) w (fun _ p m s =>
    let off : Nat := m.wreg (field w.toNat 55 3) % 2 ^ 32
    if off % 16 ≠ 0 || !s.inSpm m.block off 16 then .fault 0x0D off
    else
      let s := if !bitAt w.toNat 54 then s.routineArrives m.block p off m.nbytes
        else if m.nbytes = 0 then s
        else s.barUpdate m.block off (.landing m.nbytes)
      .go s { m with nbytes := 0 }) s
/-- MU_YIELD (R303): the saved micro-PC is that of the next word (R306). -/
def execMuYield (w : MuWord) (s : State) : Host.Outcome State Fault Refusal :=
  micro (.muYield w) w (fun _ _ m s => if m.buf.isSome then .fault 0x0B 0 else .go s (s.yieldSlot m)) s
/-- MU_END (R303). -/
def execMuEnd (w : MuWord) (s : State) : Host.Outcome State Fault Refusal :=
  micro (.muEnd w) w (fun u p m s => .over (s.routineEnds u p m)) s

/-! ### The library (R307) -/

/-- A library routine goes on: the micro-PC is the library's own, a free word of the routine (notes/assumptions 8). -/
def State.libGo (s : State) (u p : Nat) (m : MSlot) (l : Lib) : State :=
  let (w, s) := s.freeWord
  let e := s.rtEntry u m.routine
  s.setMslot u p { m with lib := some l, upc := (rtStart e + w % (rtLen e + 1)) % 4096 }

/-- Parameters of routines 0x00-0x04. -/
def MSlot.nk (m : MSlot) : Nat := field (m.wreg 1) 0 32
def MSlot.ka (m : MSlot) : Nat := field (m.wreg 1) 32 16
def MSlot.kb (m : MSlot) : Nat := field (m.wreg 1) 48 16

/-- The parameters are malformed (R307). -/
def MSlot.libBad (m : MSlot) : Bool :=
  if m.routine ≤ 4 then m.wreg 0 / 2 ^ 17 != 0 || m.wreg 2 / 2 ^ 24 != 0 || m.ka == 0 || m.kb == 0
  else if m.routine = 5 then m.wreg 0 / 2 ^ 7 != 0 || m.wreg 1 / 2 ^ 32 != 0 || m.wreg 2 / 2 ^ 12 != 0
  else false

/-- One stage of routines 0x00-0x04: 0 feeds A, 1 feeds B, 2 and 3 the scales, 4 steps and accumulates, 5 pops A (and 6 S), 7 pops B, 8
yields; from 9 the pops at the end. -/
def State.libMm (s : State) (u p : Nat) (m : MSlot) (l : Lib) : State :=
  let b := m.block
  let M := accRows u
  let N := accCols u
  let x := m.wreg 0
  let ra := field x 0 3
  let rb := field x 3 3
  let rs := field x 6 3
  let fa := field x 9 4
  let fb := field x 13 4
  let mx := decide (3 ≤ m.routine)
  let mode := if m.routine = 1 || m.routine = 4 then 1 else if m.routine = 2 then 2 else 0
  let m := { m with mode := mode }
  let ja := l.k % m.ka
  let jb := l.k % m.kb
  let go (s : State) (m : MSlot) (l : Lib) : State := s.libGo u p m l
  let got (r : Got State) : State := match r with
    | .ok s => s
    | .bad r o => s.routineFaults u p r o
    | .wait s => s.engineWaits u p
  let pop (ring : Nat) (f : State → State) : State := match s.popFault b ring with
    | some r => s.routineFaults u p r 0
    | none => f (s.popTile b ring)
  match l.stage with
  | 0 =>
    if m.nk ≤ l.k then go s m { l with stage := 9 }
    else if 9 ≤ fa then s.routineFaults u p 0x01 0
    else
      let stride := field (m.wreg 2) 0 12
      got (match s.feed b mode false ra (16 * stride * M * ja) (if mode = 2 then 0 else stride) fa 0 with
        | .ok (rows, _) => .ok (go s { m with a := some (fa, rows) } { l with stage := 1 })
        | .bad r o => .bad r o
        | .wait s => .wait s)
  | 1 =>
    if 9 ≤ fb then s.routineFaults u p 0x01 0
    else
      let stride := if mode = 0 then field (m.wreg 2) 12 12 else 0
      let base := if mode = 0 then 16 * stride * N * jb else l.ob
      got (match s.feed b mode true rb base stride fb 0 with
        | .ok (rows, n) => .ok (go s { m with b := some (fb, rows) } { l with stage := if mx then 2 else 4, ob := l.ob + n })
        | .bad r o => .bad r o
        | .wait s => .wait s)
  | 2 =>
    got (match s.feedScale b false rs ((M + N) * ja) 0 with
      | .ok xs => .ok (go s { m with sa := some xs } { l with stage := 3 })
      | .bad r o => .bad r o
      | .wait s => .wait s)
  | 3 =>
    got (match s.feedScale b true rs ((M + N) * ja + M) 0 with
      | .ok xs => .ok (go s { m with sb := some xs } { l with stage := 4 })
      | .bad r o => .bad r o
      | .wait s => .wait s)
  | 4 =>
    match m.step mx with
    | .error r => s.routineFaults u p r 0
    | .ok m =>
      match m.accumulate u with
      | .error r => s.routineFaults u p r 0
      | .ok m => go s m { l with k := l.k + 1, stage := if (l.k + 1) % m.ka = 0 then 5 else if (l.k + 1) % m.kb = 0 then 7 else 0 }
  | 5 => pop ra (fun s => go s m { l with stage := if mx then 6 else 7 })
  | 6 => pop rs (fun s => go s m { l with stage := 7 })
  | 7 =>
    let next := if l.k % m.ka = 0 then 8 else 0
    if l.k % m.kb = 0 then pop rb (fun s => go s m { l with stage := next, ob := 0 }) else go s m { l with stage := next }
  | 8 => go s (s.yieldSlot m) { l with stage := 0 }
  | 9 => if l.k % m.ka = 0 then go s m { l with stage := 11 } else pop ra (fun s => go s m { l with stage := 10 })
  | 10 =>
    let m' := s.yieldSlot m
    if mx then pop rs (fun s => go s m' { l with stage := 11 }) else go s m' { l with stage := 11 }
  | 11 => if l.k % m.kb = 0 then go s m { l with stage := 12 } else pop rb (fun s => go s m { l with stage := 12 })
  | _ => s.routineEnds u p m

/-- One stage of a library routine (R307).
(DESIGN CHOICE, notes/assumptions 8; safe.) -/
def State.libStep (s : State) (u p : Nat) (m : MSlot) (l : Lib) : State :=
  if l.k = 0 && l.stage = 0 && m.libBad then s.routineFaults u p 0x0E 0
  else if m.routine ≤ 4 then s.libMm u p m l
  else if m.routine = 5 then
    if l.stage = 1 then s.routineEnds u p m
    else
      let x := m.wreg 0
      match s.drainStep p m (bitAt x 0) (field x 1 3) (16 * field (m.wreg 1) 0 32) (field (m.wreg 2) 0 12) (field x 4 2) (bitAt x 6) with
      | .go s m => s.libGo u p m { l with stage := 1 }
      | .jump s m _ => s.libGo u p m { l with stage := 1 }
      | .fault r o => s.routineFaults u p r o
      | .wait s => s.engineWaits u p
      | .over s => s
  else if l.stage = 1 then s.routineEnds u p m
  else s.libGo u p { m with acc := [], accPz := [] } { l with stage := 1 }

/-- A slot's routine can go on: it runs, nothing holds the slot, and the accesses it follows are performed (R351). -/
def State.engineReady (s : State) (m : MSlot) : Bool :=
  m.st == 1 && m.holder.isNone && s.accesses.all (fun a => !m.after.contains a.id)

/-- What a running slot does next: a microinstruction word, or a state of its own (a library stage, a fault of the fetch). -/
def State.engineNext (s : State) (u p : Nat) : Instr ⊕ State :=
  let m := s.mslot u p
  match m.lib with
  | some l => .inr (s.libStep u p m l)
  | none =>
    if !inRoutine (s.rtEntry u m.routine) m.upc then .inr (s.routineFaults u p 0x02 0)
    else
      match decodeMu (s.storeWord u m.upc) with
      | some i => .inl i
      | none => .inr (s.routineFaults u p 0x01 0)

end Sys2Proof.Machine
end

