-- ==== Sys2Proof/Machine/Matrix.lean ====
section
/-! DEFINITION. The matrix instructions (12 R308-R316). -/

namespace Sys2Proof.Machine

/-! ### Parameter registers (R309) -/

/-- MSET (R309): the whole register, or one half of it. -/
def execMset (w64 : Bool) (f : XForm) (s : State) : Host.Outcome State Fault Refusal :=
  issue (.mset w64 f) .any (fun cx s =>
    let x := s.opN cx.k cx.e f.xb w64
    let mask : W64 := if w64 then 0xFFFFFFFFFFFFFFFF else if f.mod.getLsbD 0 then 0xFFFFFFFF00000000 else 0xFFFFFFFF
    .ok s [.m f.xd.toNat mask (BitVec.ofNat 64 (if !w64 && f.mod.getLsbD 0 then x * 2 ^ 32 else x))] 1) s
/-- MSET_I (R308). -/
def execMsetI (f : IForm) (s : State) : Host.Outcome State Fault Refusal :=
  issue (.msetI f) .any (fun _ s => .ok s [.m f.dst.toNat 0xFFFFFFFFFFFFFFFF (f.imm.signExtend 64)] 1) s
/-- MGET (R309). -/
def execMget (w64 : Bool) (f : XForm) (s : State) : Host.Outcome State Fault Refusal :=
  issue (.mget w64 f) .any (fun cx s =>
    let x := (tget 0 (s.group cx.k).m f.xd.toNat).toNat
    .ok s (if w64 then wrS f.xa.toNat 2 x else wrS f.xa.toNat 1 (field x (if f.mod.getLsbD 0 then 32 else 0) 32)) 1) s

/-! ### Calls (R310, R311) -/

/-- A matrix fault raised by an instruction (R310): its reason, the routine asked for and the logical slot. -/
def matrixTrap (reason routine slot : Nat) : TrapInfo :=
  { cause := 0x15, info := reason * 2 ^ 24 + routine % 256 * 2 ^ 16 + slot % 256 * 2 ^ 8 }

/-- The checks of `mcall` (R310), up to the slot's state.
(DEDUCED, notes/assumptions 66; unsafe.) -/
def State.callTrap (s : State) (k slot bar routine : Nat) : Option TrapInfo :=
  let b := (s.group k).block
  let x := s.block b
  let e := s.rtEntry (unitOfGroup k) routine
  if (x.slotAt slot).isNone then some { cause := 0x04 }
  else if bar ≠ 0xFFFFFFFF && bar % 16 ≠ 0 then some { cause := 0x09, addr := bar }
  else if bar ≠ 0xFFFFFFFF && !s.inSpm b bar 16 then some { cause := 0x0A, addr := bar }
  else if 255 < routine || !rtValid e then some (matrixTrap 0x20 routine slot)
  else if !rtLib e && !(rtOwner e == x.ctx && x.rv.permUcode) then some (matrixTrap 0x21 routine slot)
  else if (s.mslot (unitOfGroup k) ((x.slotAt slot).getD 0)).st = 3 then some (matrixTrap 0x22 routine slot)
  else none

/-- A routine starts (R295). -/
def State.startRoutine (s : State) (k p slot bar routine : Nat) : State :=
  let u := unitOfGroup k
  let m := s.mslot u p
  s.setMslot u p { m with
    st := 1, reason := 0, routine := routine, upc := rtStart (s.rtEntry u routine), w := (s.group k).m, mode := 0, a := none, b := none
    sa := none, sb := none, buf := none, nbytes := 0, bar := bar, drainTile := none, drainLeft := none, logical := slot
    lib := if routine < 0x20 then some {} else none, after := s.earlier k (fun a => a.kind.inLoads || a.kind.inStores) }

/-- `mcall` (R310): it waits until its slot is not busy, and while the core's microcode is being replaced (R452). -/
def callRoutine (slot bar routine : Nat) (cx : Cx) (s : State) : Eff :=
  match s.callTrap cx.k slot bar routine with
  | some t => .trap s t
  | none =>
    let p := ((s.blockOf cx.k).slotAt slot).getD 0
    if (s.mslot cx.unit p).st = 1 || s.boot.active == some (3, cx.unit) then .wait s 0x09 slot 0 else .ok (s.startRoutine cx.k p slot bar routine) [] 1

/-- MCALL (R310). -/
def execMcall (f : XForm) (s : State) : Host.Outcome State Fault Refusal :=
  issue (.mcall f) .any (fun cx s =>
    callRoutine (s.opS cx.k cx.e f.xa).toNat (s.opS cx.k cx.e f.xb).toNat f.xd.toNat cx s) s
/-- MCALL_R (R310). -/
def execMcallR (f : XForm) (s : State) : Host.Outcome State Fault Refusal :=
  issue (.mcallR f) .any (fun cx s =>
    callRoutine (s.opS cx.k cx.e f.xa).toNat (s.opS cx.k cx.e f.xb).toNat (s.opS cx.k cx.e f.xc).toNat cx s) s

/-- MSTAT (R311). -/
def execMstat (f : XForm) (s : State) : Host.Outcome State Fault Refusal :=
  issue (.mstat f) .any (fun cx s =>
    match (s.blockOf cx.k).slotAt (s.opS cx.k cx.e f.xb).toNat with
    | none => .trap s { cause := 0x04 }
    | some p =>
      let m := s.mslot cx.unit p
      .ok s (wrS f.xa.toNat 1 (m.st * 2 ^ 30 + m.routine % 256 * 2 ^ 20 + (if m.st = 3 then m.reason % 256 else 0) * 2 ^ 12 + m.upc % 4096)) 1) s

/-! ### Rings (R289-R292, R311-R313) -/

/-- The four words of a ring register (R289). -/
def Ring.word (r : Ring) (i : Nat) : Nat :=
  match i with
  | 0 => r.base
  | 1 => (if r.en then 2 ^ 31 else 0) + (if r.flt then 2 ^ 30 else 0) + r.cap * 2 ^ 16 + r.tsize
  | 2 => r.rsv * 2 ^ 24 + r.full * 2 ^ 16 + (if r.cap = 0 then 0 else (r.head + r.full + r.rsv) % r.cap) * 2 ^ 8 + r.head
  | _ => r.bar
/-- The ring with a word written; read-only fields of the value are ignored. -/
def Ring.put (r : Ring) (i x : Nat) : Ring :=
  match i with
  | 0 => { r with base := x }
  | 1 => { r with en := bitAt x 31, cap := field x 16 7, tsize := field x 0 16 }
  | 2 => { r with head := field x 0 7, full := field x 16 7 }
  | _ => { r with bar := x }
/-- A ring fault. -/
def ringTrap (reason : Nat) : TrapInfo := { cause := 0x14, info := reason * 2 ^ 24 }
/-- R290. -/
def State.ringValid (s : State) (b : Nat) (r : Ring) : Bool :=
  r.base % 128 == 0 && decide (1 ≤ r.tsize) && decide (2 ≤ r.cap) && decide (r.cap ≤ 64) && s.inSpm b r.base (128 * r.tsize * r.cap) &&
    decide (r.head < r.cap) && decide (r.full ≤ r.cap)
/-- A routine of the block is running. -/
def State.routineRuns (s : State) (b : Nat) : Bool :=
  (s.core (unitOfBlock b)).mslots.any (fun m => m.2.block == b && m.2.st == 1 && m.2.holder.isNone)

/-- The word a form of `rset` or `rget` names. -/
def ringPart : RingPart → Nat
  | .base => 0
  | .geom => 1
  | .ptr => 2
  | .bar => 3
  | .all => 4

/-- The checks of R312 on ring `n`, whose words become those of `r`. -/
def State.rsetTrap (s : State) (b n : Nat) (p : RingPart) (r : Ring) : Option TrapInfo :=
  if r.en && !s.ringValid b r then some (ringTrap 0x01)
  else if p != RingPart.bar && ((s.ring b n).rsv ≠ 0 || s.routineRuns b ||
      s.copies.any (fun y => y.block == b && dRing y.desc && dRnum y.desc == n)) then some (ringTrap 0x02)
  else if (p == RingPart.bar || p == RingPart.all) && r.bar ≠ 0xFFFFFFFF && (r.bar % 16 ≠ 0 || !s.inSpm b r.bar 16) then some (ringTrap 0x03)
  else none

/-- RSET (R312). -/
def execRset (p : RingPart) (f : XForm) (s : State) : Host.Outcome State Fault Refusal :=
  issue (.rset p f) .any (fun cx s =>
    let b := (s.group cx.k).block
    let n := f.xd.toNat
    let r0 := s.ring b n
    let r := if p == .all then
        let q := s.opQuad cx.k cx.e f.xb
        (List.range 4).foldl (fun r i => r.put i (field q (32 * i) 32)) r0
      else r0.put (ringPart p) (s.opS cx.k cx.e f.xb).toNat
    match s.rsetTrap b n p r with
    | some t => .trap s t
    | none => .ok (s.setRing b n (if p == .geom || p == .all then { r with flt := false } else r)) [] 1) s
/-- RGET (R312). -/
def execRget (p : RingPart) (f : XForm) (s : State) : Host.Outcome State Fault Refusal :=
  issue (.rget p f) .any (fun cx s =>
    let r := s.ring (s.group cx.k).block f.xd.toNat
    .ok s (if p == .all then wrS f.xa.toNat 4 (r.word 0 + 2 ^ 32 * (r.word 1 + 2 ^ 32 * (r.word 2 + 2 ^ 32 * r.word 3)))
      else wrS f.xa.toNat 1 (r.word (ringPart p))) 1) s
/-- MSTAT_R (R311). -/
def execMstatR (f : XForm) (s : State) : Host.Outcome State Fault Refusal :=
  issue (.mstatR f) .any (fun cx s =>
    let n := (s.opS cx.k cx.e f.xb).toNat
    if 7 < n then .trap s (ringTrap 0x04)
    else
      let r := s.ring (s.group cx.k).block n
      .ok s (wrS f.xa.toNat 1 ((if r.en then 2 ^ 31 else 0) + (if r.flt then 2 ^ 30 else 0) + r.rsv * 2 ^ 8 + r.full)) 1) s

/-- A slot is busy with an operation of its own: 0 a take, 1 a peek, 2 a copy of microcode; `slotComplete` goes on with it. -/
def State.longOp (s : State) (cx : Cx) (wrs : List Wr) (data : List Byte) : State :=
  let (id, s) := s.fresh
  let x := s.sub cx.k cx.e
  (s.setSub cx.k cx.e (x.setSlot cx.slot { st := .busy, seq := id, opcode := cx.op, wrs := wrs })).post .slotComplete
    { b := 8 * cx.k + cx.e, c := cx.slot, d := id, flag := true, data := data }

/-- The oldest tile that a group of the block took and none has finished. -/
def Ring.oldest (r : Ring) : Option Nat := (r.taken.find? (fun x => x.2.1 == 0)).map (·.1)
/-- It is being finished by the group: the push follows its stores to the tile (R313). -/
def State.finishTile (s : State) (k b n t : Nat) : State :=
  let r := s.ring b n
  (s.setRing b n { r with taken := r.taken.map (fun x => if x.1 = t then (t, 1, x.2.2) else x) }).post .ringPush
    { a := b, b := n, c := t, d := s.nextId, flag := true, data := leBytes 4 k }

/-- A ring operation of a group on a usable ring (R313). -/
def ringOp (f : XForm) (go : Nat → Nat → Ring → Cx → State → Eff) (cx : Cx) (s : State) : Eff :=
  let b := (s.group cx.k).block
  let n := (s.opS cx.k cx.e f.xb).toNat
  let r := s.ring b n
  if 7 < n || !r.usable then .trap s (ringTrap 0x04) else go b n r cx s
/-- The answer of a `.t` form: xd, and xa for the forms that have it. -/
def tryWrs (f : XForm) (fin ok : Bool) (x : Nat) : List Wr :=
  wrP f.xd (if ok then 0xFFFFFFFF else 0) ++ (if fin then [] else wrS f.xa.toNat 1 (if ok then x else 0xFFFFFFFF))

/-- RPUSH_W (R313). -/
def execRpushW (f : XForm) (s : State) : Host.Outcome State Fault Refusal :=
  issue (.rpushW f) .slot (ringOp f (fun b n r cx s =>
    if f.mod.getLsbD 0 then
      match r.oldest with
      | none => .trap s (ringTrap 0x05)
      | some t => .ok (s.finishTile cx.k b n t) [] 1
    else .ok (s.longOp cx (wrS f.xa.toNat 1 0) [0, BitVec.ofNat 8 n]) [] 1)) s
/-- Takes by waiting `rpush .res` of a group on ring `n`, named below `seq`: a group's takes are made in issue order (R291).
(DEDUCED, notes/assumptions 52; unsafe.) -/
def State.takesBefore (s : State) (k n seq : Nat) : Nat :=
  (s.agenda.filter (fun ev => ev.step == Instr.slotComplete && ev.arg.flag && ev.arg.b / 8 == k && decide (ev.arg.d < seq) &&
    ev.arg.data == [0, BitVec.ofNat 8 n])).length
/-- RPUSH_T (R313). -/
def execRpushT (f : XForm) (s : State) : Host.Outcome State Fault Refusal :=
  issue (.rpushT f) .any (ringOp f (fun b n r cx s =>
    if f.mod.getLsbD 0 then
      match r.oldest with
      | none => .ok s (tryWrs f true false 0) 2
      | some t => .ok (s.finishTile cx.k b n t) (tryWrs f true true 0) 2
    else if decide (r.cap ≤ r.full + r.rsv + s.takesBefore cx.k n s.nextId) then .ok s (tryWrs f false false 0) 2
    else
      let (r', t) := r.take 0
      .ok (s.setRing b n r') (tryWrs f false true (r.tileAt t)) 2)) s

/-- Earlier loads of the group from the ring's region have to be performed. -/
def State.loadsFrom (s : State) (k lo hi : Nat) : Bool :=
  s.accesses.any (fun a => a.group == k && a.kind.inLoads && a.local_ && a.elems.any (fun el => decide (el.obj < hi) && decide (lo < el.obj + el.n)))

/-- RPOP_W (R313). -/
def execRpopW (f : XForm) (s : State) : Host.Outcome State Fault Refusal :=
  issue (.rpopW f) .slot (ringOp f (fun b n r cx s =>
    if f.mod.getLsbD 0 then
      if s.loadsFrom cx.k r.base (r.base + 128 * r.tsize * r.cap) then .stall s
      else if r.full = 0 then .trap s (ringTrap 0x06)
      else .ok (s.popTile b n) [] 1
    else .ok (s.longOp cx (wrS f.xa.toNat 1 0) [1, BitVec.ofNat 8 n]) [] 1)) s
/-- RPOP_T (R313). -/
def execRpopT (f : XForm) (s : State) : Host.Outcome State Fault Refusal :=
  issue (.rpopT f) .any (ringOp f (fun b n r cx s =>
    if f.mod.getLsbD 0 then
      if s.loadsFrom cx.k r.base (r.base + 128 * r.tsize * r.cap) then .stall s
      else if r.full = 0 then .ok s (tryWrs f true false 0) 2
      else .ok (s.popTile b n) (tryWrs f true true 0) 2
    else if r.full = 0 then .ok s (tryWrs f false false 0) 2
    else .ok s (tryWrs f false true (r.tileAt r.head)) 2)) s

/-! ### Spills and fills (R314), clears (R315) -/

/-- Bytes of a slot's tile. -/
def tileBytes (u : Nat) : Nat := 4 * accRows u * accCols u

/-- The slot of a spill or fill: it must be held and, for a fill, not faulted; the instruction waits while it is busy, then holds it. -/
def withSlot (slot : Nat) (fill : Bool) (go : Nat → MSlot → Cx → State → Eff) (cx : Cx) (s : State) : Eff :=
  match (s.blockOf cx.k).slotAt slot with
  | none => .trap s { cause := 0x04 }
  | some p =>
    let m := s.mslot cx.unit p
    if fill && m.st = 3 then .trap s (matrixTrap 0x22 m.routine slot)
    else if m.st = 1 then .wait s 0x09 slot 0
    else go p m cx s

/-- The access of a spill or fill, in pieces of 128 bytes; the slot is busy with it. -/
def State.tileAccess (s : State) (cx : Cx) (p : Nat) (m : MSlot) (a : Access) : Eff :=
  let id := s.nextId
  let s := s.newAccess cx { a with after := s.earlier cx.k (fun a => a.kind.inLoads || a.kind.inStores) }
  .ok (s.setMslot cx.unit p { m with st := 1, holder := some (id, m.st) }) [] 1

/-- The pieces of a tile at a place. -/
def tileElems (u o obj : Nat) (loc : Nat → Loc) : List Elem :=
  (List.range (tileBytes u / 128)).map (fun i => { lane := 0, off := o + 128 * i, obj := obj + 128 * i, n := 128, loc := loc (128 * i) })

/-- Scratchpad forms (R314). -/
def tileLocal (f : XForm) (fill : Bool) (kind : Nat → AccKind) (cx : Cx) (s : State) : Eff :=
  let o := (s.opS cx.k cx.e f.xb).toNat
  let b := (s.group cx.k).block
  let n := tileBytes cx.unit
  match s.checkSpm b n 128 fill [(0, (o : Int))] with
  | some t => .trap s { t with fmask := 0 }
  | none =>
    withSlot f.xd.toNat fill (fun p m cx s =>
      match s.wakeFor b (bankOffsets cx.unit o n) with
      | some s => .stall s
      | none => s.tileAccess cx p m { Access.start (kind p) (tileElems cx.unit o o (fun i => .mem (s.spmAt b (o + i)))) with
          accepted := true, local_ := true, size := 128 }) cx s
/-- Handle forms (R314). -/
def tileGlobal (f : XForm) (fill : Bool) (kind : Nat → AccKind) (cx : Cx) (s : State) : Eff :=
  let o := (s.opS64 cx.k cx.e f.xc).toNat
  let h := s.opH cx.k cx.e f.xb.toNat
  match s.checkHandle cx.k h f.xb.toNat (if fill then rR else rW) (tileBytes cx.unit) 128 [(0, (o : Int))] with
  | some t => .trap s { t with fmask := 0 }
  | none =>
    withSlot f.xd.toNat fill (fun p m cx s =>
      s.tileAccess cx p m { Access.start (kind p) (tileElems cx.unit o (h.base + o) (fun _ => .unresolved)) with
        hbits := h.bits, hreg := f.xb.toNat % 32, size := 128 }) cx s

/-- MSPILL_L (R314). -/
def execMspillL (f : XForm) (s : State) : Host.Outcome State Fault Refusal := issue (.mspillL f) .slot (tileLocal f false .mspill) s
/-- MSPILL_G (R314). -/
def execMspillG (f : XForm) (s : State) : Host.Outcome State Fault Refusal := issue (.mspillG f) .slot (tileGlobal f false .mspill) s
/-- MFILL_L (R314). -/
def execMfillL (f : XForm) (s : State) : Host.Outcome State Fault Refusal := issue (.mfillL f) .slot (tileLocal f true .mfill) s
/-- MFILL_G (R314). -/
def execMfillG (f : XForm) (s : State) : Host.Outcome State Fault Refusal := issue (.mfillG f) .slot (tileGlobal f true .mfill) s

/-- A slot cleared (R315). -/
def MSlot.cleared (m : MSlot) : MSlot := { m with st := 0, reason := 0, acc := [], accPz := [] }
/-- MCLR (R315). -/
def execMclr (f : XForm) (s : State) : Host.Outcome State Fault Refusal :=
  issue (.mclr f) .any (fun cx s =>
    match (s.blockOf cx.k).slotAt f.xd.toNat with
    | none => .trap s { cause := 0x04 }
    | some p =>
      let m := s.mslot cx.unit p
      if m.st = 1 then .wait s 0x09 f.xd.toNat 0 else .ok (s.setMslot cx.unit p m.cleared) [] 1) s
/-- The slots that a group's `mclr.all` has still to clear: those from the one that it waits for. -/
def State.toClear (s : State) (cx : Cx) : List (Nat × Nat) :=
  let from_ := match (s.sub cx.k cx.e).wait with
    | some w => if w.kind = 0x09 then w.item else 0
    | none => 0
  (List.range 4).filterMap (fun l => if l < from_ then none else ((s.blockOf cx.k).slotAt l).map (fun p => (l, p)))
/-- MCLR_ALL (R315): slot by slot, it waits for the slot and clears it. -/
def execMclrAll (f : XForm) (s : State) : Host.Outcome State Fault Refusal :=
  issue (.mclrAll f) .any (fun cx s =>
    let ls := s.toClear cx
    let free (e : Nat × Nat) : Bool := (s.mslot cx.unit e.2).st != 1
    let s := (ls.takeWhile free).foldl (fun s e => s.setMslot cx.unit e.2 (s.mslot cx.unit e.2).cleared) s
    match ls.dropWhile free with
    | e :: _ => .wait s 0x09 e.1 0
    | [] => .ok s [] 1) s

/-! ### User routines (R293, R294, R316) -/

/-- The logical slot of a routine that runs from the user area. -/
def State.userRuns (s : State) (u : Nat) : Option Nat :=
  ((s.core u).mslots.find? (fun m => m.2.st == 1 && m.2.holder.isNone && decide (0x20 ≤ m.2.routine))).map (fun m => m.2.logical)
/-- Ownership lapses when the owner has neither a resident block nor a saved image on the core (R294). -/
def State.lapseEngine (s : State) (u : Nat) : State :=
  let c := s.core u
  match c.owner with
  | none => s
  | some x =>
    if (s.residents u).any (fun p => p.2.ctx == x) || s.frames.any (fun p => p.2.unit == u && p.2.ctx == x) then s
    else s.setCore u { c with owner := none, rt := [] }

/-- The status of `mload.rt` (R316). -/
def State.loadRtStatus (s : State) (u ctx n e : Nat) : Nat :=
  if (s.core u).owner.any (fun o => o != ctx) then 1
  else if n < 0x20 || 0xFF < n then 2
  else if field e 24 7 ≠ 0 || storeWords u ≤ rtStart e + rtLen e then 3
  else 0
/-- MLOAD_RT (R316). -/
def execMloadRt (f : XForm) (s : State) : Host.Outcome State Fault Refusal :=
  issue (.mloadRt f) .slot (fun cx s =>
    match s.userRuns cx.unit with
    | some l => .wait s 0x09 l 0
    | none =>
      let n := (s.opS cx.k cx.e f.xb).toNat
      let e := (s.opS cx.k cx.e f.xc).toNat
      let ctx := s.ctxOf cx.k
      let st := s.loadRtStatus cx.unit ctx n e
      let c := s.core cx.unit
      let s := if st = 0 then s.setCore cx.unit { c with owner := some ctx, rt := tput c.rt n (BitVec.ofNat 32 (putField e 24 6 ctx)) } else s
      .ok (s.slotDone cx.k cx.e cx.slot cx.op (wrS f.xa.toNat 1 st)) [] 1) s

/-- MLOAD_CODE (R316): the words are copied as its slot completes. -/
def execMloadCode (f : XForm) (s : State) : Host.Outcome State Fault Refusal :=
  issue (.mloadCode f) .slot (fun cx s =>
    let q := s.opQuad cx.k cx.e f.xc
    let o := field q 0 64
    let n := field q 96 32
    let h := s.opH cx.k cx.e f.xb.toNat
    match s.checkHandle cx.k h f.xb.toNat rX (8 * n) 8 [(0, (o : Int))] with
    | some t => .trap s { t with fmask := 0 }
    | none =>
      match s.userRuns cx.unit with
      | some l => .wait s 0x09 l 0
      | none =>
        .ok (s.longOp cx (wrS f.xa.toNat 1 0) ([2, 0] ++ leBytes 4 h.obj ++ leBytes 1 h.gen ++ leBytes 6 (h.base + o) ++ leBytes 4 (field q 64 32) ++
          leBytes 4 n ++ leBytes 6 h.base ++ leBytes 1 f.xb.toNat ++ leBytes 1 h.rights)) [] 1) s

/-- MLOAD_Q (R316). -/
def execMloadQ (f : XForm) (s : State) : Host.Outcome State Fault Refusal :=
  issue (.mloadQ f) .any (fun cx s =>
    let n := (s.opS cx.k cx.e f.xb).toNat
    let e := if n < 256 then s.rtEntry cx.unit n else 0
    let odd := match (s.core cx.unit).owner with
      | some c => 2 ^ 31 + c * 2 ^ 24
      | none => 0
    .ok s (wrS f.xa.toNat 2 ((if rtValid e then e else 0) + 2 ^ 32 * odd)) 2) s

/-! ### The operations of a busy slot -/

/-- The slot of a long operation completes, if the operation still holds it. -/
def State.finishSlot (s : State) (ke j seq : Nat) (f : List Wr → List Wr) : State :=
  let x := s.sub (ke / 8) (ke % 8)
  let y := x.slot j
  if y.st == .busy && y.seq == seq then s.setSub (ke / 8) (ke % 8) (x.setSlot j { y with st := .complete, wrs := f y.wrs }) else s
/-- Results that carry value `x` in a register. -/
def withValue (x : Nat) (ws : List Wr) : List Wr :=
  ws.map (fun w => match w with
    | .s r _ pz => .s r (BitVec.ofNat 32 x) pz
    | w => w)

/-- A word of an object lies in the memory of another chip. -/
def State.remoteWord (s : State) (ctx obj gen a : Nat) : Bool :=
  match (s.walk ctx obj gen a false).1 with
  | .ok x => extLoc x == 3
  | .fail _ => false

/-- A copy of microcode (R316): a status, or a wait for residency, recorded once, until the hub re-examines it (R258, R400: byte 1 of `d` is 1 while it waits, 2 once re-examined). -/
def State.loadCode (s : State) (k e : Nat) (d : List Byte) : Option Nat × State × List Byte :=
  let get (i n : Nat) : Nat := leNat ((d.drop i).take n)
  let u := unitOfGroup k
  let ctx := s.ctxOf k
  let obj := get 2 4
  let a := get 7 6
  let w := get 13 4
  let n := get 17 4
  if (s.core u).owner.any (fun o => o != ctx) then (some 1, s, d)
  else if n ≠ 0 && (w < userWords u || storeWords u < w + n) then (some 2, s, d)
  else
    let (r, s) := if n = 0 then (none, s) else s.walkRange ctx obj (get 6 1) a (8 * n) false
    let remote := (List.range n).filter (fun i => s.remoteWord ctx obj (get 6 1) (a + 8 * i))
    match if !remote.isEmpty && (get 28 1 &&& rF) = 0 then some 7 else r with
    | some 8 =>
      if d.getD 1 0 ≠ 0 then (none, s, d.set 1 1)
      else
        (none, s.pausedRec k e obj a (get 27 1) 0 0 1 (a - get 21 6), d.set 1 1)
    | some _ => (some 4, s, d)
    | none =>
      let bs := s.objBytes ctx obj (get 6 1) a (8 * n)
      let c := s.core u
      let (store, s) := (List.range n).foldl (fun (r : Tab W64 × State) i =>
        let (x, s) := if remote.contains i then r.2.freeWord else (leNat ((bs.drop (8 * i)).take 8), r.2)
        (tput r.1 (w + i) (BitVec.ofNat 64 x), s)) (c.store, s)
      (some 0, s.setCore u { c with owner := some ctx, store := store }, d)

/-- A busy slot's own operation goes on (R313, R316): the event of `longOp`. -/
def State.longOpStep (s : State) : State :=
  let ke := s.arg.b
  let j := s.arg.c
  let seq := s.arg.d
  let d := s.arg.data
  let k := ke / 8
  let b := (s.group k).block
  let y := (s.sub k (ke % 8)).slot j
  if !(y.st == .busy && y.seq == seq) then s
  else
    let n := (d.getD 1 0).toNat
    let r := s.ring b n
    match (d.getD 0 0).toNat with
    | 0 =>
      if !r.usable || r.isFull || s.takesBefore k n seq != 0 then s.again .slotComplete
      else
        let (r', t) := r.take 0
        (s.setRing b n r').finishSlot ke j seq (withValue (r.tileAt t))
    | 1 =>
      if !r.usable || r.full = 0 then s.again .slotComplete
      else s.finishSlot ke j seq (withValue (r.tileAt r.head))
    | _ =>
      if (s.userRuns (unitOfGroup k)).isSome then s.again .slotComplete
      else if d.getD 1 0 = 1 then s.again .slotComplete
      else
        match s.loadCode k (ke % 8) d with
        | (some st, s, _) => s.finishSlot ke j seq (withValue st)
        | (none, s, d) => s.post .slotComplete { s.arg with data := d }

end Sys2Proof.Machine
end

