-- ==== Sys2Proof/Machine/Traps.lean ====
section
/-! DEFINITION. Clause fetch and its checks (04 R98-R100, R122; 05 R158, R159; 18 R389, R393), port failures (R399-R401), the
umpire (R402, R403), `tret`, `tret.n`, `tesc` (R392, R404), token signals (R160), uncorrectable errors (R157, R458). -/

namespace Sys2Proof.Machine

/-! ### Fetch (R98, R99) -/

/-- The handle that a sub-group's code is fetched through. -/
def State.codeHandle (s : State) (k e : Nat) : HandleReg :=
  if (s.group k).handler && kindOf k != .control then (s.group k).codeH else (s.sub k e).hreg 9

/-- What R57 and the rule on extents answer for a range of code: its extents by page, or the failing step (9 for loc or ord) with
the lowest object offset that fails it. -/
inductive CodeCheck where
  | ok (exts : Tab Nat)
  | fail (step off : Nat)
  deriving DecidableEq, Repr

/-- The check of `n` bytes of code at object offset `pc`.
(DEDUCED, notes/assumptions 26; unsafe.) -/
def State.codeCheck (s : State) (k : Nat) (h : HandleReg) (pc n : Nat) : CodeCheck × State :=
  match s.checkHandle k h 9 rX n 1 [(0, (pc : Int) - h.base)] with
  | some t =>
    let st := t.info / 2 ^ 24
    (.fail st (if st = 3 ∧ h.base ≤ pc then max pc (h.base + h.len) else pc), s)
  | none =>
    (List.range ((pc + n - 1) / 65536 - pc / 65536 + 1)).foldl (fun r i =>
      let p := pc / 65536 + i
      let (w, s) := r.2.walk (s.codeCtx k) h.obj h.gen (p * 65536) (kindOf k == .control)
      let bad (st : Nat) : CodeCheck := match r.1 with
        | .fail st' off => if st' ≤ st then .fail st' off else .fail st (max pc (p * 65536))
        | .ok _ => .fail st (max pc (p * 65536))
      match w with
      | .fail st => (bad st, s)
      | .ok x =>
        if extOrd x || decide (3 ≤ extLoc x) then (bad 9, s)
        else match r.1 with
          | .ok t => (.ok (tput t p x), s)
          | c => (c, s)) (.ok [], s)

/-- The name given at the last `objinv` of an object of a context (R213). -/
def State.codeSince (s : State) (ctx obj : Nat) : Nat := max (tget 0 s.codeInv (2 ^ 24 * ctx + obj)) (tget 0 s.codeInv (2 ^ 30 + ctx))
/-- A word of code: the present one, or one that it replaced since the last `objinv` of its object, of a free choice at every fetch (R99).
(DESIGN CHOICE, notes/assumptions 18; safe.) -/
def State.codeWord (s : State) (ctx obj : Nat) (exts : Tab Nat) (off : Nat) : W64 × State :=
  match (match tfind exts (off / 65536) with
    | some x => s.locOf ctx x off
    | none => .unresolved) with
  | .mem key =>
    let new : W64 := BitVec.ofNat 64 (s.num key 8)
    let olds := ((tget [] s.codePast (key / 8)).filter (fun p => decide (s.codeSince ctx obj ≤ p.1))).map (·.2)
    let (c, s) := s.choose (olds.length + 1)
    ((new :: olds).getD c 0, s)
  | _ => (0, s)

/-- Words of code from an offset, in order. -/
def State.codeWords (s : State) (ctx obj : Nat) (exts : Tab Nat) (off n : Nat) : List W64 × State :=
  (List.range n).foldl (fun r i =>
    let (w, s) := r.2.codeWord ctx obj exts (off + 8 * i)
    (r.1 ++ [w], s)) ([], s)

/-- A trap at a clause before any of its instructions issues. -/
def State.clauseTrap (s : State) (k e c : Nat) (t : TrapInfo) : State :=
  s.takeTrap k e { t with stop := 1, clause := some c, pc := some (t.pc.getD c) }
/-- Illegal clause (R100). -/
def illegalClause (sub pc : Nat) : TrapInfo := { cause := 0x02, info := sub * 2 ^ 24, pc := some pc }

/-- The outcome of a range of code that fails (R98): a fetch fault, or a suspension for step 8. -/
def State.fetchFail (s : State) (k e c : Nat) (h : HandleReg) (step off : Nat) : State :=
  if step = 8 then s.suspend k e 9 h.obj off 9 c c 1 (off - h.base)
  else s.clauseTrap k e c { cause := 0x10, src := if step ≤ 5 then 0 else 1, addr := off, info := step * 2 ^ 24 }

/-- The first failing check of 0x01 to 0x04 of R100 on a header; 0x05 is made only on a clause that is not skipped. -/
def headerFail (ck : CoreKind) (h : Nat) : Option Nat :=
  let cls := field h 14 3
  if h % 256 ≠ 0x5A then some 1
  else if h / 2 ^ 30 ≠ 0 then some 2
  else if 3 < cls then some 3
  else if (ck == .stream) != (cls != 0) then some 4
  else none

/-- The fields that a hint reads in scalar class whatever its move (R119, R120). -/
def hintReads (i : Instr) : List (BitVec 8) :=
  match i with
  | .hintPf f => [f.src2]
  | .hintBank f => [f.src1]
  | _ => []
/-- A scalar-class source of a word names a literal that the clause does not have (R100 sub-reason 0x07). -/
def literalBad (ck : CoreKind) (nlit : Nat) (w : W64) : Bool :=
  match decodeWord w with
  | some i => (shape ck i).ops.any (fun o => o.cls == .s && o.src && !o.regOnly && opIn o.v (0x90 + nlit) 0x92) ||
      (hintReads i).any (fun v => opIn v.toNat (0x90 + nlit) 0x92)
  | none => false
/-- Sub-reasons 0x06 and 0x07, with the word at fault. -/
def bodyFail (ck : CoreKind) (c nlit : Nat) (ws : List W64) : Option TrapInfo :=
  match firstBelow (fun i => decide (i + 1 < ws.length) && isTransfer ((ws.getD i 0).toNat % 512)) ws.length with
  | some i => some (illegalClause 6 (c + 8 * (1 + i)))
  | none => (firstBelow (fun i => literalBad ck nlit (ws.getD i 0)) ws.length).map (fun i => illegalClause 7 (c + 8 * (1 + i)))
/-- The first word of a stream clause that fails R121 (R122). -/
def State.streamFail (s : State) (k c : Nat) (ws : List W64) : Option TrapInfo :=
  ws.zipIdx.findSome? (fun p =>
    (match decodeWord p.1 with
     | none => some (s.illegalTrap p.1.toNat 1)
     | some i => s.decodeTrap .stream ((s.blockOf k).rv.permUcode) i).map (fun (t : TrapInfo) => ({ t with pc := some (c + 8 * (1 + p.2)) } : TrapInfo)))

/-- Where issue begins in a fetched clause (R393): at its header, at an instruction, past its last, or nowhere legal. -/
def resumeIndex (c n : Nat) (x : Sub) : Option (Option Nat) :=
  match x.resumeAt with
  | none => some none
  | some p =>
    if p < c ∨ (p - c) % 8 ≠ 0 ∨ n < (p - c) / 8 then none
    else some (some ((p - c) / 8 + (if x.resumeSkip then 1 else 0) - 1))

/-- A fetched clause becomes the sub-group's (R393, R394). -/
def State.enterClause (s : State) (k e : Nat) (cl : Clause) : State :=
  let x := s.sub k e
  let n := cl.words.length
  match resumeIndex cl.start n x with
  | none => s.clauseTrap k e cl.start (illegalClause 8 (x.resumeAt.getD cl.start))
  | some none =>
    let s := s.setSub k e { x with clause := some cl, idx := 0, headerMet := false, tokensOnly := false, clauseSeq := s.nextId, resumeMark := false }
    if x.resumeMark then s.takeMark k e cl.start cl.start true else s
  | some (some i) =>
    let at_ := cl.start + 8 * (1 + i)
    let s := s.setSub k e { x with
      clause := some cl, idx := i, headerMet := false, tokensOnly := true, clauseSeq := 0, resumeMark := false, resumeAt := some at_
      resumeSkip := false }
    let s := if n ≤ i then s.leaveClause k e cl.next else s
    if x.resumeMark then
      let y := s.sub k e
      s.takeMark k e y.clauseStart y.here y.atHeader
    else s

/-- The rest of a clause, after its header has passed. -/
def State.fetchBody (s : State) (k e c : Nat) (w : W64) : State :=
  let h := s.codeHandle k e
  let ck := kindOf k
  let n := field w.toNat 8 4 + 1
  let l := field w.toNat 12 2
  match s.codeCheck k h (c + 8) (8 * (n + l)) with
  | (.fail step off, s) => s.fetchFail k e c h step off
  | (.ok exts, s) =>
    let (ws, s) := s.codeWords (s.codeCtx k) h.obj exts (c + 8) (n + l)
    let cl : Clause := ⟨c, w, ws.take n, ws.drop n⟩
    match bodyFail ck c l cl.words with
    | some t => s.clauseTrap k e c t
    | none =>
      if ck == .stream && badToken (s.group k).gidx w.toNat then s.clauseTrap k e c { cause := 0x1A }
      else
        match (if ck == .stream then s.streamFail k c cl.words else none) with
        | some t => s.clauseTrap k e c t
        | none => s.enterClause k e cl

/-- A failure that waits for a clause boundary (R401); while a handler runs, those of accesses before it wait. -/
def State.boundaryTrap (s : State) (k e : Nat) : Option (Option Nat × TrapInfo × Nat) :=
  let g := s.group k
  let x := g.sub e
  if x.resumeAt.isSome then none else x.portTraps.find? (fun p => !g.handler || decide (g.handlerSeq ≤ p.2.2))

/-- CLAUSE_FETCH (R98, R100, R158) of the sub-group the step moves. -/
def State.clauseFetch (s : State) (k e : Nat) : State :=
  let x := s.sub k e
  let c := x.pc
  match s.boundaryTrap k e with
  | some p =>
    (s.setSub k e { x with portTraps := x.portTraps.filter (fun q => q.2.2 != p.2.2) }).takeTrap k e
      { p.2.1 with stop := 3, clause := some c, pc := some c }
  | none =>
    if x.badPc then (s.setSub k e { x with badPc := false }).clauseTrap k e c { cause := 0x10, addr := c, info := 3 * 2 ^ 24 }
    else
      let h := s.codeHandle k e
      match s.codeCheck k h c 8 with
      | (.fail step off, s) => s.fetchFail k e c h step off
      | (.ok exts, s) =>
        let (w, s) := s.codeWord (s.codeCtx k) h.obj exts c
        let ck := kindOf k
        match headerFail ck w.toNat with
        | some r => s.clauseTrap k e c (illegalClause r c)
        | none =>
          if ck == .stream && field w.toNat 14 3 != (s.group k).gidx + 1 then
            s.setSub k e { s.sub k e with pc := c + 8 * (2 + field w.toNat 8 4 + field w.toNat 12 2), resumeAt := none, resumeSkip := false }
          else if ck != .stream && field w.toNat 24 4 != 0 then s.clauseTrap k e c (illegalClause 5 c)
          else s.fetchBody k e c w

/-- CLAUSE_FETCH (R98-R100). -/
def execClauseFetch (s : State) : Host.Outcome State Fault Refusal :=
  match s.cur with
  | .group k e => .next (s.clauseFetch k e)
  | _ => .fault .noIssuer

/-! ### Commits and port failures (R388, R396, R399, R401) -/

/-- COMMIT: the entry commit of a trapping group (R388), or that of one sub-group before a save (R355), once its accesses are
accepted. -/
def State.commitStep (s : State) : State :=
  let k := s.arg.a
  if s.arg.flag then
    match (s.group k).trapping with
    | none => s
    | some (e, t) => if s.canEnter k then s.enterHandler k e t else s.again .commit
  else
    let e := s.arg.b
    let x := s.sub k e
    if !x.live && x.st != 4 then s
    else if s.regionAccepted k e then s.commitSub k e x.clauseStart x.here x.atHeader
    else s.again .commit
def execCommit (s : State) : Host.Outcome State Fault Refusal := event State.commitStep s

/-- A rollback, and the matrix slots that its dropped accesses held. -/
def State.rollbackSub (s : State) (k e : Nat) : State := (s.rollback k e).freeHolders (unitOfGroup k)

/-- The sub-groups stopped for a trap go on: the trap is dropped. -/
def State.dropTrap (s : State) (k : Nat) : State :=
  let g := s.group k
  s.setGroup k { g with trapping := none, subs := g.subs.map (fun (p : Nat × Sub) => (p.1, { p.2 with stopped := false })) }

/-- A port failure of a lattice sub-group (R399, R388 step 2). -/
def State.latticeFailure (s : State) (a : Access) (t : TrapInfo) : State :=
  let k := a.group
  let e := a.entry
  let m := (s.sub k e).mark
  let clause := (m.map (·.clause)).getD 0
  let pc := (m.map (·.pc)).getD 0
  let s := s.rollbackSub k e
  let go (s : State) : State :=
    if a.suspends then
      s.suspend k e 0 (field a.hbits.toNat 104 24) t.addr2 a.hreg clause pc t.fmask.toNat t.addr
    else s.takeTrap k e { t with stop := 2, clause := some clause, pc := some pc, addr2 := a.pc }
  match (s.group k).trapping with
  | some (e', _) => if e' = e then go (s.dropTrap k) else s
  | none => go s

/-- A port failure of a stream or control group (R401). -/
def State.streamFailure (s : State) (a : Access) (t : TrapInfo) : State :=
  let k := a.group
  let e := a.entry
  if a.suspends then
    (s.setAccess { a with paused := true, fail := none, suspends := false }).pausedRec k e (field a.hbits.toNat 104 24) t.addr2 a.hreg 0 0
      t.fmask.toNat t.addr
  else
    let s := s.complete a.id []
    let x := s.sub k e
    let t := if a.kind.inLoads then t else { t with addr2 := a.pc }
    s.setSub k e { x with portTraps := x.portTraps ++ [(a.slot, t, a.id)] }

/-- PORT_FAILURE_REPORT (R399, R401). -/
def State.portFailure (s : State) : State :=
  match s.access s.arg.a with
  | none => s
  | some a =>
    match a.fail with
    | none => s
    | some t => if kindOf a.group = .lattice then s.latticeFailure a t else s.streamFailure a t
def execPortFailureReport (s : State) : Host.Outcome State Fault Refusal := event State.portFailure s

/-! ### The umpire (R402, R403) -/

/-- The trap of an expired wait. -/
def waitTimeout (w : WaitRec) (now : Nat) : TrapInfo :=
  { cause := 0x0D, src := 5, addr := w.item, addr2 := w.addr2, info := w.kind * 2 ^ 24 + min ((now - w.since) / 1000) 0xFFFFFF }

/-- UMPIRE_EXPIRE: a wait that the last step found unmet has reached its limit. -/
def State.umpire (s : State) : State :=
  let k := s.arg.a
  let e := s.arg.b
  let x := s.sub k e
  match x.wait with
  | none => s
  | some w =>
    if s.lastPoll = some (k, e) ∧ w.since + w.limit ≤ s.time then
      let s := if w.kind = 3 then
          let s := s.withdraw (unitOfGroup k) (x.slot w.item).seq
          s.setSub k e ((s.sub k e).setSlot w.item {})
        else s
      let s := if w.kind = 5 then s.setGroup k { s.group k with sigs := match (s.group k).sigs with
          | (m, ids) :: t => (m % 16 + 16 + 32 * x.here, ids) :: t
          | [] => [] } else s
      let y := s.sub k e
      (s.setSub k e { y with st := if y.st = 2 then 1 else y.st }).takeTrap k e (waitTimeout w s.time)
    else s.again .umpireExpire
def execUmpireExpire (s : State) : Host.Outcome State Fault Refusal := event State.umpire s

/-! ### Return and escalation (R392, R404) -/

/-- `Tret(skip)`.
(DEDUCED, notes/assumptions 30; unsafe.) -/
def trapReturn (skip : Bool) (cx : Cx) (s : State) : Eff :=
  let g := s.group cx.k
  if !g.handler then .trap s { cause := 0x01, info := 0x10 * 2 ^ 24 }
  else if g.tr.amask = 0 || (g.tr.amask &&& g.otherLanes cx.e) != 0 then .gone (s.takeDouble cx.k cx.e 0x1C (s.sub cx.k cx.e).here)
  else
    let s := s.retireCx cx
    .gone ((s.leaveClause cx.k cx.e (s.sub cx.k cx.e).nextClause).returnTrap cx.k cx.e skip)

/-- TRET (R392). -/
def execTret (f : XForm) (s : State) : Host.Outcome State Fault Refusal := issue (.tret f) .any (trapReturn false) s
/-- TRET_N (R392). -/
def execTretN (f : XForm) (s : State) : Host.Outcome State Fault Refusal := issue (.tretN f) .any (trapReturn true) s
/-- TESC (R404): where `cresume.esc` releases the group, it takes a mark (R394). -/
def execTesc (f : XForm) (s : State) : Host.Outcome State Fault Refusal :=
  issue (.tesc f) .any (fun cx s =>
    let s := s.record (s.ringOf cx.k) 1 { s.groupRec cx.k with word := (s.opS cx.k cx.e f.xb).toNat }
    let s := s.setSub cx.k cx.e { s.sub cx.k cx.e with resumeMark := true }
    .jump (s.setGroup cx.k { s.group cx.k with escalated := true }) [] (s.sub cx.k cx.e).nextClause false) s

/-! ### Token signals (R160) -/

/-- TOKEN_SIGNAL: the oldest pending signal of a queue group is made, once its loads and stores are performed and no channel is
full; a signal of an exited group to an exited one is dropped. -/
def State.signalTokens (s : State) : State :=
  let k := s.arg.a
  let g := s.group k
  match g.sigs with
  | [] => s
  | (m, ids) :: rest =>
    if !s.signalReady ids then s.again .tokenSignal
    else
      match s.signalHeld k with
      | some (_, true) => if g.exited then (s.setGroup k { g with sigs := rest }).vacate k else s.again .tokenSignal
      | some (_, false) => s.again .tokenSignal
      | none =>
        let b := s.block g.block
        let s := s.setBlock g.block { b with tokens := (maskSlots (m % 16)).foldl (fun t c => tput t c (tget 0 t c + 1)) b.tokens }
        ((s.setGroup k { g with sigs := rest }).postOnce .blockRetire { a := g.block }).vacate k
def execTokenSignal (s : State) : Host.Outcome State Fault Refusal := event State.signalTokens s

/-- What a pending signal does to its queue group before it goes on: it waits on a full channel; at a clause boundary it traps where
the waiting group has exited. A signal whose wait timed out does not hold the handler; `tret` to where it trapped
makes its wait again.
(DEDUCED, notes/assumptions 29; unsafe.) -/
def State.signalGate (s : State) (k : Nat) : Gate :=
  let x := s.sub k 0
  if (s.group k).handler && (s.group k).sigs.any (fun p => bitAt p.1 4) then .met s
  else match s.signalHeld k with
  | some (c, true) =>
    if x.clause.isNone then
      let g := s.group k
      .blocked ((s.setGroup k { g with sigs := g.sigs.drop 1 }).clauseTrap k 0 x.pc { cause := 0x1A, addr := c })
    else .met s
  | some (c, false) => .blocked (s.waitFor k 0 5 c 15)
  | none => .met s

/-! ### Errors that ECC cannot correct (R157, R287, R458) -/

/-- A register, accumulator element or granule is poisoned. -/
def State.poisonSite (s : State) (site : ErrorSite) : State :=
  match site with
  | .vreg u sl r ls =>
    let k := groupKey u sl
    let g := s.group k
    s.setGroup k { g with vPz := tput g.vPz r (tget 0 g.vPz r ||| ls) }
  | .sreg u sl e r =>
    let k := groupKey u sl
    s.setSub k e { s.sub k e with sPz := setBit (s.sub k e).sPz r true }
  | .preg u sl r =>
    let k := groupKey u sl
    let g := s.group k
    s.setGroup k { g with pPz := setBit g.pPz r true }
  | .hreg u sl e r =>
    let k := groupKey u sl
    s.setSub k e { s.sub k e with hPz := setBit (s.sub k e).hPz r true }
  | .acc u p n =>
    let m := s.mslot u p
    s.setMslot u p { m with accPz := sinsert m.accPz n }
  | .granule a => s.poisonGranules [a / 16]
  | .spm u o => s.poisonGranules [spmKey u o / 16]

/-- UNCORRECTABLE_ERROR (R157, R287, R458). -/
def execUncorrectableError (s : State) : Host.Outcome State Fault Refusal :=
  event (fun s => match s.arg.site with
    | some site => s.poisonSite site
    | none => s) s

end Sys2Proof.Machine
end

