-- ==== Sys2Proof/Machine/Agents.lean ====
section
/-! DEFINITION. Which agents can move in a state: pending events, sub-groups (05 R146, R147; 18 R388, R390; 20 R417; 03 R80, R81), running
matrix routines (12 R295; not while their cluster relocks, 22 R448) and idle register and scratchpad banks (05 R153, R154); and how the host's words are placed for a step. -/

namespace Sys2Proof.Machine

/-- A move of the machine: a pending event by its place in the agenda, an event that the device makes by itself, a sub-group, a routine. -/
inductive Turn where
  | pending (n : Nat)
  | own (ev : Event)
  | sub (k e : Nat)
  | engine (u p : Nat)
  deriving DecidableEq, Repr

/-- Another group of the block traps or is in its handler (R390). -/
def State.siblingHandles (s : State) (k : Nat) : Bool :=
  (s.blockOf k).groups.any (fun j => j != k && ((s.group j).handler || (s.group j).trapping.isSome))

/-- Nothing about its block or group stops the group's issue; a slot may hold it (R230). -/
def State.groupRuns (s : State) (k : Nat) (g : Group) : Bool :=
  let b := s.block g.block
  g.present && !g.exited && !g.doubleTrap && !g.escalated && g.trapping.isNone && g.sleeping.isNone &&
    !g.subs.any (fun p => p.2.slots.any (fun q => q.2.st == .busy && q.2.hold)) &&
    (kindOf k == .control || (!b.atEntry && !b.terminated))
/-- A sub-group may be moved: a block that is being saved stops it, on a stream core at its clause's end or in a wait (R443); so does another
group's trap, unless it is in its own handler (R390). -/
def State.subRuns (s : State) (k : Nat) (g : Group) (x : Sub) : Bool :=
  x.live && !x.stopped && !s.relocking (unitOfGroup k) &&
    (match kindOf k with
     | .control => true
     | .lattice => (s.block g.block).saving.isNone
     | .stream => if x.headerMet then (s.block g.block).saving.isNone || x.wait.isNone else ((s.block g.block).saving.isNone && (g.handler || !s.siblingHandles k)))

/-- The pipe that a group issues on (R127): a lattice slot's, or the one of a control core; a queue group has its own. -/
def pipeOf (k : Nat) : Nat × Nat :=
  (unitOfGroup k, match kindOf k with
    | .lattice => k % 32 % 4
    | .stream => k % 32
    | .control => 0)
/-- A sub-group has yielded, and nothing has issued on its pipe since (R147). -/
def State.yields (s : State) (a : Nat × Nat) : Bool :=
  let x := s.sub a.1 a.2
  kindOf a.1 == .lattice && x.yielded && x.idle == 0 &&
    s.groups.all (fun p => pipeOf p.1 != pipeOf a.1 || p.2.subs.all (fun q => decide (q.2.lastIssue ≤ x.lastIssue)))
/-- The order of R146 and R147 on a pipe: those that yield last; then priority, the longest wait since issue, slot, entry. A control core
knows the wait and the slot alone. -/
def State.before (s : State) (a b : Nat × Nat) : Bool :=
  let x := s.sub a.1 a.2
  let y := s.sub b.1 b.2
  let p := if kindOf a.1 = .lattice then (s.blockOf a.1).rv.prio else 0
  let q := if kindOf b.1 = .lattice then (s.blockOf b.1).rv.prio else 0
  if s.yields a != s.yields b then s.yields b
  else if p != q then decide (q < p)
  else if x.lastIssue != y.lastIssue then decide (x.lastIssue < y.lastIssue)
  else decide (a.1 < b.1) || (a.1 == b.1 && decide (a.2 < b.2))
def State.insertSub (s : State) (a : Nat × Nat) : List (Nat × Nat) → List (Nat × Nat)
  | [] => [a]
  | b :: t => if s.before a b then a :: b :: t else b :: s.insertSub a t

/-- The sub-groups that may move, in that order. -/
def State.runnable (s : State) : List (Nat × Nat) :=
  (s.groups.flatMap (fun p =>
    if s.groupRuns p.1 p.2 then (p.2.subs.filter (fun q => s.subRuns p.1 p.2 q.2)).map (fun q => (p.1, q.1)) else [])).foldl
    (fun l a => s.insertSub a l) []

/-- Banks that may go to retention (R153, R154).
(DEDUCED, notes/assumptions 46; safe.) -/
def State.resters (s : State) (c : Nat × Core) : List Turn :=
  let ask (flag : Bool) (t : Tab Bank) : List Turn :=
    (t.filter (fun p => p.2 == .on && ({ s with arg := { a := c.1, b := p.1, flag := flag } } : State).retainBank.core c.1 != c.2)).map
      (fun p => Turn.own { step := .bankRetentionEnter, arg := { a := c.1, b := p.1, flag := flag } })
  ask false c.2.regBank ++ ask true c.2.spmBank

/-- An event that an earlier one must precede: the host's writes to one doorbell page arrive in their order (R37). -/
def State.inOrder (s : State) (n : Nat) : Bool :=
  match s.agenda[n]? with
  | some ev => !(ev.step == .doorbellWrite && ev.arg.d == 0 && (s.agenda.take n).any (fun e => e.step == .doorbellWrite && e.arg.d == 0 && e.arg.a / 4096 == ev.arg.a / 4096))
  | none => true

/-- Everything that can move, which of two sub-groups of one pipe issues apart (`State.choices`).
(DESIGN CHOICE, notes/assumptions 2; unsafe.) -/
def State.turns (s : State) : List Turn :=
  ((List.range s.agenda.length).filter s.inOrder).map .pending ++ s.runnable.map (fun a => .sub a.1 a.2) ++
    s.cores.flatMap (fun c => ((c.2.mslots.filter (fun m => s.engineReady m.2 && !s.relocking c.1)).map (fun m => Turn.engine c.1 m.1)) ++ s.resters c)

/-- Fabric time passes (R443): how much is not fixed, and cycles are not counted. Whoever waits in `bwait` looks at its object.
(DESIGN CHOICE, notes/assumptions 3; unsafe.) -/
def State.tick (s : State) : State := { s.lookAll with time := s.time + Config.elapse s.count, count := s.count + 1 }

/-! ### Placing a word for the next step -/

/-- A core whose profile has the word's instruction and may run it: a lattice core, else a control core. -/
def placeUnit (w : Nat) : Nat :=
  match decodeWord (BitVec.ofNat 64 w) with
  | some i => if inProfile .lattice (opcodeOf i) && !isPrivileged false (opcodeOf i) then 4096 else 12288
  | none => 4096
/-- A running group whose one clause holds the word alone, its header's waits met. -/
def placedGroup (u w : Nat) : Group :=
  { present := true, block := blockKey u 0
    subs := [(0, { st := 1, lanes := if kindOfUnit u = .control then 1 else 0xFFFFFFFF, headerMet := true
                   clause := some ⟨0, 0x5A, [BitVec.ofNat 64 w], [0, 0, 0]⟩ })] }
/-- The state with that group alone on the device, and nothing pending.
(DESIGN CHOICE, notes/assumptions 27; unsafe.) -/
def State.place (s : State) (w : Nat) : State :=
  let u := placeUnit w
  { s with
    agenda := [], groups := [(groupKey u 0, placedGroup u w)], cores := []
    blocks := [(blockKey u 0, { present := true, groups := [groupKey u 0] })] }

end Sys2Proof.Machine
end

