-- ==== Sys2Proof/Machine/Launch.lean ====
section
/-! DEFINITION. Launches: regions (02 R45-R51), the descriptor and its acceptance (R60-R65, R75, R76, 07 R209), edges (R66, R77), the
scheduler (03 R78-R81, R89-R92), entry state (05 R130-R132), and the end of a launch (R93, 20 R432-R434). -/

namespace Sys2Proof.Machine

/-! ### Regions (R45-R51) -/

/-- The descriptor of region `n` of a context. -/
def State.regionBits (s : State) (c : Context) (n : Nat) : Nat := s.num (c.rtBase + 64 * n) 64
/-- The fields that bit `i` of inherit governs (R47), as (low bit, width). -/
def regionGroup (i : Nat) : List (Nat × Nat) :=
  match i with
  | 0 => [(328, 16), (312, 16), (296, 16)]
  | 1 => [(260, 4)]
  | 2 => [(258, 2)]
  | 3 => [(256, 2)]
  | 4 => [(488, 24), (448, 40)]
  | 5 => [(416, 32)]
  | 6 => [(254, 1), (253, 1)]
  | 7 => [(392, 24), (368, 24)]
  | _ => [(356, 12), (344, 12)]
/-- The checks of R46 that one descriptor passes by itself, and that it is live. -/
def regionFits (n r : Nat) : Bool :=
  let inh := field r 264 16
  let lim := field r 416 32
  r % 2 ^ 248 == 0 && decide (inh < 512) && bitAt r 248 && field r 258 2 != 3 && field r 256 2 != 3 &&
    decide (field r 392 24 ≤ field r 368 24) && decide (field r 356 12 ≤ field r 344 12) &&
    (lim == 0 || (decide (1000 ≤ lim) && decide (lim ≤ 4000000000))) &&
    (List.range 9).all (fun i => bitAt inh i || (regionGroup i).all (fun p => field r p.1 p.2 == 0)) &&
    (n != 0 || (inh == 511 && bitAt r 255 && field r 280 16 == 0 && field r 249 4 == 0))
/-- The descriptors from region `n` to region 0 (R46): none where one is malformed or not live. -/
def State.regionPath (s : State) (c : Context) : Nat → Nat → Option (List (Nat × Nat))
  | 0, _ => none
  | fuel + 1, n =>
    if c.rtCount ≤ n then none
    else
      let r := s.regionBits c n
      if !regionFits n r then none
      else if n = 0 then some [(0, r)]
      else
        match s.regionPath c fuel (field r 280 16) with
        | some ((p, q) :: t) => if field r 249 4 = field q 249 4 + 1 ∧ field r 249 4 ≤ 7 then some ((n, r) :: (p, q) :: t) else none
        | _ => none
/-- A field of the nearest descriptor of a path that supplies its group. -/
def pathField (path : List (Nat × Nat)) (i lo n : Nat) : Nat :=
  match path.find? (fun p => bitAt (field p.2 264 16) i) with
  | some p => field p.2 lo n
  | none => 0
/-- The resolved values of a region (R47, R49-R51). -/
def resolve (n : Nat) (path : List (Nat × Nat)) : RegionVals :=
  let f := pathField path
  { num := n
    budgets := (path.filter (fun p => bitAt (field p.2 264 16) 0)).map (fun p => (p.1, ⟨field p.2 328 16, field p.2 312 16, field p.2 296 16⟩))
    prio := f 1 260 4, pclass := f 2 258 2, bpol := f 3 256 2, trapObj := f 4 488 24, trapPc := f 4 448 40
    umpLim := if f 5 416 32 = 0 then 10000000 else f 5 416 32
    permLaunch := f 6 254 1 == 1, permUcode := f 6 253 1 == 1, objLo := f 7 392 24, objHi := f 7 368 24, semLo := f 8 356 12
    semHi := f 8 344 12, roots := (path.filter (fun p => bitAt p.2 255)).map (·.1), path := path.map (·.1) }
def State.resolveRegion (s : State) (c : Context) (n : Nat) : Option RegionVals := (s.regionPath c 8 n).map (resolve n)

/-- A claim as budgets count it: a stream granule counts 8 (R45). -/
def charge (k : CoreKind) (r : Res) : Res := if k = .stream then { r with spm := 8 * r.spm } else r
/-- An amount is within a budget; 0xFFFF is unlimited. -/
def within (r b : Res) : Bool :=
  (b.reg == 0xFFFF || decide (r.reg ≤ b.reg)) && (b.spm == 0xFFFF || decide (r.spm ≤ b.spm)) && (b.msl == 0xFFFF || decide (r.msl ≤ b.msl))
/-- The charge of the resident blocks of a region's subtree (R49). -/
def State.charged (s : State) (c n : Nat) : Res :=
  s.blocks.foldl (fun r p =>
    if p.2.present && p.2.ctx == c && p.2.rv.path.contains n then r.add (charge (kindOfUnit (unitOfBlock p.1)) p.2.claim) else r) {}
/-- No region on the path would exceed a budget.
(DEDUCED, notes/assumptions 41; unsafe.) -/
def State.budgetRoom (s : State) (c : Nat) (rv : RegionVals) (k : CoreKind) (claim : Res) : Bool :=
  rv.budgets.all (fun b => within ((s.charged c b.1).add (charge k claim)) b.2)
/-- A claim fits every budget of the path by itself. -/
def budgetFits (rv : RegionVals) (k : CoreKind) (claim : Res) : Bool := rv.budgets.all (fun b => within (charge k claim) b.2)

/-! ### The hub's own accesses by object and offset -/

/-- The places of the extents that `n` bytes the hub reaches by object number touch, by page; the step of R57 (6 to 8) that fails
otherwise. The object's entry and each extent are looked up once. A remote chip is not reached so. -/
def State.hubReach (s : State) (c obj a n : Nat) : Except Nat (Tab Nat) × State :=
  let x := s.context c
  if x.otCount ≤ obj then (.error 6, s)
  else
    let (v, s) := s.portRead c obj 0 (x.otBase + 16 * obj)
    if !entValid v || entReserved v then (.error 6, s)
    else
      (List.range ((a + n - 1) / 65536 - a / 65536 + 1)).foldl (fun r i =>
        let page := a / 65536 + i
        let (w, s) := r.2.walkPage c obj v page false
        let here : Except Nat Nat := match w with
          | .fail st => .error st
          | .ok y => match s.locOf c y (page * 65536) with
            | .mem k => .ok k
            | _ => .error 7
        (match r.1, here with
         | .ok ps, .ok k => .ok (tput ps page k)
         | .ok _, .error st => .error st
         | .error st, .ok _ => .error st
         | .error st, .error st' => .error (min st st'), s)) (.ok [], s)
/-- The failing step alone. -/
def State.hubWalk (s : State) (c obj a n : Nat) : Option Nat × State :=
  match s.hubReach c obj a n with
  | (.error st, s) => (some st, s)
  | (.ok _, s) => (none, s)
/-- The key of an object offset in the places found. -/
def placeKey (ps : Tab Nat) (a : Nat) : Nat := tget 0 ps (a / 65536) + a % 65536
/-- Bytes of an object at the places found. -/
def State.hubBytes (s : State) (ps : Tab Nat) (a n : Nat) : List Byte := (List.range n).map (fun i => s.byte (placeKey ps (a + i)))
/-- A write of at most 64 aligned bytes at the place found. -/
def State.hubWrite (s : State) (ps : Tab Nat) (a : Nat) (bs : List Byte) : State := s.writeAt (placeKey ps a) bs

/-! ### The descriptor (R60, R61) -/

def dsHandle (d : List Byte) (i : Nat) : Nat := leNat ((d.drop (128 + 16 * i)).take 16)
def dsCode (d : List Byte) : Nat := leNat ((d.drop 112).take 16)
def dsArg (d : List Byte) (i : Nat) : Nat := leNat ((d.drop (80 + 4 * i)).take 4)
def dsKickoff (d : List Byte) : Nat := leNat ((d.drop 72).take 8)
/-- A field of the descriptor's first 72 bytes. -/
def dsField (d : List Byte) (lo n : Nat) : Nat := field (leNat (d.take 72)) lo n
def dsCrObj (d : List Byte) : Nat := dsField d 552 24
def dsCrOff (d : List Byte) : Nat := dsField d 512 40
def dsGridX (d : List Byte) : Nat := dsField d 416 32
def dsGridY (d : List Byte) : Nat := dsField d 448 32
def dsGridZ (d : List Byte) : Nat := dsField d 480 32
def dsTotal (d : List Byte) : Nat := dsGridX d * dsGridY d * dsGridZ d
def dsEntry (d : List Byte) (k : CoreKind) : Nat := if k = .stream then dsField d 336 40 else dsField d 376 40
def dsEdgeObj (d : List Byte) : Nat := dsField d 312 24
def dsEdgeOff (d : List Byte) : Nat := dsField d 272 40
def dsRegion (d : List Byte) : Nat := dsField d 256 16
def dsClaim (d : List Byte) (k : CoreKind) : Res := Res.ofImage (if k = .stream then dsField d 216 20 else dsField d 236 20)
def dsAlloc (d : List Byte) (k : CoreKind) : Res := Res.ofImage (if k = .stream then dsField d 176 20 else dsField d 196 20)
def dsEdges (d : List Byte) : Nat := dsField d 172 4 + dsField d 168 4
def dsBsize (d : List Byte) : Nat := dsField d 163 5
def dsCsize (d : List Byte) : Nat := dsField d 160 3
def dsKind (d : List Byte) : Nat := dsField d 158 2
def dsClass (d : List Byte) : Nat := dsField d 156 2
/-- Groups of a block on a kind of core. -/
def dsGroups (d : List Byte) (k : CoreKind) : Nat := if k = .stream then 3 else dsBsize d
/-- The kinds of core a launch may use (R62). -/
def dsKinds (d : List Byte) : List CoreKind :=
  match dsKind d with
  | 0 => [.lattice]
  | 1 => [.stream]
  | _ => if 1 < dsCsize d then [.lattice] else [.lattice, .stream]

/-- A delivered handle slot (R63). -/
def delivered (bits : Nat) (sup tag : Bool) : HandleReg := { bits := BitVec.ofNat 128 bits, valid := bits == 0 || sup || tag }

/-! ### Edge records (R65) -/

def edRegion (e : List Byte) (i j : Nat) : Nat := leNat ((e.drop (272 * i + 16 + 32 * j)).take 32)
/-- The range of region `j` of edge `i`: object, first offset, length. -/
def edRange (e : List Byte) (i j : Nat) : Nat × Nat × Nat :=
  let r := edRegion e i j
  (field r 232 24, field r 176 40 + field r 64 40, field r 0 40)
/-- A used region entry passes R57 steps 1, 3, 6 and 7, and its reserved bits are zero. -/
def State.edRegionOk (s : State) (c : Nat) (r : Nat) : Bool :=
  let h : HandleReg := { bits := BitVec.ofNat 128 (r / 2 ^ 128) }
  let off := field r 64 40
  let n := field r 0 40
  field r 104 24 == 0 && field r 40 24 == 0 && decide (1 ≤ n) && h.bits.toNat % 256 == 0 && decide (off + n ≤ h.len) &&
    (match (s.walkRange c h.obj h.gen (h.base + off) n false).1 with
     | some st => st == 8
     | none => true)
/-- Edge record `i` is well formed. -/
def State.edgeOk (s : State) (c : Nat) (rv : RegionVals) (e : List Byte) (i : Nat) : Bool :=
  let n := edgeCountAt e i
  let v := edgeVsemAt e i
  decide (n ≤ 8) && field (leNat ((e.drop (272 * i)).take 8)) 0 48 == 0 && decide (rv.semLo ≤ v) && decide (v ≤ rv.semHi) &&
    (List.range 8).all (fun j => if j < n then s.edRegionOk c (edRegion e i j) else edRegion e i j == 0)

/-! ### Health and placement masks (R31, R89) -/

/-- A unit's self-test passed and its die is neither fenced nor isolated (R31, R410). -/
def State.unitOk (s : State) (u : Nat) : Bool := passes (tget (0, 0) s.boot.tests u).1 && !s.hub.isolated.contains (u / 256)
/-- The coherence classes of the dies (R20, R22). -/
inductive CohClass where
  | P | I | N
  deriving DecidableEq, Repr
/-- What the hub assigns a chiplet at enumeration (R20): its window, its units' dispatch queue identifiers, its class. -/
def dieWindow (die : Nat) : Nat := 2 ^ 41 + die * 2 ^ 24
def dispatchId (u : Nat) : Option Nat :=
  let d := u / 256 % 16
  let c := u % 256
  match u / 4096 with
  | 1 => if d < 8 ∧ c < 16 then some (16 * d + c) else none
  | 2 => if d < 4 ∧ c < 4 then some (0x80 + 4 * d + c) else none
  | 3 => if d = 0 ∧ c < 8 then some (0x90 + c) else none
  | 4 => if d < 2 ∧ c < 8 then some (0xA0 + 8 * d + c) else none
  | _ => none
def dieClass (die : Nat) : Option CohClass :=
  match die / 16 with
  | 1 => some .I
  | 2 => some .N
  | 3 => some .P
  | 4 => some .I
  | _ => none
/-- What a chiplet has been assigned; a fenced one has nothing, and its identifiers go to no other die (R20, R21). -/
def State.assignedWindow (s : State) (die : Nat) : Option Nat := if s.dieFenced die then none else some (dieWindow die)
def State.assignedId (s : State) (u : Nat) : Option Nat := if s.dieFenced (u / 256) then none else dispatchId u
def State.assignedClass (s : State) (die : Nat) : Option CohClass := if s.dieFenced die then none else dieClass die
/-- A core that can be given work: it has a dispatch queue identifier, and its lattice cluster is healthy too. -/
def State.healthy (s : State) (u : Nat) : Bool :=
  s.unitOk u && (s.assignedId u).isSome && (kindOfUnit u != .lattice || s.unitOk (u / 256 * 256 + 0x10 + u % 256 / 4))
/-- The cores of a kind, in the order of their dispatch queue identifiers (R20). -/
def unitsOf (k : CoreKind) : List Nat :=
  match k with
  | .lattice => (List.range 128).map (fun i => 4096 + i / 16 * 256 + i % 16)
  | .stream => (List.range 16).map (fun i => 8192 + i / 4 * 256 + i % 4)
  | .control => (List.range 8).map (12288 + ·)
/-- The place of a core in its kind's mask: its identifier's place in its kind's range (R20, R89). -/
def maskBit (u : Nat) : Nat := if kindOfUnit u = .stream then u / 256 % 16 * 4 + u % 256 else u / 256 % 16 * 16 + u % 256
/-- The healthy cores of a kind that a context may use. -/
def State.eligible (s : State) (c : Nat) (k : CoreKind) : List Nat :=
  let m := if k = .stream then (s.context c).smask else (s.context c).lmask
  (unitsOf k).filter (fun u => bitAt m (maskBit u) && s.healthy u)

/-- Blocks that an empty core of a kind holds (R76). -/
def coreFit (d : List Byte) (k : CoreKind) : Nat :=
  if k = .stream then 1
  else
    let c := dsClaim d .lattice
    let lim (t c : Nat) : Nat := if c = 0 then 16 else t / c
    min (min 16 (32 / dsBsize d)) (min (lim 256 c.reg) (min (lim 128 c.spm) (lim 4 c.msl)))
/-- Fit (R76). -/
def State.fit (s : State) (c : Nat) (d : List Byte) : Nat :=
  let lat := s.eligible c .lattice
  let f := coreFit d .lattice
  if 1 < dsCsize d then
    (List.range 32).foldl (fun n k =>
      let e := (lat.filter (fun u => powerIndex u == k)).length
      if dsCsize d ≤ e then n + f * e / dsCsize d else n) 0
  else (dsKinds d).foldl (fun n k => n + (if k = .stream then (s.eligible c .stream).length else f * lat.length)) 0

/-! ### Acceptance (R62, R65, R75, R76) -/

/-- The effective progress class (R64). -/
def effClass (d : List Byte) (rv : RegionVals) : Nat := if dsClass d = 3 then rv.pclass else dsClass d
/-- A claim and its entry allocation fit a kind of core (R62). -/
def claimOk (d : List Byte) (k : CoreKind) : Bool :=
  let c := dsClaim d k
  let a := dsAlloc d k
  let b := dsBsize d
  !a.gt c &&
    (if k = .stream then c.reg == 0 && decide (c.spm ≤ 128) && decide (c.msl ≤ 2)
     else decide (1 ≤ b) && decide (b ≤ 16) && decide (b ≤ c.reg) && decide (c.reg ≤ min 256 (16 * b)) && decide (c.spm ≤ 128) && decide (c.msl ≤ 4) &&
      decide (b ≤ a.reg))
/-- The claim fields of the kinds that a launch's code field does not name are zero. -/
def claimsOk (d : List Byte) : Bool :=
  match dsKind d with
  | 0 => claimOk d .lattice && dsField d 216 20 == 0 && dsField d 176 20 == 0
  | 1 => claimOk d .stream && dsBsize d == 1 && dsCsize d == 1 && dsField d 236 20 == 0 && dsField d 196 20 == 0
  | _ => claimOk d .lattice && claimOk d .stream

/-- What acceptance has found: a status, or that it waits for the edge records. -/
inductive Judged where
  | status (n : Nat)
  | wait
  | accept (rv : RegionVals) (edges : List Byte)
  deriving DecidableEq, Repr

/-- The code handle is valid and reaches the entry clauses (R62). -/
def State.codeOk (s : State) (c : Nat) (d : List Byte) (sup tag : Bool) (rv : Option RegionVals) : Bool :=
  let h := delivered (dsCode d) sup tag
  let entryOk (k : CoreKind) : Bool := dsEntry d k % 8 == 0 && decide (h.base ≤ dsEntry d k) && decide (dsEntry d k + 16 ≤ h.base + h.len)
  h.valid && h.bits.toNat % 256 == 0 && bitAt h.rights 2 && !bitAt h.rights 7 &&
    (match rv with
     | some r => decide (r.objLo ≤ h.obj) && decide (h.obj ≤ r.objHi)
     | none => true) &&
    (s.walkEntry c h.obj h.gen).1.isSome && (dsKind d == 1 || entryOk .lattice) && (dsKind d == 0 || entryOk .stream)

/-- The conditions of R62 but for the edges, in order: the first status that one breaks. -/
def State.judge62 (s : State) (p : PendingLaunch) (rv : Option RegionVals) : Option Nat :=
  let d := p.desc
  let x := s.context p.ctx
  let issuer := (s.blockOf p.group).rv
  if dsField d 0 8 ≠ 1 ∨ dsField d 8 148 ≠ 0 ∨ dsKind d = 3 then some 1
  else if !s.codeOk p.ctx d p.supervisor (p.tags.getD 0 false) rv then some 2
  else if 2 ^ 32 ≤ dsTotal d then some 3
  else if !claimsOk d then some 4
  else if dsCsize d < 1 ∨ 4 < dsCsize d ∨ dsGridX d % dsCsize d ≠ 0 then some 5
  else
    match rv with
    | none => some 6
    | some r =>
      if !((if dsKind d = 0 then [CoreKind.lattice] else if dsKind d = 1 then [CoreKind.stream] else [CoreKind.lattice, CoreKind.stream]).any
          (fun k => budgetFits r k (dsClaim d k))) then some 7
      else if !p.supervisor && !issuer.permLaunch then some 8
      else if 0 < dsEdges d && (dsEdgeOff d % 16 != 0 || decide (x.otCount ≤ dsEdgeObj d) || decide (dsEdgeObj d < r.objLo) ||
          decide (r.objHi < dsEdgeObj d)) then some 9
      else none

/-- The conditions of R76, in order. -/
def State.judge76 (s : State) (p : PendingLaunch) (rv : RegionVals) : Option Nat :=
  let d := p.desc
  let x := s.context p.ctx
  if !x.bound || x.torn then some 0x0C
  else if 4096 ≤ s.launches.length ∨ 512 ≤ (s.launches.filter (fun l => l.2.ctx == p.ctx)).length then some 0x0D
  else if !p.supervisor && !rv.path.contains (s.blockOf p.group).rv.num then some 8
  else if dsKickoff d ≠ 0 ∧ effClass d rv ≠ 0 then some 1
  else if (dsKinds d).all (fun k => (s.eligible p.ctx k).isEmpty) then some 0x0B
  else if effClass d rv = 0 ∧ s.fit p.ctx d < dsTotal d then some 0x0A
  else none

/-- The judgement of a submitted descriptor. -/
def State.judgeLaunch (s : State) (p : PendingLaunch) : Judged × State :=
  let d := p.desc
  let rv := s.resolveRegion (s.context p.ctx) (dsRegion d)
  match s.judge62 p rv, rv with
  | some st, _ => (.status st, s)
  | none, none => (.status 6, s)
  | none, some r =>
    let n := dsEdges d
    let (w, s) : Except Nat (Tab Nat) × State := if n = 0 then (.ok [], s) else s.hubReach p.ctx (dsEdgeObj d) (dsEdgeOff d) (272 * n)
    match w with
    | .error 8 => (.wait, s)
    | .error _ => (.status 9, s)
    | .ok ps =>
      let e := s.hubBytes ps (dsEdgeOff d) (272 * n)
      if !(List.range n).all (s.edgeOk p.ctx r e) then (.status 9, s)
      else match s.judge76 p r with
        | some st => (.status st, s)
        | none => (.accept r e, s)

/-! ### Completion records (R433) -/

/-- The 64 bytes of a completion record. -/
def completionImage (time n blocks lost discards first unit region ctx flags status : Nat) : List Byte :=
  leBytes 64 (time % 2 ^ 64 * 2 ^ 448 + n * 2 ^ 416 + blocks * 2 ^ 384 + lost * 2 ^ 352 + min discards 0xFFFFFFFF * 2 ^ 320 + first * 2 ^ 288 +
    unit * 2 ^ 272 + region * 2 ^ 48 + ctx * 2 ^ 40 + flags * 2 ^ 32 + 0x10 * 2 ^ 24 + status)

/-- The place of a completion record passes steps 4 and 5 of R57 for a region's object window; a launch whose region does not resolve has no
window. Whether step 5 applies to this access of the hub's is the model's reading of R75 and R432.
(DEDUCED, notes/assumptions 42; unsafe.) -/
def recordFits (d : List Byte) (rv : Option RegionVals) : Bool :=
  dsCrOff d % 64 == 0 && (match rv with
    | some r => decide (r.objLo ≤ dsCrObj d) && decide (dsCrObj d ≤ r.objHi)
    | none => true)
/-- The record of a refused launch, where its place passes R57 (R75).
(DEDUCED, notes/assumptions 42; unsafe.) -/
def State.refusedRecord (s : State) (p : PendingLaunch) (status : Nat) : State :=
  let d := p.desc
  if !recordFits d (s.resolveRegion (s.context p.ctx) (dsRegion d)) then s
  else
    match s.hubReach p.ctx (dsCrObj d) (dsCrOff d) 64 with
    | (.ok ps, s) => s.hubWrite ps (dsCrOff d) (completionImage s.time 0 0 0 0 0xFFFFFFFF 0xFFFF (dsRegion d) p.ctx 0 status)
    | (.error _, s) => s

/-- The incoming edges' regions leave every class N read cache (R66). -/
def State.invalidateEdges (s : State) (l : Launch) : State :=
  (List.range l.edgesIn).foldl (fun s i => (List.range (edgeCountAt l.edges i)).foldl (fun s j =>
    let (obj, a, n) := edRange l.edges i j
    s.dropStream (fun y => y.ctx == l.ctx && y.obj == obj && decide (y.off < a + n) && decide (a < y.off + 128))) s) s

/-- The outgoing edges of a launch. -/
def Launch.outs (l : Launch) : List Nat := (List.range l.edgesOut).map (l.edgesIn + ·)
/-- Statuses of launches whose edges are not signalled: cancelled or terminated (R94, R408). -/
def unsignalled (st : Nat) : Bool := st == 0x0C || st == 0x10 || st == 0x12 || st == 0x13

/-- The record of an access of the hub's own that meets R57 step 8 (R400). -/
def State.hubRecord (s : State) (c n region obj off : Nat) : State :=
  s.record c 3 { launch := n, region := region, ctx := c, cause := 5 * 2 ^ 28 + 7 * 2 ^ 16 + 0x11, info := 8 * 2 ^ 24, fmask := 1, addr := off
                 word := obj * 2 ^ 40 + off }

/-- Steps 3 and 4 of R432: the completion record, then the semaphore additions in record order; the launch is then held no more. A
record write that meets R57 step 8 waits, and the rest with it. -/
def State.finishLaunch (s : State) (n : Nat) : State :=
  match tfind s.launches n with
  | none => s
  | some l =>
    let d := l.desc
    let lostEdge := !unsignalled l.status && l.outs.any (fun i => (s.semOf l.ctx (edgeVsemAt l.edges i)).isNone)
    let flags := l.flags % 2 + (if lostEdge then 2 else 0)
    let bs := completionImage s.time n l.retired l.lost l.discards l.first l.unit l.rv.num l.ctx flags l.status
    let signal (s : State) : State :=
      let s : State := { s with launches := tdel s.launches n, ready := s.ready.filter (· != n) }
      if unsignalled l.status then s
      else l.outs.foldl (fun s i => match s.semOf l.ctx (edgeVsemAt l.edges i) with
        | some v => s.semAdd v (edgeValueAt l.edges i)
        | none => s) s
    if !recordFits d (some l.rv) then signal s
    else
      match s.hubReach l.ctx (dsCrObj d) (dsCrOff d) 64 with
      | (.ok ps, s) => signal (s.hubWrite ps (dsCrOff d) bs)
      | (.error 8, s) =>
        let s := s.setLaunch n { l with st := 4, pending := true }
        if l.pending then s
        else s.hubRecord l.ctx n l.rv.num (dsCrObj d) (dsCrOff d)
      | (.error _, s) => signal s

/-! ### Submission (R209, R75) -/

/-- A slot that still holds an operation completes with results. -/
def State.deliver (s : State) (k e j seq : Nat) (wrs : List Wr) : State :=
  let x := s.sub k e
  let y := x.slot j
  if y.st == SlotState.busy && y.seq == seq then s.setSub k e (x.setSlot j { y with st := .complete, wrs := wrs }) else s
/-- The results of a decided launch: number and status. -/
def State.answerLaunch (s : State) (p : PendingLaunch) (number status : Nat) : State :=
  s.deliver p.group p.entry p.slot p.seq (wrS p.dst 2 (number + status * 2 ^ 32))

/-- An accepted launch gets its number and begins to wait on its edges (R75, R77). -/
def State.acceptLaunch (s : State) (p : PendingLaunch) (rv : RegionVals) (e : List Byte) : State :=
  let n := s.hub.nextLaunch
  let s := { s with hub := { s.hub with nextLaunch := if n = 0xFFFFFFFF then 1 else n + 1 } }
  let s := s.setLaunch n {
    num := n, ctx := p.ctx, desc := p.desc, tags := p.tags, supervisor := p.supervisor, rv := rv, pclass := effClass p.desc rv
    edges := e, total := dsTotal p.desc }
  (s.answerLaunch p n 0).reevalEdges

/-- The record of a launch whose edge records are not resident (R65, R400). -/
def State.edgeRecord (s : State) (p : PendingLaunch) : State :=
  let a := dsEdgeOff p.desc
  let pages := (List.range ((a + 272 * dsEdges p.desc - 1) / 65536 - a / 65536 + 1)).map (fun i => max a ((a / 65536 + i) * 65536))
  let off := (pages.find? (fun o => (s.hubWalk p.ctx (dsEdgeObj p.desc) o 1).1 == some 8)).getD a
  s.hubRecord p.ctx 0 p.region (dsEdgeObj p.desc) off

/-- A submitted descriptor is decided, or waits for its edge records. -/
def State.decideLaunch (s : State) (p : PendingLaunch) (again : Bool) : State :=
  let s := { s with pendingLaunches := s.pendingLaunches.filter (fun q => q.seq != p.seq) }
  match s.judgeLaunch p with
  | (.accept rv e, s) => s.acceptLaunch p rv e
  | (.status st, s) => (if st < 0x0C then s.refusedRecord p st else s).answerLaunch p 0 st
  | (.wait, s) =>
    let s := { s with pendingLaunches := s.pendingLaunches ++ [p] }
    if again then s else s.edgeRecord p

/-- The descriptor of a `launch` has been read.
(DEDUCED, notes/assumptions 53; unsafe.) -/
def State.submit (s : State) (a : Access) : State :=
  let sup := kindOf a.group == CoreKind.control
  let desc := a.elems.flatMap (·.result)
  s.decideLaunch {
    group := a.group, entry := a.entry, slot := a.slot.getD 0, seq := a.seq, dst := a.dst, ctx := a.ctx, desc := desc
    tags := (a.elems.drop 7).map (·.tag)
    supervisor := sup, region := dsRegion desc } false

/-- EDGE_READ_RESUME (R65, R400). -/
def execEdgeReadResume (s : State) : Host.Outcome State Fault Refusal :=
  event (fun s => match s.pendingLaunches.find? (fun p => p.seq == s.arg.a) with
    | some p => s.decideLaunch p true
    | none => s) s

/-- LAUNCH (R209): the descriptor is read, then the hub decides. -/
def execLaunch (f : XForm) (s : State) : Host.Outcome State Fault Refusal :=
  issue (.launch f) .slot (fun cx s =>
    let o : Int := (s.opS64 cx.k cx.e f.xc).toNat
    s.handleAccess cx f.xb.toNat rR 256 16 [(0, o)] (fun h =>
      { Access.start .launch ((List.range 16).map (fun i =>
          { lane := 0, part := i, off := o.toNat + 16 * i, obj := h.base + o.toNat + 16 * i, n := 16 })) with
        size := 16, dst := f.xa.toNat, scalar := true })) s

/-- LQUERY (R210). -/
def execLquery (f : XForm) (s : State) : Host.Outcome State Fault Refusal :=
  issue (.lquery f) .slot (fun cx s =>
    let n := (s.opS cx.k cx.e f.xb).toNat
    let v := match tfind s.launches n with
      | some l => if l.ctx = s.ctxOf cx.k then l.st + (if 3 ≤ l.st then l.retired else 0) * 2 ^ 32 else 0
      | none => 0
    .ok (s.slotBusy cx.k cx.e cx.slot cx.op (wrS f.xa.toNat 2 v)) [] 1) s

/-- EDGE_SATISFIED (R77, R93): the edges' regions are invalidated and the launch enters its ready list; one of no blocks ends. -/
def State.edgesHold (s : State) : State :=
  match tfind s.launches s.arg.a with
  | none => s
  | some l =>
    if l.st ≠ 1 ∨ l.satisfied.length < l.edgesIn then s
    else if l.total = 0 then (s.setLaunch l.num { l with st := 4 }).finishLaunch l.num
    else
      let s := (s.invalidateEdges l).setLaunch l.num { l with st := 2, age := s.time }
      { s with ready := s.ready ++ [l.num] }.postOnce .schedulerPass
def execEdgeSatisfied (s : State) : Host.Outcome State Fault Refusal := event State.edgesHold s

/-! ### Candidate cores (R90-R92) -/

/-- The occupancy limit in force (R92). -/
def State.occLimit (s : State) (p : Nat) : Nat :=
  let low := if p < 32 then 8 else 1
  if s.hub.lapsed then low else max low (tget {} s.hub.power p).occ
/-- Resident groups of a core; of a lattice cluster. -/
def State.coreGroups (s : State) (u : Nat) : Nat := (s.groups.filter (fun g => g.2.present && unitOfGroup g.1 == u)).length
def State.clusterGroups (s : State) (p : Nat) : Nat :=
  (s.groups.filter (fun g => g.2.present && kindOf g.1 == .lattice && powerIndex (unitOfGroup g.1) == p)).length
/-- Resident blocks of a stream chiplet. -/
def State.chipletBlocks (s : State) (p : Nat) : Nat :=
  (s.blocks.filter (fun b => b.2.present && kindOfUnit (unitOfBlock b.1) == .stream && powerIndex (unitOfBlock b.1) == p)).length
/-- R92 allows `n` groups on a core. -/
def State.occAllows (s : State) (u n : Nat) : Bool :=
  let p := powerIndex u
  if kindOfUnit u = .stream then decide (s.chipletBlocks p < s.occLimit p)
  else decide (s.clusterGroups p + n ≤ s.occLimit p) || s.clusterGroups p == 0
/-- A core that can take a block now, its checker apart (R90). -/
def State.candidate (s : State) (d : List Byte) (u : Nat) : Bool :=
  let k := kindOfUnit u
  (if k = .stream then (s.residents u).isEmpty else decide ((s.residents u).length < 16) && decide (s.coreGroups u + dsBsize d ≤ 32)) &&
    s.occAllows u (dsGroups d k)

/-- Cores by descending free register blocks (free granules of a stream core), ties to the lowest identifier (R90). -/
def State.freeOf (s : State) (u : Nat) : Nat :=
  if kindOfUnit u = .stream then (s.freeGranules u).length else (s.freeBlocks u).length
def insertUnit (f : Nat → Nat) (u : Nat) : List Nat → List Nat
  | [] => [u]
  | v :: t => if f v < f u ∨ (f v = f u ∧ u < v) then u :: v :: t else v :: insertUnit f u t
/-- The candidate cores of a kind in the order they are tried. -/
def State.candidatesOf (s : State) (c : Nat) (d : List Byte) (rv : RegionVals) (k : CoreKind) : List Nat :=
  if !budgetFits rv k (dsClaim d k) then []
  else
    let free := ((s.eligible c k).filter (s.candidate d)).map (fun u => (u, s.freeOf u))
    (free.map (·.1)).foldl (fun l u => insertUnit (fun v => tget 0 free v) u l) []
/-- All of them, in the order of the context's preference. -/
def State.candidates (s : State) (l : Launch) : List Nat :=
  let of (k : CoreKind) := s.candidatesOf l.ctx l.desc l.rv k
  match dsKinds l.desc with
  | [.lattice, .stream] =>
    let a := of .lattice
    let b := of .stream
    match (s.context l.ctx).pref with
    | 1 => b ++ a
    | 2 => if a.length < b.length then b ++ a else a ++ b
    | _ => a ++ b
  | ks => ks.flatMap of

/-- A core's checker is not at the scheduler's disposal (R87): it checks, or acquisitions wait. -/
def State.checkerBusy (s : State) (u : Nat) : Bool :=
  let c := s.core u
  c.check.isSome || !c.waiters.isEmpty || !c.requests.isEmpty || !c.scan.isEmpty
/-- An admission check (R84) of a claim with first holdings `h`.
(DEDUCED, notes/assumptions 40; unsafe.) -/
def State.admits (s : State) (u : Nat) (claim h : Res) : Bool := claimCheck (totals u) (s.holdings u (2 ^ 32)) claim {} h == 0

/-! ### Resumes that come first (R87, R426) -/

/-- A queued saved block can be resumed now (R426). -/
def State.resumeFits (s : State) (f : Frame) : Bool :=
  let u := f.unit
  let key := blockKey u f.bslot
  let blocks := f.groups.flatMap (fun g => g.2.own.map (fun o => reach o.2))
  !(s.block key).present && f.info.groups.all (fun k => !(s.group k).present) &&
    blocks.all (s.freeBlocks u).contains && f.info.gran.all (fun g => (s.freeGranules u).contains (reach g)) &&
    f.info.slots.all (fun p => (s.freeMslots u).contains (reach p.2)) && s.occAllows u f.info.groups.length &&
    s.budgetRoom f.ctx f.rv (kindOfUnit u) f.claim && !s.checkerBusy u && s.admits u f.claim f.info.held
/-- The frames queued for resume on a core; the units of one kind that they name: 0 register blocks, 1 granules, 2 matrix slots, 3 group
slots, 4 checker slots. A new block takes none of them (R428). -/
def State.pins (s : State) (u : Nat) : List Frame := (s.frames.filter (fun f => f.2.unit == u && f.2.queued.isSome)).map (·.2)
def State.pinned (s : State) (u kind : Nat) : List Nat :=
  (s.pins u).flatMap (fun f => match kind with
    | 0 => f.groups.flatMap (fun g => g.2.own.map (fun o => reach o.2))
    | 1 => f.info.gran.map reach
    | 2 => f.info.slots.map (fun p => reach p.2)
    | 3 => f.info.groups.map (· % 32)
    | _ => [f.bslot])
/-- Group slots and checker slots that a new block may take. -/
def State.freeGroups (s : State) (u : Nat) : List Nat :=
  (List.range (if kindOfUnit u = .stream then 3 else 32)).filter (fun i => !(s.group (groupKey u i)).present && !(s.pinned u 3).contains i)
def State.freeChecks (s : State) (u : Nat) : List Nat :=
  (List.range (if kindOfUnit u = .stream then 1 else 16)).filter (fun i => !(s.block (blockKey u i)).present && !(s.pinned u 4).contains i)
/-- The units that pins leave a new block are enough for `n` groups and an allocation. -/
def State.pinsAllow (s : State) (u n : Nat) (a : Res) : Bool :=
  let left (kind : Nat) (l : List Nat) : Nat := (l.filter (fun x => !(s.pinned u kind).contains x)).length
  (s.pins u).isEmpty || (decide (n ≤ (s.freeGroups u).length) && !(s.freeChecks u).isEmpty && decide (a.reg ≤ left 0 (s.freeBlocks u)) &&
    decide (a.spm ≤ left 1 (s.freeGranules u)) && decide (a.msl ≤ left 2 (s.freeMslots u)))

/-- A queued resume of a priority at least `p` can be made on a core: it precedes a new block (R87). -/
def State.resumeFirst (s : State) (u p : Nat) : Bool :=
  s.frames.any (fun f => f.2.unit == u && f.2.queued.isSome && decide (p ≤ f.2.prio) && s.resumeFits f.2)

/-! ### Admission (R84, R130, R132) -/

/-- The private state of a group's first sub-group at entry (R130). -/
def entrySub (d : List Byte) (sup : Bool) (tags : List Bool) (pc x y z gidx : Nat) : Sub :=
  let w (n : Nat) : W32 := BitVec.ofNat 32 n
  { st := 1, pc := pc, lanes := 0xFFFFFFFF
    s := [(1, w x), (2, w y), (3, w z), (4, w gidx)] ++ (List.range 8).map (fun i => (i + 5, w (dsArg d i)))
    h := (List.range 8).map (fun i => (i + 1, delivered (dsHandle d i) sup (tags.getD (i + 1) false))) ++ [(9, delivered (dsCode d) sup (tags.getD 0 false))] }
/-- The lane generator's seeds at entry (R170). -/
def entrySeeds : Tab W32 := (List.range 32).map (fun l => (l, lfsrSeed 0 l))
/-- A group at entry: v0 holds the lane numbers, its other vector registers are dead. -/
def entryGroup (b gidx : Nat) (rv : RegionVals) (x : Sub) : Group :=
  { present := true, block := b, gidx := gidx, v := (List.range 32).map (fun l => (l, BitVec.ofNat 32 l))
    vDead := BitVec.allOnes 256 - 1, lfsr := entrySeeds, umpLim := rv.umpLim, subs := [(0, x)] }

/-- The entry allocation of a group's register blocks lands (R132). -/
def State.grantEntry (s : State) (b k kind n : Nat) : State :=
  let (wrs, _, s) := s.assign b k kind n (s.pinned (unitOfBlock b) kind)
  wrs.foldl (fun s w => s.land k 0 w) s

/-- The sub-groups of a group have waited since the name `n` was given (R146). -/
def Group.startWait (g : Group) (n : Nat) : Group :=
  { g with subs := g.subs.map (fun (p : Nat × Sub) => (p.1, { p.2 with lastIssue := n, idle := 0, yielded := false })) }

/-- A block becomes resident on a core and is held at entry if `hold` (R80, R130, R132): its groups take the lowest free group slots, in
ascending group index (R127), and a lattice core's L1 drops the context's lines (R249). -/
def State.seat (s : State) (l : Launch) (u idx : Nat) (hold : Bool) : Nat × State :=
  let d := l.desc
  let k := kindOfUnit u
  let (bs, s) := s.takeAny 1 (s.freeChecks u)
  let b := blockKey u (bs.headD 0)
  let n := dsGroups d k
  let free := s.freeGroups u
  let slots := free.take n
  let keys := slots.map (groupKey u)
  let x := idx % dsGridX d
  let y := idx / dsGridX d % dsGridY d
  let z := idx / dsGridX d / dsGridY d
  let alloc := dsAlloc d k
  let s := { s with blocks := s.blocks.map (fun (p : Nat × Block) => (p.1, { p.2 with groups := p.2.groups.filter (fun g => !keys.contains g) })) }
  let s := if k = .lattice then s.dropLines u (fun y => y.ctx == l.ctx) else s
  let s := s.setBlock b {
    present := true, launch := l.num, idx := idx, x := x, y := y, z := z, ctx := l.ctx, rv := l.rv, claim := dsClaim d k, held := alloc
    groups := keys, csize := dsCsize d, atEntry := hold }
  let (now, s) := s.fresh
  let s := keys.zipIdx.foldl (fun s p =>
    s.setGroup p.1 ((entryGroup b p.2 l.rv (entrySub d l.supervisor l.tags (dsEntry d k) x y z p.2)).startWait now)) s
  let s := keys.zipIdx.foldl (fun s p =>
    if k = .lattice then
      let s := s.grantEntry b p.1 0 (alloc.reg / n + (if p.2 < alloc.reg % n then 1 else 0))
      let g := s.group p.1
      let s := s.setGroup p.1 { g with vDead := setBit g.vDead 0 false }
      let c := s.core u
      let s := match g.bankOf 0 with
        | some j => s.setCore u { c with regBank := tput c.regBank j .on }
        | none => s
      s.takeMark p.1 0 (dsEntry d k) (dsEntry d k) true
    else s) s
  let s := s.grantEntry b (keys.headD 0) 1 alloc.spm
  (b, s.grantEntry b (keys.headD 0) 2 alloc.msl)

/-- An attempt to place blocks: placed, with the blocks; not now; or to be tried again when a checker is free. -/
inductive Placed where
  | ok (s : State) (blocks : List Nat)
  | no
  | busy
  deriving DecidableEq, Repr

/-- One block on the first candidate that grants (R90). -/
def State.placeOn (s : State) (l : Launch) (idx : Nat) (hold : Bool) : List Nat → Placed
  | [] => .no
  | u :: t =>
    let k := kindOfUnit u
    if s.checkerBusy u || s.resumeFirst u l.rv.prio then .busy
    else if s.budgetRoom l.ctx l.rv k (dsClaim l.desc k) && s.pinsAllow u (dsGroups l.desc k) (dsAlloc l.desc k) && s.admits u (dsClaim l.desc k) (dsAlloc l.desc k) then
      let (b, s) := s.seat l u idx hold
      .ok s [b]
    else s.placeOn l idx hold t

/-- The members of a cluster set, each on its core in turn (R91). -/
def State.placeMembers (s : State) (l : Launch) (idx : Nat) (hold : Bool) : List Nat → List Nat → Placed
  | [], bs => .ok (bs.foldl (fun s b => s.setBlock b { s.block b with members := bs }) s) bs
  | u :: t, bs =>
    if s.budgetRoom l.ctx l.rv .lattice (dsClaim l.desc .lattice) && s.occAllows u (dsBsize l.desc) then
      let (b, s) := s.seat l u (idx + bs.length) hold
      s.placeMembers l idx hold t (bs ++ [b])
    else .no

/-- A cluster set in the first lattice cluster that takes it (R91): on its first candidates that grant, members by identifier. -/
def State.placeSet (s : State) (l : Launch) (idx : Nat) (hold : Bool) (us : List Nat) : List Nat → Placed
  | [] => .no
  | p :: t =>
    let mine := us.filter (fun u => powerIndex u == p)
    if mine.length < dsCsize l.desc then s.placeSet l idx hold us t
    else if mine.any (fun u => s.checkerBusy u || s.resumeFirst u l.rv.prio) then .busy
    else
      let ok := (mine.filter (fun u => s.pinsAllow u (dsBsize l.desc) (dsAlloc l.desc .lattice) && s.admits u (dsClaim l.desc .lattice) (dsAlloc l.desc .lattice))).take (dsCsize l.desc)
      let r := if ok.length < dsCsize l.desc then Placed.no else s.placeMembers l idx hold (ok.foldl (fun l u => insertUnit (fun _ => 0) u l) []) []
      match r with
      | .no => s.placeSet l idx hold us t
      | r => r

/-- The next block or cluster set of a launch. -/
def State.placeNext (s : State) (l : Launch) (idx : Nat) (hold : Bool) : Placed :=
  let us := s.candidates l
  if 1 < dsCsize l.desc then s.placeSet l idx hold us (List.range 32) else s.placeOn l idx hold us

/-- A whole gang (R80): all of its blocks from index `idx`, or nothing. -/
def State.placeGang (s : State) (l : Launch) : Nat → Nat → Placed
  | 0, _ => .no
  | fuel + 1, idx =>
    if l.total ≤ idx then .ok s []
    else
      match s.placeNext l idx true with
      | .ok s bs => s.placeGang l fuel (idx + bs.length)
      | r => r

/-! ### The scheduler's pass (R78-R81) -/

/-- Blocks of a launch begin: they are no longer held at entry. -/
def State.startGang (s : State) (n : Nat) : State :=
  { s with
    blocks := s.blocks.map (fun (p : Nat × Block) => if p.2.present && p.2.launch == n then (p.1, { p.2 with atEntry := false }) else p)
    frames := s.frames.map (fun (p : Nat × Frame) => if p.2.launch = n then (p.1, { p.2 with info := { p.2.info with atEntry := false } }) else p) }
/-- A gang is wholly resident: it starts at once, or at its kickoff (R81); late where that has passed. -/
def State.gangReady (s : State) (n : Nat) (l : Launch) : State :=
  if dsKickoff l.desc = 0 then s.startGang n
  else
    let s := if dsKickoff l.desc < s.time then s.setLaunch n { s.launchOf n with flags := 1 } else s
    s.post .kickoffFire { a := n }

/-- A concurrent launch or cluster set is passed over (R78).
(DEDUCED, notes/assumptions 39; unsafe.) -/
def State.passOver (s : State) (n : Nat) (l : Launch) : State :=
  if (l.pclass ≠ 0 ∧ dsCsize l.desc ≤ 1) ∨ l.passed.isSome then s
  else (s.setLaunch n { l with passed := some s.time }).post .reservationTimeout { a := n, b := s.time, c := s.time + s.hub.rtime }
/-- Blocks were admitted: the launch runs, and leaves its ready list with its last. -/
def State.admitted (s : State) (n next : Nat) : State :=
  let l := s.launchOf n
  let s := s.setLaunch n { l with st := 3, next := next, passed := none, reserving := false, started := true }
  if l.total ≤ next then { s with ready := s.ready.filter (· != n) } else s

/-- The blocks of launch `n` that can be placed now, one after another (R80). -/
def State.placeLaunch (s : State) (n : Nat) : Nat → State
  | 0 => s
  | fuel + 1 =>
    let l := s.launchOf n
    if l.st ≠ 2 ∧ l.st ≠ 3 ∨ l.total ≤ l.next then s
    else if l.pclass = 0 then
      match s.placeGang l 4096 0 with
      | .ok s _ => (s.admitted n l.total).gangReady n l
      | .no => s.passOver n l
      | .busy => (s.passOver n l).postOnce .schedulerPass
    else
      match s.placeNext l l.next false with
      | .ok s bs => (s.admitted n (l.next + bs.length)).placeLaunch n fuel
      | .no => s.passOver n l
      | .busy => (s.passOver n l).postOnce .schedulerPass

/-- Ready launches by priority, then age (R78). -/
def State.readyOrder (s : State) : List Nat :=
  (List.range 16).flatMap (fun i => s.ready.filter (fun n => (s.launchOf n).rv.prio == 15 - i))
/-- A launch that reserves bars every other launch of its priority or below (R78); of several that reserve, the first in order goes first.
`done` are the launches considered before.
(DEDUCED, notes/assumptions 39; unsafe.) -/
def State.barred (s : State) (n : Nat) (done : List Nat) : Bool :=
  let l := s.launchOf n
  s.ready.any (fun m => m != n && (s.launchOf m).reserving && decide (l.rv.prio ≤ (s.launchOf m).rv.prio) && (!l.reserving || done.contains m))
/-- The launches considered in turn. -/
def State.considerAll (s : State) : List Nat → List Nat → State
  | [], _ => s
  | n :: t, done =>
    let s := if s.barred n done then s else s.placeLaunch n 4096
    s.considerAll t (n :: done)
/-- SCHEDULER_PASS (R78): queued saved blocks ask to resume (R87), then the ready lists are walked. -/
def State.schedule (s : State) : State :=
  let s := s.frames.foldl (fun s f => if f.2.queued.isSome && s.resumeFits f.2 then s.postOnce .resume { a := f.1 } else s) s
  s.considerAll s.readyOrder []
def execSchedulerPass (s : State) : Host.Outcome State Fault Refusal := event State.schedule s

/-- RESERVATION_TIMEOUT (R78). -/
def execReservationTimeout (s : State) : Host.Outcome State Fault Refusal :=
  event (fun s =>
    let l := s.launchOf s.arg.a
    if (tfind s.launches s.arg.a).isNone || l.passed != some s.arg.b then s
    else if s.time < s.arg.c then s.again .reservationTimeout
    else (s.setLaunch s.arg.a { l with reserving := true }).postOnce .schedulerPass) s
/-- KICKOFF_FIRE (R81, R372, R448): at the kickoff, or at once for a gang that is late; without fabric time, and where a cluster of the
gang relocks, the start is late. -/
def execKickoffFire (s : State) : Host.Outcome State Fault Refusal :=
  event (fun s =>
    match tfind s.launches s.arg.a with
    | none => s
    | some l =>
      if s.time < dsKickoff l.desc then s.again .kickoffFire
      else if s.blocks.any (fun b => b.2.present && b.2.launch == s.arg.a && s.relocking (unitOfBlock b.1)) then
        (s.setLaunch s.arg.a { l with flags := 1 }).again .kickoffFire
      else (if s.hub.sync then s else s.setLaunch s.arg.a { l with flags := 1 }).startGang s.arg.a) s

end Sys2Proof.Machine
end

