-- ==== Sys2Proof/Machine/Points.lean ====
section
/-! DEFINITION. Accesses at their points of performance (14 R342-R349): the values of atomics (13 R333, R334), one element of an
access performed at a memory key (10 R266-R270, R281; 12 R314), the results an access ends with (R144, R266, R378). -/

namespace Sys2Proof.Machine

/-! ### Atomics (R333, R334) -/

/-- A floating-point sum that raises nothing, rounded to nearest even. -/
def atomFadd (F : Fmt) (a b : Nat) : Nat := (F.round 0 false 0 ((F.decode a).add (F.decode b) 0)).1
def bf16Pair (a b : Nat) : Nat :=
  atomFadd fmtBf16 (a % 65536) (b % 65536) + 65536 * atomFadd fmtBf16 (a / 65536) (b / 65536)

/-- `new` of R333 for operation `op`, the old value and the data registers' bits; none where nothing is written. -/
def atomNew (op old d : Nat) : Option Nat :=
  let d32 := d % 2 ^ 32
  let pick (c : Bool) : Option Nat := some (if c then old else d32)
  match op with
  | 0 => some ((old + d) % 2 ^ 32)
  | 1 => some ((old + d) % 2 ^ 64)
  | 2 => some (atomFadd fmtF32 old d32)
  | 3 => some (atomFadd fmtF64 old (d % 2 ^ 64))
  | 4 => some (bf16Pair old d32)
  | 5 => pick (decide (sext 32 old ≤ sext 32 d32))
  | 6 => pick (decide (sext 32 d32 ≤ sext 32 old))
  | 7 => pick (decide (old ≤ d32))
  | 8 => pick (decide (d32 ≤ old))
  | 9 => some (old &&& d32)
  | 10 => some (old ||| d32)
  | 11 => some (old ^^^ d32)
  | 12 => some d32
  | 13 => some (d % 2 ^ 64)
  | 14 => if old = d32 then some (d / 2 ^ 32 % 2 ^ 32) else none
  | _ => if old = d % 2 ^ 64 then some (d / 2 ^ 64 % 2 ^ 64) else none

/-- An atomic at a memory key, by the access named `id` or by another agent: the old bytes, whether they were poisoned, and the state;
poisoned bytes are left as they are. -/
def State.atomAt (s : State) (id key op : Nat) (d : List Byte) : List Byte × Bool × State :=
  let n := atomSize op
  let s := s.settleDrops id key
  let old := s.bytes key n
  if s.poisoned key n then (old, true, s)
  else
    match atomNew op (leNat old) (leNat d) with
    | some x => (old, false, s.storeAt id key (leBytes n x))
    | none => (old, false, s)

/-! ### What an element does -/

/-- The operation of an access's elements. -/
inductive ElemOp where
  | read | write
  | atom (op : Nat)
  | red (op : Nat)
  | other
  deriving DecidableEq, Repr

/-- Fabric operations (R374-R376): 0 `fst`, 1 `fld`, 16 and up `ffadd`, 32 and up `fred`, with the operation of R333. -/
def AccKind.op : AccKind → ElemOp
  | .load | .hld | .launch => .read
  | .store | .hst => .write
  | .atom o => .atom o
  | .red o => .red o
  | .fabric o => if o = 0 then .write else if o = 1 then .read else if o < 32 then .atom (o - 16) else .red (o - 32)
  | _ => .other

/-- The group's core drops its cached lines of bytes that it writes: an L1 those of a store, atomic or reduction (R249), a core of a stream
chiplet those of a store, which the chiplet's other cores may go on hitting (R251, R355). -/
def State.dropOwnLines (s : State) (a : Access) (el : Elem) : State :=
  let u := unitOfGroup a.group
  let mine (l : Line) : Bool :=
    l.ctx == a.ctx && l.obj == field a.hbits.toNat 104 24 && decide (l.off < el.obj + el.n) && decide (el.obj < l.off + 128)
  if a.local_ || a.member.isSome then s
  else match kindOfUnit u with
    | .control => s
    | .lattice => s.dropLines (cacheKey u) mine
    | .stream =>
      if a.kind == .store || a.kind == .hst then
        { s with lines := tput s.lines (cacheKey u) ((tget [] s.lines (cacheKey u)).map (fun l => if mine l then { l with not := sinsert l.not u } else l)) }
      else s

/-- A load reads through a cache (R249-R251): the L1 for `.ro`, the chiplet's for a stream load without `.st`. -/
def State.cached (s : State) (a : Access) : Bool :=
  a.kind == .load && !a.local_ && a.member.isNone &&
    (match kindOf a.group with
     | .lattice => a.cacheMod == 1
     | .stream => a.cacheMod != 2 && !s.cacheFenced (unitOfGroup a.group)
     | .control => false)

/-- What a control core writes may stay dirty in a cache of its chiplet (R22); what an access with ord = 0 reaches of host memory the
last-level cache then holds, but for a load that allocates nothing (R248, R250). -/
def State.noteCaches (s : State) (a : Access) (el : Elem) (key : Nat) : State :=
  let s := if kindOf a.group == CoreKind.control && a.kind.op != .read && el.flags % 2 == 0 then { s with dirty := sinsert s.dirty (key / 128) } else s
  if el.flags % 2 = 1 || (a.kind == .load && a.cacheMod = 2) then s else s.holdHost key

/-- A byte of the group's own queue is read poisoned where its granule is and no store of the group that is still to be performed covers the
whole granule (R458). -/
def State.ownPoison (s : State) (a : Access) (key : Nat) : Bool :=
  s.poisoned key 1 && !s.accesses.any (fun b => b.group == a.group && decide (b.id < a.id) && (b.kind == .store || b.kind == .hst) &&
    b.elems.any (fun el => !el.done && match el.loc with
      | .mem m => decide (m ≤ key / 16 * 16) && decide (key / 16 * 16 + 16 ≤ m + el.n)
      | _ => false))

/-- A read of an element's bytes: the group's own stores first, then a cache that may hold the line, else the point of performance. -/
def State.readElem (s : State) (a : Access) (el : Elem) (key : Nat) : List Byte × Bool × State :=
  let u := unitOfGroup a.group
  let obj := field a.hbits.toNat 104 24
  let gen := field a.hbits.toNat 96 8
  let s := s.settleDrops a.id key
  let (got, s) : List (Byte × Bool) × State :=
    if el.flags % 2 = 1 || !s.cached a then ((List.range el.n).map (fun i => (s.byte (key + i), s.poisoned (key + i) 1)), s)
    else
      let s := if bitAt el.flags 2 && (s.findLine u a.ctx obj gen el.obj).isNone then
          match s.walk a.ctx obj gen el.obj (kindOf a.group == CoreKind.control) with
          | (.ok x, s) => s.fillLine u a.ctx obj gen el.obj x
          | (_, s) => s
        else s
      (List.range el.n).foldl (fun r i =>
        let (b, s) := r.2.readVia u a.ctx obj gen (el.obj + i) (key + i)
        (r.1 ++ [b], s)) ([], s)
  let own := (List.range el.n).map (fun i => if a.kind.inLoads then s.ownByte a.group a.id (.mem key) i else none)
  let bs := (got.zip own).zipIdx.map (fun p => match p.1.2 with
    | some b => (b, s.ownPoison a (key + p.2))
    | none => p.1.1)
  (bs.map (·.1), bs.any (·.2), s)

/-- The tag that an `hld`, or the read of a `launch` descriptor, finds: that of the group's latest store to the granule, else the granule's (R59, R281). -/
def State.tagElem (s : State) (a : Access) (key : Nat) : Bool :=
  let hit (b : Access) : Option Bool :=
    if b.group != a.group || decide (a.id ≤ b.id) then none
    else (b.elems.find? (fun y => !y.done && match y.loc with
      | .mem m => decide (m < key + 16) && decide (key < m + y.n)
      | _ => false)).map (fun y => b.kind == .hst && y.tag && bitAt y.flags 1)
  match (s.accesses.filterMap hit).getLast? with
  | some t => t
  | none => s.tags.contains (key / 16)

/-- The words of a tile element `i` of 128 bytes in a matrix slot, and whether one of them is poisoned. -/
def tileWords (m : MSlot) (i : Nat) : List Byte := (List.range 32).flatMap (fun j => leBytes 4 (tget 0 m.acc (32 * i + j)).toNat)
def tilePz (m : MSlot) (i j : Nat) : Bool := m.accPz.contains (32 * i + j)
/-- A byte of a tile element loaded into a slot, with its poison. -/
def MSlot.fillByte (m : MSlot) (i n : Nat) (b : Byte) (pz : Bool) : MSlot :=
  let w := 32 * i + n / 4
  let x : W32 := BitVec.ofNat 32 (putField (tget 0 m.acc w).toNat (8 * (n % 4)) 8 b.toNat)
  { m with acc := if x = 0 then tdel m.acc w else tput m.acc w x, accPz := if pz then sinsert m.accPz w else m.accPz }
/-- A tile element loaded into a slot, with the poison of its granules. -/
def MSlot.fillWords (m : MSlot) (i : Nat) (bs : List Byte) (pz : Nat → Bool) : MSlot :=
  bs.zipIdx.foldl (fun m p => m.fillByte i p.2 p.1 (pz (p.2 / 16))) { m with accPz := m.accPz.filter (fun w => w / 32 != i) }
/-- Byte `n` of a tile's element `i` is written at its key: a poisoned word poisons its granule, whose poison is that of the tile's words
once every byte of it is written (R314, R458); `left` holds the bytes still to be written. -/
def State.spillByte (s : State) (m : MSlot) (id key i n : Nat) (left : List Nat) : State :=
  let g := n / 16
  let bad := (List.range 4).any (fun j => tilePz m i (4 * g + j))
  let s := s.storeAt id (key + n) [(tileWords m i).getD n 0]
  if tilePz m i (n / 4) || (bad && !left.any (fun x => x / 16 == g)) then s.poisonGranules [key / 16 + g]
  else if !left.any (fun x => x / 16 == g) then { s with poison := s.poison.filter (· != key / 16 + g) }
  else s

/-- The bytes of a lane, from its elements in order. -/
def Access.laneBytes (a : Access) (l : Nat) : List Byte := (a.elems.filter (fun el => el.lane == l)).flatMap (·.result)
def Access.lanePz (a : Access) (l : Nat) : Bool := a.elems.any (fun el => el.lane == l && el.pz)
/-- The physical key of an element in memory. -/
def Elem.placed (el : Elem) : Nat :=
  match el.loc with
  | .mem key => key
  | _ => 0
/-- The record of a reduction whose lanes on poisoned bytes were discarded (R334, R407): one for the instruction, at its first such lane.
(DEDUCED, notes/assumptions 34; unsafe.) -/
def State.redRecord (s : State) (a : Access) : State :=
  match a.kind.op, a.elems.find? (·.pz) with
  | .red _, some el =>
    let who := if kindOf a.group = .lattice then a.entry else a.group % 32
    s.record (s.ringOf a.group) 4 { s.groupRec a.group with
      clause := a.clause, pc := a.pc
      cause := 4 * 2 ^ 28 + who * 2 ^ 25 + (if (s.group a.group).handler then 2 ^ 24 else 0) + (if a.local_ then 0 else 2 ^ 16) + 5
      info := 0, fmask := (maskOf a.lanePz).toNat, addr := el.off, word := el.placed }
  | _, _ => s

/-- Element `i` of an access performed at a memory key; a tile's element byte by byte (R348). -/
def State.performMem (s : State) (a : Access) (i : Nat) (el : Elem) (key : Nat) : Elem × State :=
  let u := unitOfGroup a.group
  let s := s.noteCaches a el key
  let tile : List Nat := if el.left.isEmpty then List.range 128 else el.left
  match a.kind with
  | .hld | .launch =>
    let t := s.tagElem a key && bitAt el.flags 1
    let (bs, pz, s) := s.readElem a el key
    ({ el with done := true, result := bs, pz := pz, tag := t }, s)
  | .hst =>
    let s := s.storeAt a.id key el.data
    let s := if el.tag && bitAt el.flags 1 && el.n == 16 then { s with tags := sinsert s.tags (key / 16) } else s
    ({ el with done := true }, s.dropOwnLines a el)
  | .mspill p =>
    let (c, s) := s.choose tile.length
    let n := tile.getD c 0
    let left := tile.filter (· != n)
    ({ el with left := left, done := left.isEmpty }, s.spillByte (s.mslot u p) a.id key i n left)
  | .mfill p =>
    let (c, s) := s.choose tile.length
    let n := tile.getD c 0
    let left := tile.filter (· != n)
    let m := s.mslot u p
    let m := if el.left.isEmpty then { m with accPz := m.accPz.filter (fun w => w / 32 != i) } else m
    let s := s.settleDrops a.id key
    ({ el with left := left, done := left.isEmpty }, s.setMslot u p (m.fillByte i n (s.byte (key + n)) (s.poisoned (key + n) 1)))
  | _ =>
    match a.kind.op with
    | .read =>
      let (bs, pz, s) := s.readElem a el key
      ({ el with done := true, result := bs, pz := pz }, s)
    | .write => ({ el with done := true }, (s.storeAt a.id key el.data).dropOwnLines a el)
    | .atom op =>
      let (old, pz, s) := s.atomAt a.id key op el.data
      ({ el with done := true, result := old, pz := pz }, s.dropOwnLines a el)
    | .red op =>
      let (_, pz, s) := s.atomAt a.id key op el.data
      ({ el with done := true, pz := pz }, s.dropOwnLines a el)
    | .other => ({ el with done := true }, s)

/-! ### The end of an access -/

/-- Its value: small loads are extended (R266). -/
def Access.laneValue (a : Access) (l : Nat) : Nat :=
  let x := leNat (a.laneBytes l)
  if a.size < 4 && a.signed then bitsOf 32 (sext (8 * a.size) x) else x

/-- The results of an access that names a slot (R266, R281, R334). -/
def Access.results (a : Access) : List Wr :=
  let n := regsOf a.size
  let mask := maskOf (fun l => a.elems.any (fun el => el.lane == l))
  match a.kind with
  | .hld =>
    wrH a.dst { bits := BitVec.ofNat 128 (leNat (a.laneBytes 0)), valid := a.elems.all (·.tag) } (a.lanePz 0)
  | .store | .mspill _ | .mfill _ | .clean => []
  | _ =>
    if a.scalar then
      if a.dst = 0 ∧ n ≤ 2 then []
      else (List.range n).map (fun j => .s (a.dst + j) (BitVec.ofNat 32 (a.laneValue 0 / 2 ^ (32 * j))) (a.lanePz 0))
    else wrV a.dst n mask a.laneValue (maskOf a.lanePz)

/-- The pending fabric error record of a group takes a failed operation (R378). -/
def State.fabricError (s : State) (a : Access) (addr : Nat) : State :=
  let g := s.group a.group
  s.setGroup a.group { g with pend := some (match g.pend with
    | none => ⟨a.error, a.errChip, 0, addr, a.errAddr⟩
    | some p => { p with count := min (p.count + 1) 4095 }) }

/-- The handle offset of lane 0 of an access, or the chip of a signal (R378). -/
def Access.lane0 (a : Access) : Nat :=
  match a.kind with
  | .fsig _ chip _ _ => chip
  | _ => a.off0

/-- The trap of a fabric error (R378). -/
def fabricTrap (addr addr2 status chip count : Nat) : TrapInfo :=
  { cause := 0x18, src := 6, addr := addr, addr2 := addr2, info := status % 256 * 2 ^ 24 + chip % 4096 * 4096 + count % 4096 }

/-- An access whose elements are all performed ends: with its results (the descriptor of a launch goes to the hub), or with its error at its slot or in the pending record. -/
def State.finish (s : State) (a : Access) : State :=
  if a.error = 0 then
    if a.kind == .launch then ((s.dropAccess a.id).freeHolds a.group).submit a else s.complete a.id a.results
  else
    let g := s.group a.group
    let s := s.setGroup a.group { g with failed := a.errChips.foldl sinsert g.failed }
    let s := { s with accesses := s.accesses.map (fun (b : Access) => match b.kind with
      | .fsig true chip _ _ => if b.group = a.group ∧ a.errChips.contains chip ∧ b.after.contains a.id then { b with error := 0x0B, errChip := chip } else b
      | _ => b) }
    if a.slot.isSome then s.complete a.id [] (some (fabricTrap a.lane0 a.errAddr a.error a.errChip 0))
    else (s.fabricError a a.lane0).complete a.id []

/-- An element is replaced, and the access ends if it was the last. -/
def State.elemDone (s : State) (a : Access) (i : Nat) (el : Elem) : State :=
  let a := { a with elems := a.elems.set i el }
  if a.elems.all (·.done) then ((s.setAccess a).redRecord a).finish a else s.setAccess a

end Sys2Proof.Machine
end

