-- ==== Sys2Proof/Machine/Fabric.lean ====
section
/-! DEFINITION. The Pyrrath fabric (ch. 16): the fabric instructions, packets and routes, the receive side, replies, ports, fabric
time. -/

namespace Sys2Proof.Machine

/-! ### Routes (R362, R368) -/

/-- Where a packet for a chip goes (R362). -/
inductive Route where
  | self
  | port (key : Nat)
  | none
  deriving DecidableEq, Repr
def State.routeTo (s : State) (chip : Nat) : Route :=
  if chip = s.hub.chip then .self
  else
    let e := tget 0 s.hub.route chip
    if bitAt e 15 then .port (e % 16) else .none
def State.port (s : State) (p : Nat) : Port := tget {} s.hub.ports p
def State.setPort (s : State) (p : Nat) (x : Port) : State := { s with hub := { s.hub with ports := tput s.hub.ports p x } }
/-- A virtual channel of a chip's route is paused (R368). -/
def State.routePaused (s : State) (chip vc : Nat) : Bool :=
  match s.routeTo chip with
  | .port p => bitAt (s.port p).pause vc
  | _ => false
/-- A virtual channel of a chip's route is paused, or its port holds traffic (R368). -/
def State.routeHeld (s : State) (chip vc : Nat) : Bool :=
  match s.routeTo chip with
  | .port p => bitAt (s.port p).pause vc || (s.port p).st == 3 || (s.port p).st == 1
  | _ => false

/-! ### The fabric instructions (R373-R378) -/

/-- An element that an access through a handle would send to a remote chip has its route's VC0 paused (R373). -/
def State.fabricPaused (s : State) (k : Nat) (h : HandleReg) (offs : List (Nat × Int)) : Bool :=
  offs.any (fun p =>
    let a := h.base + p.2.toNat
    match (s.walk (s.ctxOf k) h.obj h.gen a false).1 with
    | .ok x => (match s.locOf (s.ctxOf k) x a with
      | .remote c _ => s.routePaused c 0
      | _ => false)
    | .fail _ => false)
/-- The conditions under which a fabric instruction of the group issues (R373), but for the pause of its route. -/
def State.fabricReady (s : State) (k : Nat) : Bool :=
  s.accesses.all (fun a => a.group != k || !(a.kind.inLoads || a.kind.inStores)) &&
    decide ((s.accesses.filter (fun a => a.group == k && match a.kind with | .fabric _ | .fsig .. => true | _ => false)).length < 32)

/-- Each active lane's element (R373); a control core accesses one. -/
def State.fabricOffsets (s : State) (cx : Cx) (xc : BitVec 8) (e : Nat) (scalar : Bool) : List (Nat × Int) :=
  let o : Int := (s.opS64 cx.k cx.e xc).toNat
  if scalar then [(0, o)] else (lanesOf cx.act).map (fun l => (l, o + ((l * e : Nat) : Int)))

/-- A memory form of the fabric instructions. -/
def fabricOp (f : XForm) (op need e : Nat) (scalar : Bool) (data : Nat → List Byte) (cx : Cx) (s : State) : Eff :=
  let offs := s.fabricOffsets cx f.xc e scalar
  if !s.fabricReady cx.k || s.fabricPaused cx.k ((s.sub cx.k cx.e).hreg f.xb.toNat) offs then .wait s 8 cx.op 0
  else
    s.handleAccess cx f.xb.toNat need e e offs (fun h =>
      { Access.start (.fabric op) (objElems h e offs data) with size := e, dst := f.xa.toNat, scalar := scalar }) (s.opS64 cx.k cx.e f.xc).toNat

/-- FST (R374). -/
def execFst (f : XForm) (s : State) : Host.Outcome State Fault Refusal :=
  issue (.fst f) .any (fun cx s =>
    let n := wn (f.mod.getLsbD 0)
    fabricOp f 0 (rW + rF) (4 * n) (cx.ck == .control) (s.atomData cx f.xa n) cx s) s
/-- FLD (R374). -/
def execFld (f : XForm) (s : State) : Host.Outcome State Fault Refusal :=
  issue (.fld f) .slot (fun cx s => fabricOp f 1 (rR + rF) (4 * wn (f.mod.getLsbD 0)) (cx.ck == .control) (fun _ => []) cx s) s
/-- FFADD (R375). -/
def execFfadd (w64 : Bool) (f : XForm) (s : State) : Host.Outcome State Fault Refusal :=
  issue (.ffadd w64 f) .slot (fun cx s =>
    let e := 4 * wn w64
    fabricOp f (if w64 then 17 else 16) (rR + rW + rA + rF) e true (fun _ => leBytes e (s.opN cx.k cx.e f.xd w64)) cx s) s
/-- FRED (R376). -/
def execFred (f : XForm) (s : State) : Host.Outcome State Fault Refusal :=
  issue (.fred f) .any (fun cx s =>
    let op := mf f.mod 2 4
    fabricOp f (32 + op) (rR + rW + rA + rF) (atomSize op) (cx.ck == .control) (s.atomData cx f.xa (atomSrcRegs op)) cx s) s
/-- FFENCE (R378): it issues as R373 has every fabric instruction issue, waits for the group's fabric operations, then delivers a pending
error.
(DEDUCED, notes/assumptions 37; unsafe.) -/
def execFfence (f : XForm) (s : State) : Host.Outcome State Fault Refusal :=
  issue (.ffence f) .any (fun cx s =>
    if !s.fabricReady cx.k || s.fabricBusy cx.k then .wait s 8 cx.op 0
    else
      let g := s.group cx.k
      let s := s.setGroup cx.k { g with pend := none }
      match g.pend with
      | some p => .trap s (fabricTrap p.addr p.addr2 p.status p.chip p.count)
      | none => .ok s [] 1) s

/-- A signal to a chip (R377). -/
def signalOp (f : XForm) (flag : Bool) (cx : Cx) (s : State) : Eff :=
  let chip := (s.opS cx.k cx.e f.xa).toNat
  let v := (s.opS cx.k cx.e f.xb).toNat
  let x := s.opS64 cx.k cx.e f.xc
  let bad (st : Nat) : Eff := .trap s (fabricTrap chip v st chip 0)
  if !s.fabricReady cx.k || (decide (chip < 4096) && s.routeHeld chip 0) then .wait s 8 cx.op 0
  else if 4096 ≤ chip then bad 0x02
  else if 4096 ≤ v then bad 0x08
  else if !(s.context (s.ctxOf cx.k)).fen then bad 0x03
  else
    let after := if flag then s.earlier cx.k (fun a => match a.kind with
        | .fsig _ c _ _ => c == chip
        | .clean => false
        | _ => true) else []
    .ok (s.newAccess cx { Access.start (.fsig flag chip v x) [] with
      accepted := true, after := after, errChip := chip, errAddr := v
      error := if flag && (s.group cx.k).failed.contains chip then 0x0B else 0 }) [] 1

/-- FFENCE_F (R377). -/
def execFfenceF (f : XForm) (s : State) : Host.Outcome State Fault Refusal := issue (.ffenceF f) .any (signalOp f true) s
/-- FSIG (R377). -/
def execFsig (f : XForm) (s : State) : Host.Outcome State Fault Refusal := issue (.fsig f) .any (signalOp f false) s

/-! ### Packets (R366, R367) -/

/-- The step that receives a packet. -/
def recvStep (opcode : Nat) : Option Instr :=
  match opcode with
  | 0x01 => some .store
  | 0x02 => some .load
  | 0x03 => some .atomic
  | 0x04 => some .reduce
  | 0x05 => some .signal
  | 0x06 => some .flag
  | 0x20 => some .ack
  | 0x21 => some .loadr
  | 0x22 => some .atomr
  | 0x23 => some .err
  | 0x40 => some .time
  | 0x41 => some .link
  | _ => none
def packetVc (opcode : Nat) : Nat := if opcode < 0x20 then 0 else if opcode < 0x40 then 1 else 2
/-- The header flit's bits. -/
def headerBits (p : Packet) : Nat :=
  p.addr % 2 ^ 48 * 2 ^ 464 + p.lanes.toNat * 2 ^ 432 + p.value.toNat * 2 ^ 368 + p.tag % 2 ^ 16 * 2 ^ 352 + p.ftid % 2 ^ 16 * 2 ^ 336 +
    p.dst % 4096 * 2 ^ 324 + p.src % 4096 * 2 ^ 312 + p.vsem % 4096 * 2 ^ 300 + p.ndata % 16 * 2 ^ 296 + p.op % 16 * 2 ^ 292 +
    p.esize % 8 * 2 ^ 289 + p.status % 256 * 2 ^ 280 + p.hops % 256 * 2 ^ 272 + p.opcode % 256
/-- Data flits that elements of `n` bytes in some lanes need. -/
def flitsFor (lanes : W32) (n : Nat) : Nat := (n * ((lanesOf lanes).foldl (fun m l => max m (l + 1)) 0) + 63) / 64
/-- Data bytes with elements placed at their lanes. -/
def layData (flits n : Nat) (xs : List (Nat × List Byte)) : List Byte :=
  (List.range (64 * flits)).map (fun i => match xs.find? (fun x => x.1 == i / n) with
    | some x => x.2.getD (i % n) 0
    | none => 0)
/-- Well formed (R370). -/
def packetOk (p : Packet) : Bool :=
  let n := 2 ^ p.esize
  let need := flitsFor p.lanes n
  (recvStep p.opcode).isSome && p.reserved == 0 && decide (p.esize ≤ 4) && p.data.length == 64 * p.ndata && decide (p.ndata ≤ 8) &&
  (match p.opcode with
   | 0x01 | 0x04 => p.ndata == need && decide (1 ≤ need)
   | 0x03 => p.ndata == 0 || p.ndata == need
   | 0x21 | 0x22 => decide (1 ≤ p.ndata)
   | _ => p.ndata == 0) &&
  (p.opcode == 0x21 || p.opcode == 0x22 || (List.range p.data.length).all (fun i => lane p.lanes (i / n) || p.data.getD i 0 == 0))

/-- A packet leaves by a port (R368): it goes at once where its channel is not paused, the port is up and nothing of the channel is held
before it; a port that is training or retraining, or a paused channel, holds it; a port that is down loses it. -/
def State.putOnPort (s : State) (k : Nat) (p : Packet) : State :=
  let x := s.port k
  let vc := packetVc p.opcode
  if x.st = 0 ∨ x.st = 4 then s
  else if x.st ≠ 2 || bitAt x.pause vc || s.held.any (fun q => q.1 == k && packetVc q.2.opcode == vc) then { s with held := s.held ++ [(k, p)] }
  else { s with sentPackets := s.sentPackets ++ [(vc, p)] }
/-- What a port holds goes, channel by channel, once it may (R368). -/
def State.flushPort (s : State) (k : Nat) : State :=
  (s.held.filter (fun q => q.1 == k)).foldl (fun s q => s.putOnPort k q.2) { s with held := s.held.filter (fun q => q.1 != k) }
/-- A packet leaves: to the chip's own receive side, or to the port of its route; none where there is no route. -/
def State.transmit (s : State) (p : Packet) : Option State :=
  match s.routeTo p.dst with
  | .self =>
    let (n, s) := s.fresh
    some (match recvStep p.opcode with
      | some i => s.post i { pkt := some p, a := 64, b := n }
      | none => s)
  | .port k => some (s.putOnPort k p)
  | .none => none

/-! ### Sending an access's elements (R366, R369) -/

/-- An element is in flight. -/
def State.inFlight (s : State) (id i : Nat) : Bool := s.outstanding.any (fun o => o.access == id && o.elems.contains i)

/-- Bytes that an element's data takes in a packet; a compare and swap carries both values. -/
def Elem.stride (el : Elem) : Nat := if el.data.isEmpty then min el.n 16 else if 16 < el.data.length then 16 else el.data.length
/-- Elements `i` and `i` + 1 are contiguous: those of neighbouring lanes on one chip, not strongly ordered (R366, R267). -/
def Access.joins (a : Access) (i : Nat) : Bool :=
  match a.elems[i]?, a.elems[i + 1]? with
  | some x, some y =>
    match x.loc, y.loc with
    | .remote c p, .remote c' p' =>
      c == c' && y.lane == x.lane + 1 && p' == p + x.n && decide (x.n ≤ 16) && x.stride == x.n && x.flags % 2 == 0 && y.flags % 2 == 0
    | _, _ => false
  | _, _ => false
/-- The first element of the maximal run of contiguous elements that element `i` lies in (R366). -/
def Access.runStart (a : Access) : Nat → Nat
  | 0 => 0
  | i + 1 => if a.joins i then a.runStart i else i + 1
/-- The maximal run of contiguous elements from element `i` upward (R366). -/
def Access.run (a : Access) (i : Nat) : Nat → List Nat
  | 0 => [i]
  | n + 1 => if a.joins i then i :: a.run (i + 1) n else [i]

/-- The request that carries some elements of an access. -/
def State.request_ (s : State) (a : Access) (els : List Elem) (tag : Nat) : Packet :=
  let first := els.headD { lane := 0, off := 0, obj := 0, n := 4 }
  let (chip, addr) := match first.loc with
    | .remote c p => (c, p)
    | _ => (0, 0)
  let tile := 16 < first.n
  let n := first.stride
  let store : Nat := match a.kind with
    | .mspill _ => 1
    | .mfill _ => 2
    | k => match k.op with
      | .read => 2
      | .atom _ => 3
      | .red _ => 4
      | _ => 1
  let op := match a.kind.op with
    | .atom o => o
    | .red o => o
    | _ => 0
  let pieces : List (Nat × List Byte) :=
    if tile then (List.range (first.n / 16)).map (fun j => (j, (first.data.drop (16 * j)).take 16)) else els.map (fun el => (el.lane, el.data))
  let lanes := maskOf (fun l => pieces.any (fun p => p.1 == l))
  let one := store = 3 && a.scalar && decide (first.data.length ≤ 8)
  let flits := if store = 2 || one then 0 else flitsFor lanes n
  { opcode := store, addr := bitsOf 48 (if tile then (addr : Int) else (addr : Int) - ((first.lane * first.n : Nat) : Int)), lanes := lanes
    value := if one then BitVec.ofNat 64 (leNat first.data) else 0
    tag := tag, ftid := (s.context a.ctx).ftid, dst := chip, src := s.hub.chip, vsem := 0, ndata := flits, op := op, esize := Nat.log2 n
    status := 0, hops := 32, reserved := 0, data := layData flits n pieces }

/-- The response limit in nanoseconds (R361). -/
def State.responseLimit (s : State) : Nat := (if s.hub.rlim = 0 then 2000 else s.hub.rlim) * 1000

/-- An access takes an error for some of its elements. -/
def Access.failElems (a : Access) (is : List Nat) (status chip addr : Nat) : Access :=
  { a with
    elems := is.foldl (fun es i => match es[i]? with
      | some el => es.set i { el with done := true }
      | none => es) a.elems
    error := if a.error = 0 then status else a.error
    errChips := sinsert a.errChips chip
    errChip := if a.error = 0 then chip else a.errChip
    errAddr := if a.error = 0 then addr else a.errAddr }
/-- The access is set, and ends if every element is done. -/
def State.settleAccess (s : State) (a : Access) : State :=
  if a.elems.all (·.done) then (s.setAccess a).finish a else s.setAccess a

/-- A request is sent for some elements: it waits for a reply until the response limit; without a route, through a lost port or from a
context that sends nothing it completes with an error at once. -/
def State.sendRequest (s : State) (a : Access) (is : List Nat) (req : Nat → Packet) (addr2 : Nat) : State :=
  let tag := (firstBelow (fun t => !s.outstanding.any (fun o => o.tag == t)) 65536).getD 0
  let p := req tag
  let fail (s : State) (st : Nat) : State := s.settleAccess (a.failElems is st p.dst addr2)
  if !(s.context a.ctx).fen then fail s 0x03
  else
    let lost := match s.routeTo p.dst with
      | .port k => (s.port k).st == 0 || (s.port k).st == 4
      | _ => false
    if lost then fail s 0x0A
    else
      match s.transmit p with
      | none => fail s 0x02
      | some s =>
        let key := match s.routeTo p.dst with
          | .port k => k
          | _ => 64
        ({ s with outstanding := s.outstanding ++ [(⟨tag, a.id, is, p, s.time, s.responseLimit, key⟩ : Outstanding)] }.setAccess a).post
          .responseLimitExpire { a := tag }

/-- The elements of the maximal run that element `i` lies in leave in a packet (R366). -/
def State.sendRun (s : State) (a : Access) (i : Nat) : State :=
  let is := (a.run (a.runStart i) 31).filter (fun j => !s.inFlight a.id j && match a.elems[j]? with | some el => !el.done | none => false)
  let els := is.filterMap (fun j => a.elems[j]?)
  let els := match a.kind with
    | .mspill p => els.map (fun el => { el with data := tileWords (s.mslot (unitOfGroup a.group) p) i })
    | _ => els
  let p := s.request_ a els 0
  s.sendRequest a is (fun tag => { p with tag := tag }) p.addr
/-- A SIGNAL or FLAG leaves (R377); a withheld FLAG ends with its error. -/
def State.sendSignal (s : State) (a : Access) (flag : Bool) (chip vsem : Nat) (x : W64) : State :=
  if a.error ≠ 0 then s.finish a
  else s.sendRequest { a with sent := true } [] (fun tag =>
    { opcode := if flag then 0x06 else 0x05, addr := 0, lanes := 0, value := x, tag := tag, ftid := (s.context a.ctx).ftid, dst := chip
      src := s.hub.chip, vsem := vsem, ndata := 0, op := 0, esize := 0, status := 0, hops := 32, reserved := 0, data := [] }) vsem

/-! ### Receive (R369, R370) -/

/-- The reply to a request. -/
def State.replyTo (s : State) (p : Packet) (opcode status : Nat) (lanes : W32) (data : List Byte) : State :=
  let r : Packet := { opcode := opcode, addr := 0, lanes := lanes, value := 0, tag := p.tag, ftid := p.ftid, dst := p.src, src := s.hub.chip
                      vsem := 0, ndata := data.length / 64, op := 0, esize := if data.isEmpty then 0 else p.esize, status := status
                      hops := 32, reserved := 0, data := data }
  (s.transmit r).getD s
def expectsReply (opcode : Nat) : Bool := decide (1 ≤ opcode) && decide (opcode ≤ 6)

/-- A malformed packet at a port (R370); `reserved` holds [271:8] below and [288] above. -/
def State.discardPacket (s : State) (port : Nat) (p : Packet) : State :=
  let s := if port < 64 then
      let x := s.port port
      s.setPort port { x with
        discards := min (x.discards + 1) 0xFFFF, cap := true, header := if x.cap then x.header else headerBits p + p.reserved % 2 ^ 264 * 2 ^ 8 + p.reserved / 2 ^ 264 % 2 * 2 ^ 288 }
    else s
  if (recvStep p.opcode).isSome && expectsReply p.opcode then s.replyTo p 0x23 0x01 0 [] else s

/-- The context that a packet's ftid names (R364, R369 step 3). -/
def State.contextOf (s : State) (ftid : Nat) : Option Nat :=
  (s.contexts.find? (fun c => c.2.fen && c.2.bound && c.2.ftid == ftid)).map (·.1)
/-- The import window `w` lets `n` bytes at `a` be reached with some of its rights bits (R365). -/
def State.windowHas (s : State) (w a n need : Nat) : Bool :=
  let base := field w 80 48
  let len := field w 56 24 * 65536
  bitAt w 55 && base % 65536 == 0 && w % 2 ^ 52 == 0 && decide (0 < len) && (s.inHbm base len || inHubSpm base len) &&
    (field w 52 3 &&& need) == need && decide (base ≤ a) && decide (a + n ≤ base + len)
/-- The element size of a request's operation. -/
def packetElem (p : Packet) : Nat := if p.opcode = 3 || p.opcode = 4 then atomSize p.op else 2 ^ p.esize
/-- The physical address of a lane's element. -/
def packetAt (p : Packet) (l : Nat) : Nat := (p.addr + packetElem p * l) % 2 ^ 48
/-- Steps 3 to 8 of R369: the first failing step's status, or the context. -/
def State.judgePacket (s : State) (p : Packet) : Except Nat Nat :=
  match s.contextOf p.ftid with
  | none => .error 0x03
  | some c =>
    let x := s.context c
    let e := packetElem p
    let need := if p.opcode = 2 then 1 else if p.opcode = 1 then 2 else 6
    let ls := lanesOf p.lanes
    let inWin := ls.all (fun l => x.windows.any (fun w => s.windowHas w.2 (packetAt p l) e need))
    if p.opcode ≤ 4 then
      if !inWin then .error 0x04
      else if p.opcode = 4 && !ls.all (fun l => inHubSpm (packetAt p l) e) then .error 0x05
      else if p.addr % e ≠ 0 then .error 0x06
      else if 3 ≤ p.opcode && ls.any (fun l => s.poisoned (packetAt p l) e) then .error 0x07
      else .ok c
    else if decide (p.vsem < x.fsemLo) || decide (x.fsemHi < p.vsem) || (s.semOf c p.vsem).isNone then .error 0x08
    else .ok c

/-- An earlier packet of the same chip on this virtual channel has not been dealt with (R368). -/
def State.packetWaits (s : State) (p : Packet) (seq : Nat) : Bool :=
  s.agenda.any (fun ev => match ev.arg.pkt with
    | some q => q.src == p.src && packetVc q.opcode == packetVc p.opcode && decide (ev.arg.b < seq) && (recvStep q.opcode) == some ev.step
    | none => false)

/-- A packet for another chip goes on, or fails with status 0x02 (R369 step 2). -/
def State.forward (s : State) (p : Packet) : State :=
  let back (s : State) : State := if expectsReply p.opcode then s.replyTo p 0x23 0x02 0 [] else s
  if p.hops = 0 then back s else (s.transmit { p with hops := p.hops - 1 }).getD (back s)

/-- The pieces a request is performed in: its lanes, those of a 16-byte load or store by halves (R348). -/
def packetPieces (p : Packet) : List (Nat × Nat) :=
  (lanesOf p.lanes).flatMap (fun l => if p.esize = 4 ∧ p.opcode ≤ 2 then [(l, 0), (l, 8)] else [(l, 0)])
/-- One piece of a request is performed at the target: its data, if it returns any, and whether they are poisoned. -/
def State.packetLane (s : State) (p : Packet) (l h : Nat) : List Byte × Bool × State :=
  let a := packetAt p l + h
  let w := 2 ^ p.esize
  let n := if p.opcode ≤ 2 then min w 8 else w
  let d := if p.ndata = 0 then leBytes 8 p.value.toNat else (p.data.drop (w * l + h)).take n
  match p.opcode with
  | 1 => ([], false, s.writeAt a d)
  | 2 => (s.bytes a n, s.poisoned a n, s)
  | 3 => s.atomAt s.nextId a p.op d
  | _ => let (_, _, s) := s.atomAt s.nextId a p.op d; ([], false, s)

/-- A request is received. Its lanes are performed one at a time; `c` counts those performed, `data` holds the reply so far, `d` its
poisoned lanes. -/
def State.receive (s : State) : State :=
  match s.arg.pkt, recvStep ((s.arg.pkt.map (·.opcode)).getD 0) with
  | some p, some i =>
    if s.packetWaits p s.arg.b then s.again i
    else if !packetOk p then s.discardPacket s.arg.a p
    else if p.dst ≠ s.hub.chip then s.forward p
    else
      let ls := packetPieces p
      let n := packetElem p
      let judged := if s.arg.c = 0 then s.judgePacket p else .ok 0
      match judged with
      | .error st => s.replyTo p 0x23 st 0 []
      | .ok c =>
        if 5 ≤ p.opcode then
          match s.semOf c p.vsem with
          | some v => (s.semAdd v p.value.toNat).replyTo p 0x20 0 0 []
          | none => s.replyTo p 0x23 0x08 0 []
        else
          match ls[s.arg.c]? with
          | none => s.replyTo p (if p.opcode = 2 then 0x21 else if p.opcode = 3 then 0x22 else 0x20) 0 0 []
          | some (l, h) =>
            let arg := s.arg
            let (bs, pz, s) := s.packetLane p l h
            let data := if arg.c = 0 then layData (flitsFor p.lanes n) n [] else arg.data
            let data := if bs.isEmpty then data else data.take (n * l + h) ++ bs ++ data.drop (n * l + h + bs.length)
            let bad := if pz && !bitAt arg.d l then arg.d + 2 ^ l else arg.d
            if arg.c + 1 < ls.length then s.post i { arg with c := arg.c + 1, data := data, d := bad }
            else if p.opcode = 2 then s.replyTo p 0x21 0 (BitVec.ofNat 32 bad) data
            else if p.opcode = 3 then s.replyTo { p with esize := Nat.log2 n } 0x22 0 (BitVec.ofNat 32 bad) data
            else s.replyTo p 0x20 0 0 []
  | some p, none => s.discardPacket s.arg.a p
  | none, _ => s

def execStore (s : State) : Host.Outcome State Fault Refusal := event State.receive s
def execLoad (s : State) : Host.Outcome State Fault Refusal := event (fun s => s.receive) s
def execAtomic (s : State) : Host.Outcome State Fault Refusal := event (fun s => State.receive s) s
def execReduce (s : State) : Host.Outcome State Fault Refusal := event (fun t => t.receive) s
def execSignal (s : State) : Host.Outcome State Fault Refusal := event (fun t => State.receive t) s
def execFlag (s : State) : Host.Outcome State Fault Refusal := event (fun r => r.receive) s

/-! ### Replies (R367, R369) -/

/-- The elements of an answered request take their data. -/
def Access.takeReply (a : Access) (is : List Nat) (p : Packet) (tile : Bool) : Access :=
  { a with elems := is.foldl (fun es i => match es[i]? with
    | some el =>
      let bs := if tile then p.data.take el.n else (p.data.drop (el.n * el.lane)).take el.n
      let bs := bs.zipIdx.map (fun q => ((el.own[q.2]?).join).getD q.1)
      es.set i { el with done := true, result := bs, pz := !tile && lane p.lanes el.lane, tag := false }
    | none => es) a.elems }

/-- A reply: the operation it answers completes with its data or its error (R374, R375, R378). -/
def State.reply (s : State) : State :=
  match s.arg.pkt with
  | none => s
  | some p =>
    if s.packetWaits p s.arg.b then (match recvStep p.opcode with
      | some i => s.again i
      | none => s)
    else if !packetOk p then s.discardPacket s.arg.a p
    else if p.dst ≠ s.hub.chip then s.forward p
    else
      match s.outstanding.find? (fun o => o.tag == p.tag && o.req.dst == p.src) with
      | none => s
      | some o =>
        let s := { s with outstanding := s.outstanding.filter (fun q => q.tag != o.tag) }
        match s.access o.access with
        | none => s
        | some a =>
          if p.status ≠ 0 then s.settleAccess (a.failElems o.elems p.status o.req.dst (if 5 ≤ o.req.opcode then o.req.vsem else o.req.addr))
          else
            match a.kind with
            | .mfill q =>
              let u := unitOfGroup a.group
              let s := o.elems.foldl (fun s i => s.setMslot u q ((s.mslot u q).fillWords i (p.data.take 128) (lane p.lanes))) s
              s.settleAccess (a.takeReply o.elems p true)
            | _ => s.settleAccess (a.takeReply o.elems p false)

def execAck (s : State) : Host.Outcome State Fault Refusal := event State.reply s
def execLoadr (s : State) : Host.Outcome State Fault Refusal := event (fun s => s.reply) s
def execAtomr (s : State) : Host.Outcome State Fault Refusal := event (fun s => State.reply s) s
def execErr (s : State) : Host.Outcome State Fault Refusal := event (fun t => t.reply) s

/-- Operations outstanding complete with a status of the originator (R369). -/
def State.failOutstanding (s : State) (p : Outstanding → Bool) (status : Nat) : State :=
  let gone := s.outstanding.filter p
  gone.foldl (fun s o => match s.access o.access with
    | some a => s.settleAccess (a.failElems o.elems status o.req.dst (if 5 ≤ o.req.opcode then o.req.vsem else o.req.addr))
    | none => s) { s with outstanding := s.outstanding.filter (fun o => !p o) }

/-- RESPONSE_LIMIT_EXPIRE (R369). -/
def State.responseExpire (s : State) : State :=
  let mine (o : Outstanding) : Bool := o.tag == s.arg.a
  match s.outstanding.find? mine with
  | none => s
  | some o => if o.sent + o.limit ≤ s.time then s.failOutstanding mine 0x09 else s.again .responseLimitExpire
def execResponseLimitExpire (s : State) : Host.Outcome State Fault Refusal := event State.responseExpire s

/-! ### Ports (R363, R368) -/

/-- The time exchange runs: its timer is there. -/
def State.startTimer (s : State) : State := if s.agenda.any (fun ev => ev.step == .timeExchangeTimer) then s else s.post .timeExchangeTimer
/-- A chip without a port that is up has lost every path to the grandmaster (R371). -/
def State.watchPaths (s : State) : State :=
  if s.hub.ports.any (fun q => q.2.st == 2) then s else s.postOnce .grandmasterPathLoss { c := s.time }
/-- A port goes down: what was outstanding through it completes with status 0x0A, what it held is lost (R368). -/
def State.lowerPort (s : State) (p : Nat) : State :=
  ((({ s with held := s.held.filter (fun q => q.1 != p) } : State).setPort p { s.port p with st := 0 }).failOutstanding (fun o => o.port == p) 0x0A).watchPaths
/-- REPLAY_REQUEST: counted; after 16 within 1 ms with no progress the port retrains. -/
def State.replayRequest (s : State) : State :=
  let p := s.arg.a
  let x := s.port p
  let asks := x.asks.filter (fun t => decide (s.time ≤ t + 1000000)) ++ [s.time]
  let s := s.setPort p { x with replays := min (x.replays + 1) 0xFFFF, asks := asks }
  if 16 ≤ asks.length then s.postOnce .portRetrain { a := p } else s
def execReplayRequest (s : State) : Host.Outcome State Fault Refusal := event State.replayRequest s
/-- VC_PAUSE: the peer pauses or resumes virtual channel `b`; a resumed channel sends what was held. -/
def execVcPause (s : State) : Host.Outcome State Fault Refusal :=
  event (fun s =>
    let p := s.arg.a
    let x := s.port p
    (s.setPort p { x with pause := putField x.pause (s.arg.b % 4) 1 (if s.arg.flag then 1 else 0) }).flushPort p) s
/-- PORT_RETRAIN: traffic is held; the port goes down unless it is up in 10 ms, and at once while its link firmware is replaced (R452). -/
def execPortRetrain (s : State) : Host.Outcome State Fault Refusal :=
  event (fun s =>
    let p := s.arg.a
    let x := s.port p
    if x.st ≠ 2 then s
    else if !bitAt s.boot.linkRun (p / 8) then s.lowerPort p
    else (s.setPort p { x with st := 3, asks := [] }).post .portDown { a := p, c := s.time }) s
/-- PORT_DOWN: 10 ms after retraining began. -/
def State.portDown (s : State) : State :=
  let p := s.arg.a
  let x := s.port p
  if x.st ≠ 3 then s
  else if s.time < s.arg.c + 10000000 then s.again .portDown
  else s.lowerPort p
def execPortDown (s : State) : Host.Outcome State Fault Refusal := event State.portDown s
/-- PORT_UP: training ends; the peer's chip `b` and port `c` are learnt, and what was held goes. -/
def execPortUp (s : State) : Host.Outcome State Fault Refusal :=
  event (fun s =>
    let p := s.arg.a
    let x := s.port p
    if x.st = 1 || x.st = 3 then
      ((s.setPort p { x with st := 2, peer := s.arg.b % 4096, pport := s.arg.c % 8, asks := [] }).flushPort p).startTimer
    else s) s

/-! ### Fabric time (R371) -/

/-- A packet of virtual channel 2 from this chip to its peer at a port. -/
def State.linkPacket (s : State) (opcode : Nat) (x : Port) : Packet :=
  { opcode := opcode, addr := 0, lanes := 0, value := 0, tag := 0, ftid := 0, dst := x.peer, src := s.hub.chip, vsem := 0, ndata := 0, op := 0
    esize := 0, status := 0, hops := 32, reserved := 0, data := [] }
/-- TIME_EXCHANGE_TIMER: every 10 µs a TIME packet leaves by each port that is up. A chip that has heard no lower-numbered one may take
itself for the grandmaster, its own count being the fabric's then; one that has heard one runs free until it locks again. With `ten` 0
nothing is sent and sync reads 0.
(DEDUCED, notes/assumptions 38; unsafe.) -/
def State.timeExchange (s : State) : State :=
  if s.time < s.arg.c then s.again .timeExchangeTimer
  else
    let s : State :=
      if !s.hub.ten then { s with hub := { s.hub with sync := false, gm := false, heard := false } }
      else
        let s := (s.hub.ports.filter (fun (p : Nat × Port) => p.2.st == 2)).foldl (fun s p => s.putOnPort p.1 (s.linkPacket 0x40 p.2)) s
        if s.hub.sync || s.hub.heard then s
        else
          let (b, s) := s.coin
          if b then { s with hub := { s.hub with sync := true, gm := true, locked := true } } else s
    s.post .timeExchangeTimer { c := s.time + 10000 }
def execTimeExchangeTimer (s : State) : Host.Outcome State Fault Refusal := event State.timeExchange s
/-- TIME: from a lower-numbered chip it locks the count. The first lock sets the count once, to a value of the grandmaster's; later locks
and changes are of rate alone, so that the count never decreases (R371).
(DEDUCED, notes/assumptions 38; unsafe.) -/
def State.timePacket (s : State) : State :=
  match s.arg.pkt with
  | none => s
  | some p =>
    if !packetOk p then s.discardPacket s.arg.a p
    else
      let s := if s.arg.a < 64 then s.setPort s.arg.a { s.port s.arg.a with asks := [] } else s
      if s.hub.ten && decide (p.src < s.hub.chip) then
        let s := { s with hub := { s.hub with heard := true } }
        if s.hub.sync && !s.hub.gm then s
        else if s.hub.locked then { s with hub := { s.hub with sync := true, gm := false } }
        else
          let (t, s) := s.freeWord
          { s with time := t, hub := { s.hub with sync := true, gm := false, locked := true } }
      else s
def execTime (s : State) : Host.Outcome State Fault Refusal := event State.timePacket s
/-- LINK: the peer's chip number is learnt. -/
def execLink (s : State) : Host.Outcome State Fault Refusal :=
  event (fun s => match s.arg.pkt with
    | none => s
    | some p =>
      if !packetOk p then s.discardPacket s.arg.a p
      else if s.arg.a < 64 then s.setPort s.arg.a { s.port s.arg.a with peer := p.src % 4096, asks := [] } else s) s
/-- GRANDMASTER_PATH_LOSS: 1 ms without a path. -/
def State.pathLoss (s : State) : State :=
  if s.hub.gm || s.hub.ports.any (fun q => q.2.st == 2) then s
  else if s.time < s.arg.c + 1000000 then s.again .grandmasterPathLoss
  else { s with hub := { s.hub with sync := false } }
def execGrandmasterPathLoss (s : State) : Host.Outcome State Fault Refusal := event State.pathLoss s

end Sys2Proof.Machine
end

