-- ==== Sys2Proof/Machine/Sha.lean ====
section
/-! DEFINITION. SHA-384, which the key slots and image signatures name (01 R27, R28; notes/assumptions 9). Its constants are computed from the
primes that define them, and its two interlocked recurrences run on the histories of their values. -/

namespace Sys2Proof.Machine

/-- The first `n` bits, from the top, of the largest `x` whose `e`-th power does not pass `y`; `x` holds what is settled already. -/
def rootBits (e y : Nat) : Nat → Nat → Nat
  | 0, x => x
  | n + 1, x => rootBits e y n (if (x + 2 ^ n) ^ e ≤ y then x + 2 ^ n else x)
/-- The first 64 bits of the fractional part of the `e`-th root of `p`. -/
def rootFraction (e p : Nat) : W64 := BitVec.ofNat 64 (rootBits e (p * 2 ^ (64 * e)) 70 0)
/-- The primes below 410, of which there are eighty. -/
def shaPrimes : List Nat := (List.range 410).filter (fun n => decide (2 ≤ n) && (List.range n).all (fun d => decide (d < 2) || n % d != 0))

/-- A word turned right by three amounts, the results summed without carry; the last amount may shift instead. -/
def mixWord (x : W64) (i j : Nat) (last : W64) : W64 := (x.rotateRight i ^^^ x.rotateRight j) ^^^ last
/-- The expanded message of a block, its latest word first. -/
def expandBlock (m : List W64) : List W64 :=
  (List.range 64).foldl (fun w _ =>
    let far := w.getD 14 0
    let near := w.getD 1 0
    (w.getD 15 0 + mixWord far 1 8 (far >>> 7) + (w.getD 6 0 + mixWord near 19 61 (near >>> 6))) :: w) m.reverse

/-- A round on the last four values of each recurrence, latest first: `x` is the round's constant and message word. -/
def shaRound (r : List W64 × List W64) (x : W64) : List W64 × List W64 :=
  match r with
  | ([a, b, c, d], [e, f, g, h]) =>
    let t := x + h + mixWord e 14 18 (e.rotateRight 41) + (g ^^^ (e &&& (f ^^^ g)))
    ([t + mixWord a 28 34 (a.rotateRight 39) + ((a &&& b) ||| (c &&& (a ||| b))), a, b, c], [d + t, e, f, g])
  | r => r
/-- A block of sixteen words is taken in.
(PRESUMED, notes/assumptions 9; unsafe.) -/
def shaBlock (h m : List W64) : List W64 :=
  let xs := (shaPrimes.zip (expandBlock m).reverse).map (fun p => rootFraction 3 p.1 + p.2)
  let r := xs.foldl shaRound (h.take 4, h.drop 4)
  List.zipWith (· + ·) h (r.1 ++ r.2)

/-- The padded message: a one bit, zeros, and the length in bits in sixteen bytes, highest first. -/
def shaPad (bs : List Byte) : List Byte :=
  bs ++ 0x80 :: List.replicate ((111 + 128 - bs.length % 128) % 128) 0 ++ (leBytes 16 (8 * bs.length)).reverse
/-- Word `i` of a message, its highest byte first. -/
def shaWord (bs : List Byte) (i : Nat) : W64 := BitVec.ofNat 64 (leNat ((bs.drop (8 * i)).take 8).reverse)
/-- The 48 bytes of the digest. -/
def sha384 (bs : List Byte) : List Byte :=
  let p := shaPad bs
  let block (i : Nat) : List W64 := (List.range 16).map (fun j => shaWord p (16 * i + j))
  let h := (List.range (p.length / 128)).foldl (fun h i => shaBlock h (block i)) ((shaPrimes.drop 8).take 8 |>.map (rootFraction 2))
  (h.take 6).flatMap (fun x => (leBytes 8 x.toNat).reverse)

end Sys2Proof.Machine
end

