-- ==== Sys2Proof/Machine/Registers.lean ====
section
/-! DEFINITION. The device's registers (00 R5, R6): where each lies (01 R20, R23), what a read returns, and what a store sets. -/

namespace Sys2Proof.Machine

/-- A register or table row of the device. -/
inductive Reg where
  | identity | generation
  | context (c : Nat)
  | ring (c : Nat)
  | mailbox
  | payload
  | queue (q : Nat)
  | inbox (q : Nat)
  | place (c : Nat)
  | fabContext (c : Nat)
  | fabStatus | fabControl | scheduler
  | window (c w : Nat)
  | isolation | pool | heartbeat
  | subst (i : Nat)
  | power (p : Nat)
  | interrupt (v : Nat)
  | route (n : Nat)
  | doorbell (q : Nat)
  | capability (die : Nat)
  | start (c g : Nat)
  | trapVector (c : Nat)
  | port (p : Nat)
  | portCapture (p : Nat)
  | portHeader (p : Nat)
  | sem (n : Nat)
  | flash (o : Nat)
  | none
  deriving DecidableEq, Repr

/-- The register at hub offset `h`, and the byte within it; none at a reserved offset, the word that R38 reserves among them (R25). -/
def hubReg (h : Nat) : Reg × Nat :=
  let row (base size count : Nat) (f : Nat → Reg) : Option (Reg × Nat) :=
    if base ≤ h ∧ h < base + size * count then some (f ((h - base) / size), (h - base) % size) else Option.none
  ([row 0x100 8 1 (fun _ => .identity), row 0x108 4 1 (fun _ => .generation), row 0x2000 64 64 .context, row 0x3000 32 64 .ring,
    row 0x3800 32 1 (fun _ => .ring 64), row 0x4000 0x800 1 (fun _ => .mailbox), row 0x4800 0x800 1 (fun _ => .payload), row 0x10000 64 256 .queue,
    row 0x20000 512 256 .inbox, row 0x40000 32 64 .place, row 0x50000 16 64 .fabContext, row 0x50800 8 1 (fun _ => .fabStatus),
    row 0x50808 8 1 (fun _ => .fabControl), row 0x50C00 4 1 (fun _ => .scheduler), row 0x51000 16 512 (fun i => .window (i / 8) (i % 8)),
    row 0x58000 4 1 (fun _ => .isolation), row 0x59000 32 1 (fun _ => .pool), row 0x5A000 4 1 (fun _ => .heartbeat), row 0x5B000 32 64 .subst,
    row 0x5C000 8 32 .power, row 0x5C100 8 4 (fun i => .power (32 + i)), row 0x5D004 4 511 (fun i => .interrupt (i + 1)), row 0x60000 2 4096 .route,
    row 0x100000 0x1000 256 .doorbell].findSome? id).getD (.none, 0)
/-- The register at offset `h` of a chiplet's window; `die` is 16·kind + index. -/
def dieReg (die h : Nat) : Reg × Nat :=
  if h < 32 then (.capability die, h)
  else if die = 48 then
    if 0x200 ≤ h ∧ h < 0x240 then (.trapVector ((h - 0x200) / 8), h % 8)
    else if 0x400 ≤ h ∧ h < 0x800 then (.start ((h - 0x400) / 128) (h / 32 % 4), h % 32)
    else (.none, 0)
  else if die / 16 = 4 ∧ h < 0x8000 then
    let p := 8 * (die % 16) + h / 0x1000
    let o := h % 0x1000
    if o < 8 then (.port p, o) else if o < 16 then (.portCapture p, o - 8) else if 0x40 ≤ o ∧ o < 0x80 then (.portHeader p, o - 0x40) else (.none, 0)
  else (.none, 0)
/-- The register at a physical address of the device rows, and the byte within it. -/
def regAt (pa : Nat) : Reg × Nat :=
  if 2 ^ 42 ≤ pa then (.flash (pa - 2 ^ 42), 0)
  else if 3 * 2 ^ 40 ≤ pa then (.sem ((pa - 3 * 2 ^ 40) / 8), pa % 8)
  else
    let d := (pa - 2 ^ 41) / 2 ^ 24
    let h := (pa - 2 ^ 41) % 2 ^ 24
    if d = 0 then hubReg h else dieReg d h

/-- The 32 bytes that a die presents as its capability table (R19), before self-test: of manufacture and straps, whatever they say. -/
def rawCapability (die : Nat) : Nat := leNat ((List.range 32).map (Config.fixedByte die))
/-- A chiplet's table suits the place it answers from (R21), the overlap of mailbox versions apart: version, length, kind, index, reserved
fields, and the class that its kind is assigned. -/
def capabilityOk (die : Nat) : Bool :=
  let x := rawCapability die
  field x 0 8 == 1 && field x 8 8 == 1 && field x 16 4 == die / 16 && field x 24 4 == die % 16 && field x 20 4 == 0 && field x 28 4 == 0 &&
    field x 43 5 == 0 && field x 64 16 == 0 && field x 104 24 == 0 &&
    (match dieClass die with
     | some .P => bitAt x 40
     | some .I => bitAt x 41
     | some .N => bitAt x 42
     | none => true)
/-- The capability table as it is read: `bist.fail` counts the units that failed their own self-test, results 0x01, 0x03 and 0x04 (R19,
R31); `win.log2` and `fw.need` are values that the spec allows, and `cores` counts the die's cores.
(DESIGN CHOICE, notes/assumptions 7; safe.) -/
def State.capability (s : State) (die : Nat) : Nat :=
  let bad := (s.boot.tests.filter (fun t => t.1 / 256 == die && (t.2.1 == 1 || t.2.1 == 3 || t.2.1 == 4))).length
  let x := putField (rawCapability die) 80 16 (bad % 65536)
  let x := putField x 96 8 (12 + field x 96 8 % 13)
  let x := putField x 144 16 (field x 144 2)
  match die / 16 with
  | 1 => putField x 48 16 16
  | 2 => putField x 48 16 4
  | 3 => putField x 48 16 8
  | _ => x

/-- The identity register's value (R454). -/
def substImage (e : Nat × Nat × Nat × Bool) : Nat := e.1 * 2 ^ 192 + e.2.1 * 2 ^ 128 + e.2.2.1 * 2 ^ 88 + (if e.2.2.2 then 1 else 0)
def State.identity (s : State) : Nat :=
  if s.hub.subst.any (fun e => e.2.2.2.2) then
    leNat ((sha384 ((List.range 64).flatMap (fun i => leBytes 32 (substImage (tget (0, 0, 0, false) s.hub.subst i))))).take 8)
  else 0

def b2n (b : Bool) (i : Nat) : Nat := if b then 2 ^ i else 0

/-- The bits that a read of a register returns (R5): reserved and write-only fields are zero. -/
def State.regImage (s : State) (r : Reg) : Nat :=
  let h := s.hub
  match r with
  | .identity => s.identity
  | .generation => 0x57070101
  | .context c =>
    let x := s.context c
    x.rtBase * 2 ^ 464 + x.rtCount * 2 ^ 447 + x.otBase * 2 ^ 399 + x.otCount * 2 ^ 374 + x.pasid * 2 ^ 354 + b2n x.tdack 3 + b2n x.bound 1 +
      b2n x.urefused 0
  | .ring c =>
    let x := tget {} s.rings c
    x.base * 2 ^ 208 + x.log2n * 2 ^ 204 + x.ssem * 2 ^ 176 + x.head * 2 ^ 160 + x.tail * 2 ^ 144 + x.lost * 2 ^ 128 + b2n x.en 0
  | .mailbox =>
    let m := h.mailbox
    b2n m.pend 63 + m.len * 2 ^ 32 + m.opcode + m.ssem * 2 ^ 128 + b2n m.signed 193
  | .payload => leNat ((List.range 2048).map (mread h.mailbox.payload))
  | .queue q =>
    let x := s.queue q
    x.base * 2 ^ 448 + x.loc * 2 ^ 438 + x.log2n * 2 ^ 434 + x.ctx * 2 ^ 428 + x.ssem * 2 ^ 408 + x.tail * 2 ^ 384 + x.head * 2 ^ 368 +
      x.pend * 2 ^ 364 + x.st * 2 ^ 357
  | .inbox q => (List.range 8).foldl (fun n i => n + leNat (tget [] (s.queue q).inbox i) * 2 ^ (512 * i)) 0
  | .place c => let x := s.context c; x.lmask * 2 ^ 128 + x.smask * 2 ^ 112 + x.pref * 2 ^ 110
  | .fabContext c => let x := s.context c; x.ftid * 2 ^ 112 + x.fsemHi * 2 ^ 100 + x.fsemLo * 2 ^ 88 + b2n x.fen 0
  | .fabStatus => b2n h.gm 17 + b2n h.sync 16 + h.chip
  | .fabControl => h.rlim * 2 ^ 32 + b2n h.ten 0
  | .scheduler => h.rtime
  | .window c w => tget 0 (s.context c).windows w
  | .isolation => b2n h.isoDone 19 + b2n h.isoBusy 18 + h.isoDie * 2 ^ 8
  | .pool =>
    let p := h.pool
    let used (k : Nat) : Nat := (s.frames.filter (fun f => f.1 / 0x8000 == k)).length + (s.blocks.filter (fun b => match b.2.saving with
      | some (f, _, _) => f / 0x8000 == k
      | Option.none => false)).length
    p.lbase * 2 ^ 208 + p.lcount * 2 ^ 192 + p.sbase * 2 ^ 144 + p.scount * 2 ^ 128 + (p.lcount - used 0) * 2 ^ 112 + (p.scount - used 1) * 2 ^ 96 +
      b2n p.en 0
  | .heartbeat => b2n h.lapsed 2
  | .subst i => substImage (tget (0, 0, 0, false) h.subst i)
  | .power p =>
    let x := tget {} h.power p
    x.temp * 2 ^ 56 + max (if p < 32 then 8 else 1) x.occ * 2 ^ 40 + x.bias * 2 ^ 32 + b2n x.relock 4 + b2n x.trip 3 + x.opp
  | .interrupt v => if v = 0 then 0 else b2n (tget false h.intEn v) 31 + tget 0 h.intSem v
  | .route n => tget 0 h.route n
  | .doorbell q => (s.queue q).tail
  | .capability d => s.capability d
  | .start c g =>
    let u := 12288 + c
    let y := s.core u
    let k := s.group (groupKey u g)
    tget 0 y.startObj g * 2 ^ 232 + tget 0 y.startEntry g * 2 ^ 192 + (tget 0 y.startArg g).toNat * 2 ^ 128 + b2n (k.present && !k.exited) 1
  | .trapVector c => (s.core (12288 + c)).tvec
  | .port p =>
    let x := tget {} h.ports p
    x.replays * 2 ^ 48 + x.discards * 2 ^ 32 + x.peer * 2 ^ 20 + x.pport * 2 ^ 16 + x.pause * 2 ^ 4 + x.st
  | .portCapture p => b2n (tget {} h.ports p).cap 0
  | .portHeader p => (tget {} h.ports p).header
  | .sem n => (tget 0 h.sems n).toNat
  | .flash o => (s.byte (2 ^ 42 + o)).toNat
  | .none => 0

/-- Bytes read at a physical address of the device rows.
(DEDUCED, notes/assumptions 6; unsafe.) -/
def State.devRead (s : State) (pa n : Nat) : List Byte :=
  (List.range n).map (fun i =>
    let (r, o) := regAt (pa + i)
    BitVec.ofNat 8 (s.regImage r / 2 ^ (8 * o)))

/-! ### Stores -/

/-- A register's bits with `bs` stored from byte `o`. -/
def setBytes (x o : Nat) (bs : List Byte) : Nat := putField x (8 * o) (8 * bs.length) (leNat bs)
/-- The bits that a store carries, zero where it does not reach. -/
def wroteBits (o : Nat) (bs : List Byte) : Nat := leNat bs * 2 ^ (8 * o)
/-- A store reaches bit `i`. -/
def covers (o : Nat) (bs : List Byte) (i : Nat) : Bool := decide (8 * o ≤ i) && decide (i < 8 * (o + bs.length))
def State.anyBound (s : State) : Bool := s.contexts.any (fun c => c.2.bound)
/-- A die that the isolation register may name (R409): a lattice, stream or link chiplet that is present and not fenced. -/
def State.dieAt (s : State) (d : Nat) : Bool :=
  ((d / 16 == 1 && decide (d % 16 < 8)) || (d / 16 == 2 && decide (d % 16 < 4)) || (d / 16 == 4 && decide (d % 16 < 2))) &&
    !s.dieFenced d

/-- What a store to a register sets by itself (R5), reserved and read-only fields apart; actions are the events' own. -/
def State.regStore (s : State) (r : Reg) (o : Nat) (bs : List Byte) : State :=
  let h := s.hub
  let x := setBytes (s.regImage r) o bs
  let w := wroteBits o bs
  match r with
  | .context c =>
    let y := s.context c
    if y.bound then s
    else s.setContext c { y with
      rtBase := field x 464 48, rtCount := field x 447 17, otBase := field x 399 48, otCount := field x 374 25, pasid := field x 354 20 }
  | .ring c =>
    let y := tget {} s.rings c
    { s with rings := tput s.rings c { y with
        base := if y.en then y.base else field x 208 48, log2n := if y.en then y.log2n else field x 204 4, ssem := field x 176 16
        head := field x 160 16, lost := y.lost &&& (0xFFFF - field w 128 16), en := bitAt x 0 } }
  | .mailbox =>
    let m := h.mailbox
    let olen := if covers o bs 96 || covers o bs 104 || covers o bs 112 then min (field (setBytes (m.olen * 2 ^ 96) o bs) 96 21) 2048 else m.olen
    { s with hub := { h with mailbox := { m with ssem := field x 128 16, olen := olen } } }
  | .payload => { s with hub := { h with mailbox := { h.mailbox with payload := mwrites h.mailbox.payload o bs } } }
  | .queue q =>
    let y := s.queue q
    let y := { y with ssem := field x 408 16 }
    s.setQueue q (if y.st = 0 then { y with base := field x 448 64, loc := field x 438 2, log2n := field x 434 4, ctx := field x 428 6 } else y)
  | .place c =>
    (s.setContext c { s.context c with lmask := field x 128 128, smask := field x 112 16, pref := field x 110 2 }).postOnce .schedulerPass
  | .fabContext c =>
    let y := s.context c
    if y.bound then s else s.setContext c { y with ftid := field x 112 16, fsemHi := field x 100 12, fsemLo := field x 88 12, fen := bitAt x 0 }
  | .fabStatus => if s.anyBound then s else { s with hub := { h with chip := field x 0 12 } }
  | .fabControl =>
    let v := field x 32 32
    { s with hub := { h with rlim := if v = 0 then 0 else max 100 (min v 1000000), ten := bitAt x 0 } }
  | .scheduler => { s with hub := { h with rtime := min (field x 0 20) 1000000 } }
  | .window c i =>
    let y := s.context c
    if y.bound then s else s.setContext c { y with windows := tput y.windows i (x / 2 ^ 52 % 2 ^ 76 * 2 ^ 52) }
  | .isolation =>
    let d := field x 8 8
    if h.isoBusy || ((covers o bs 8 || covers o bs 16) && !s.dieAt d) then s
    else { s with hub := { h with isoDie := d, isoDone := h.isoDone && !bitAt w 19 } }
  | .pool =>
    let p := h.pool
    let keep := p.en
    { s with hub := { h with pool := {
        lbase := if keep then p.lbase else field x 208 48, lcount := if keep then p.lcount else field x 192 16
        sbase := if keep then p.sbase else field x 144 48, scount := if keep then p.scount else field x 128 16
        en := if p.en && !bitAt x 0 && !s.frames.isEmpty then true else bitAt x 0 } } }
  | .subst i =>
    if s.anyBound then s else { s with hub := { h with subst := tput h.subst i (field x 192 64, field x 128 64, field x 88 40, bitAt x 0) } }
  | .interrupt v =>
    if v = 0 then s else { s with hub := { h with intEn := tput h.intEn v (bitAt x 31), intSem := tput h.intSem v (field x 0 16) } }
  | .route n => { s with hub := { h with route := tput h.route n (x % 16 + x / 2 ^ 15 % 2 * 2 ^ 15) } }
  | .start c g =>
    let u := 12288 + c
    let y := s.core u
    s.setCore u { y with
      startObj := tput y.startObj g (field x 232 24), startEntry := tput y.startEntry g (field x 192 40)
      startArg := tput y.startArg g (BitVec.ofNat 64 (field x 128 64)) }
  | .trapVector c => s.setCore (12288 + c) { s.core (12288 + c) with tvec := field x 0 40 }
  | .portCapture p =>
    let y : Port := tget {} h.ports p
    { s with hub := { h with ports := tput h.ports p { y with cap := y.cap && !bitAt w 0 } } }
  | _ => s

/-- The event that a store to a register makes besides (its own row of the table of steps). -/
def State.regAction (s : State) (r : Reg) (o : Nat) (bs : List Byte) : Option Instr :=
  let w := wroteBits o bs
  match r with
  | .context c =>
    if bitAt w 2 then some .contextTeardown
    else if !covers o bs 1 then Option.none
    else if bitAt w 1 && !(s.context c).bound then some .contextBind
    else some .contextUnbind
  | .queue _ => if bitAt w 1 then some .queueDisable else if bitAt w 0 then some .queueEnable else if field w 8 8 ≠ 0 then some .queuePop else Option.none
  | .mailbox => if covers o bs 64 then some .mailboxComplete else if bitAt w 192 then some .mailboxSignin else Option.none
  | .start _ _ => if bitAt w 0 then some .groupStart else Option.none
  | .isolation =>
    if s.hub.isoBusy || !s.dieAt (field (setBytes (s.regImage r) o bs) 8 8) then Option.none
    else if bitAt w 16 then some .isolate else if bitAt w 17 then some .dieReset else Option.none
  | .heartbeat => if bitAt w 1 then some .heartbeatSignin else if bitAt w 0 then some .heartbeatBeat else Option.none
  | _ => Option.none

/-- A control core's access to a device register has taken effect: its element is done. -/
def State.devDone (s : State) (id : Nat) : State :=
  match s.access id with
  | Option.none => s
  | some a =>
    match a.elems.findIdx? (fun el => !el.done) with
    | some i =>
      match a.elems[i]? with
      | some el => s.elemDone { a with sent := false } i { el with done := true }
      | Option.none => s
    | Option.none => s

/-- The bytes of a store by register: (register, byte within it, bytes). -/
def regPieces (pa : Nat) (bs : List Byte) : List (Reg × Nat × List Byte) :=
  bs.zipIdx.foldl (fun ps p =>
    let (r, o) := regAt (pa + p.2)
    match ps.getLast? with
    | some (r', o', xs) => if r' = r ∧ o = o' + xs.length then ps.dropLast ++ [(r, o', xs ++ [p.1])] else ps ++ [(r, o, [p.1])]
    | Option.none => [(r, o, [p.1])]) []

/-- The event a store to the device rows begins as. -/
def storeEvent (pa : Nat) : Instr :=
  match (regAt pa).1 with
  | .sem _ => .semaphoreTableStore
  | .doorbell _ => .doorbellWrite
  | .power _ => .powerRegisterWrite
  | _ => .registerWrite

/-- REGISTER_WRITE (R5, R6): each register's fields are stored; the first action that the store asks for follows as its own event. Routing
writes wait while link firmware is replaced (R452). -/
def State.storeRegs (s : State) : State :=
  let ps := regPieces s.arg.a s.arg.data
  let held := ps.any (fun p => match p.1 with | .route _ => true | _ => false) && (match s.boot.active with | some (2, _) => true | _ => false)
  if held then s.again .registerWrite
  else
  let act := ps.findSome? (fun p => s.regAction p.1 p.2.1 p.2.2)
  let arg := s.arg
  let s := ps.foldl (fun s p => s.regStore p.1 p.2.1 p.2.2) s
  match act with
  | some i => s.post i arg
  | Option.none => s.devDone arg.d
def execRegisterWrite (s : State) : Host.Outcome State Fault Refusal := event State.storeRegs s

/-- SEMAPHORE_TABLE_STORE (R459): the bytes of each entry are set, and its edges and bindings are judged again. -/
def State.storeSems (s : State) : State :=
  let arg := s.arg
  let s := (regPieces arg.a arg.data).foldl (fun s p => match p.1 with
    | .sem n =>
      let v := setBytes (tget 0 s.hub.sems n).toNat p.2.1 p.2.2
      { s with hub := { s.hub with sems := tput s.hub.sems n (BitVec.ofNat 64 v) } }.semChanged n
    | _ => s) s
  s.devDone arg.d
def execSemaphoreTableStore (s : State) : Host.Outcome State Fault Refusal := event State.storeSems s

/-- SEMAPHORE_ADD (R335): physical semaphore `a` gains `b`, for the access `d` that asked. -/
def execSemaphoreAdd (s : State) : Host.Outcome State Fault Refusal :=
  event (fun s =>
    let arg := s.arg
    let s := s.semAdd arg.a arg.b
    match s.access arg.d with
    | some a => s.complete a.id []
    | Option.none => s) s

end Sys2Proof.Machine
end

