-- ==== Sys2Proof/Machine/Context.lean ====
section
/-! DEFINITION. Contexts (03 R68, R94), launch queues and doorbells (R69-R73), and the start of control groups (05 R131). -/

namespace Sys2Proof.Machine

/-! ### Contexts -/

/-- The context register that the current event writes. -/
def State.argContext (s : State) : Nat :=
  match (regAt s.arg.a).1 with
  | .context c => c
  | _ => 0

/-- A context holds nothing (R68). -/
def State.holdsNothing (s : State) (c : Nat) : Bool :=
  !s.blocks.any (fun b => b.2.present && b.2.ctx == c) && !s.frames.any (fun f => f.2.ctx == c) &&
    !s.bindings.any (fun b => (s.launchOf b.launch).ctx == c) && !s.launches.any (fun l => l.2.ctx == c) &&
    !s.pendingLaunches.any (fun p => p.ctx == c) && !s.copies.any (fun y => y.paused && y.ctx == c) &&
    !s.accesses.any (fun a => a.paused && a.ctx == c) &&
    !s.groups.any (fun g => g.2.present && kindOf g.1 == .control && g.2.ctx == c && g.2.subs.any (fun x => x.2.st == 4)) &&
    !s.queues.any (fun q => q.2.ctx == c && q.2.st != 0 && q.2.st != 5)

/-- CONTEXT_BIND (R68). -/
def execContextBind (s : State) : Host.Outcome State Fault Refusal :=
  event (fun s =>
    let c := s.argContext
    (s.setContext c { s.context c with bound := true, tdack := false, torn := false, urefused := false }).devDone s.arg.d) s
/-- CONTEXT_UNBIND (R68): a write of 0 takes effect only where the context holds nothing; a write of 1 to a bound one clears urefused. -/
def State.unbind (s : State) : State :=
  let c := s.argContext
  let x := s.context c
  let one := bitAt (wroteBits (regAt s.arg.a).2 s.arg.data) 1
  (s.setContext c (if one || !x.bound then { x with urefused := false }
    else if s.holdsNothing c then { x with bound := false, urefused := false } else { x with urefused := true })).devDone s.arg.d
def execContextUnbind (s : State) : Host.Outcome State Fault Refusal := event State.unbind s

/-- An accepted launch with no block admitted is cancelled (R94): its record is written only in an extent with loc 0 or 1. -/
def State.cancelLaunch (s : State) (n : Nat) (l : Launch) : State :=
  let x := s.context l.ctx
  let ent := s.num (x.otBase + 16 * dsCrObj l.desc) 16
  let ext := s.num (entBase ent + 16 * (dsCrOff l.desc / 65536)) 16
  let s := s.setLaunch n { l with st := 4, status := 0x0C }
  if extLoc ext ≤ 1 then s.finishLaunch n else { s with launches := tdel s.launches n, ready := s.ready.filter (· != n) }
/-- Every queue of a context that was moved to dead has been torn down. -/
def State.ackTeardown (s : State) (c : Nat) : State :=
  if (s.context c).torn && !s.queues.any (fun q => q.2.ctx == c && q.2.st == 4) then s.setContext c { s.context c with tdack := true } else s
/-- CONTEXT_TEARDOWN (R94), then the change of bound that the same write carries (R68). -/
def State.teardown (s : State) : State :=
  let c := s.argContext
  let arg := s.arg
  let s := s.setContext c { s.context c with torn := true }
  let s := s.queues.foldl (fun s q =>
    if q.2.ctx = c ∧ (q.2.st = 1 ∨ q.2.st = 2 ∨ q.2.st = 3) then (s.setQueue q.1 { q.2 with st := 4, pend := 0, inbox := [] }).post .queueTornDown { a := q.1 } else s) s
  let s := s.launches.foldl (fun s l => if l.2.ctx = c ∧ !l.2.started ∧ l.2.st ≤ 2 then s.cancelLaunch l.1 l.2 else s) s
  let s := s.ackTeardown c
  let one := bitAt (wroteBits (regAt arg.a).2 arg.data) 1
  s.post (if one && !(s.context c).bound then .contextBind else .contextUnbind) arg
def execContextTeardown (s : State) : Host.Outcome State Fault Refusal := event State.teardown s

/-! ### Queues -/

def State.argQueue (s : State) : Nat :=
  match (regAt s.arg.a).1 with
  | .queue q => q
  | .doorbell q => q
  | _ => 0
/-- The hub looks whether a queue has an entry to fetch (R73). -/
def State.askFetch (s : State) (q : Nat) : State :=
  let x := s.queue q
  if x.st = 1 ∧ x.head ≠ x.tail ∧ x.pend < 8 ∧ !x.fetching ∧ !x.paging then s.postOnce .queueEntryFetch { a := q } else s
/-- After enabling or disabling, the pop that the same write carries; else the store is done. R69 gives the three no order within one write.
(DESIGN CHOICE, notes/assumptions 72; unsafe.) -/
def State.thenPop (s : State) : State :=
  if field (wroteBits (regAt s.arg.a).2 s.arg.data) 8 8 ≠ 0 then s.post .queuePop s.arg else s.devDone s.arg.d

/-- QUEUE_ENABLE (R72). -/
def State.enableQueue (s : State) : State :=
  let q := s.argQueue
  let x := s.queue q
  let bad := decide (x.log2n < 4) || x.loc % 2 == 1 || (x.loc == 0 && !s.inHbm x.base (64 * 2 ^ x.log2n)) || (s.context x.ctx).torn
  let y := match x.st with
    | 0 => if bad then x else { x with st := 1, head := 0, pend := 0, inbox := [] }
    | 2 => { x with st := 1, tail := x.head }
    | 3 => { x with st := 1 }
    | _ => x
  ((s.setQueue q y).askFetch q).thenPop
def execQueueEnable (s : State) : Host.Outcome State Fault Refusal := event State.enableQueue s
/-- QUEUE_DISABLE (R72): a torn-down queue goes to off while its context's bound is 0. Whether bound may have been set again since it was
cleared is not stated.
(DEDUCED, notes/assumptions 73; unsafe.) -/
def State.disableQueue (s : State) : State :=
  let q := s.argQueue
  let x := s.queue q
  let go := x.st == 1 || x.st == 2 || x.st == 3 || (x.st == 5 && !(s.context x.ctx).bound)
  (if go then s.setQueue q { x with st := 0 } else s).thenPop
def execQueueDisable (s : State) : Host.Outcome State Fault Refusal := event State.disableQueue s
/-- QUEUE_POP (R69, R73): the oldest entries leave the inbox, and their slots read as zero. -/
def State.popQueue (s : State) : State :=
  let q := s.argQueue
  let x := s.queue q
  let n := min (field (wroteBits (regAt s.arg.a).2 s.arg.data) 8 8) x.pend
  let gone := (List.range n).map (fun i => (x.head + 65536 - x.pend + i) % 8)
  let arg := s.arg
  ((s.setQueue q { x with pend := x.pend - n, inbox := x.inbox.filter (fun e => !gone.contains e.1) }).askFetch q).devDone arg.d
def execQueuePop (s : State) : Host.Outcome State Fault Refusal := event State.popQueue s
/-- DOORBELL_WRITE (R71, R72): only four bytes at the page's start are a doorbell. -/
def State.doorbell (s : State) : State :=
  let q := s.argQueue
  let x := s.queue q
  let v := leNat s.arg.data % 65536
  let arg := s.arg
  let s := if (regAt arg.a).2 ≠ 0 ∨ arg.data.length ≠ 4 then s
    else match x.st with
    | 0 => if s.boot.latch then s.setQueue q { x with tail := v } else s
    | 1 => (s.setQueue q { x with tail := v, st := if 2 ^ x.log2n < (v + 65536 - x.head) % 65536 then 2 else 1 }).askFetch q
    | 3 => s.setQueue q { x with tail := v }
    | _ => s
  s.devDone arg.d
def execDoorbellWrite (s : State) : Host.Outcome State Fault Refusal := event State.doorbell s

/-- A fetch of a queue ends with nothing: it may be tried again, or the queue is torn down. -/
def State.endFetch (s : State) (q : Nat) : State :=
  (s.setQueue q { s.queue q with fetching := false, paging := false }).askFetch q
/-- QUEUE_ENTRY_FETCH (R73): the entry at head is asked for; in host memory its translation may fail, and a page request follows.
(DESIGN CHOICE, notes/assumptions 48; safe.) -/
def State.fetchEntry (s : State) : State :=
  let q := s.arg.a
  let x := s.queue q
  if x.st ≠ 1 ∨ x.head = x.tail ∨ 8 ≤ x.pend ∨ x.fetching ∨ x.paging then s
  else
    let (miss, s) := if x.loc = 2 then s.coin else (false, s)
    if miss then (s.setQueue q { x with paging := true }).post .pageRequestComplete { a := q }
    else (s.setQueue q { x with fetching := true }).post .queueFetchComplete { a := q }
def execQueueEntryFetch (s : State) : Host.Outcome State Fault Refusal := event State.fetchEntry s
/-- QUEUE_FETCH_COMPLETE (R73): the entry lands in the inbox with its fetch status, unless its queue has left live. -/
def State.landEntry (s : State) : State :=
  let q := s.arg.a
  let x := s.queue q
  if !x.fetching then s
  else if x.st ≠ 1 then s.endFetch q
  else
    let at_ := x.base + 64 * (x.head % 2 ^ x.log2n)
    let e := leNat (s.bytes (if x.loc = 2 then hostKey (s.context x.ctx).pasid at_ else at_) 64)
    let st := if field e 128 384 = 0 then 0 else 1
    let s := s.setQueue q { x with
      fetching := false, pend := x.pend + 1, head := (x.head + 1) % 65536
      inbox := tput x.inbox (x.head % 8) (leBytes 64 (putField e 504 8 st)) }
    (s.semAdd x.ssem 1).askFetch q
def execQueueFetchComplete (s : State) : Host.Outcome State Fault Refusal := event State.landEntry s
/-- PAGE_REQUEST_COMPLETE (R73): the page is there and the entry is fetched, or the queue goes to fault. -/
def State.pageDone (s : State) : State :=
  let q := s.arg.a
  let x := s.queue q
  if !x.paging then s
  else if x.st ≠ 1 then s.endFetch q
  else
    let (bad, s) := s.coin
    if bad then s.setQueue q { x with paging := false, st := 3 }
    else (s.setQueue q { x with paging := false, fetching := true }).post .queueFetchComplete { a := q }
def execPageRequestComplete (s : State) : Host.Outcome State Fault Refusal := event State.pageDone s
/-- QUEUE_TORN_DOWN (R72, R94). -/
def State.queueGone (s : State) : State :=
  let q := s.arg.a
  let x := s.queue q
  if x.st ≠ 4 then s
  else if x.fetching || x.paging then s.again .queueTornDown
  else (s.setQueue q { x with st := 5 }).ackTeardown x.ctx
def execQueueTornDown (s : State) : Host.Outcome State Fault Refusal := event State.queueGone s

/-! ### Control groups (R130, R131) -/

/-- The hidden-formed code handle of a start: rights R and X, the object's whole length, its current generation. A length of 2^40 bytes, which
the 40-bit field cannot hold, becomes 2^40 - 1.
(DEDUCED, notes/assumptions 31; unsafe.) -/
def State.startHandle (s : State) (obj entry : Nat) : HandleReg :=
  let c := s.context 0
  let v := if obj < c.otCount then s.num (c.otBase + 16 * obj) 16 else 0
  let v := if entReserved v then 0 else v
  let len := entCount v * 65536
  mkHandle obj (entGen v) (rR + rX) 0 (min len (2 ^ 40 - 1)) (decide (obj < c.otCount) && entValid v && decide (entry < len))
/-- Group `g` of control core `c` starts. -/
def State.startGroup (s : State) (c g obj entry arg : Nat) : State :=
  let w (n : Nat) : W32 := BitVec.ofNat 32 n
  let (n, s) := s.fresh
  s.setGroup (groupKey (12288 + c) g) {
    present := true, gidx := g, subs := [(0, {
      st := 1, pc := entry, lanes := 1, lastIssue := n, s := [(4, w g), (5, w arg), (6, w (arg / 2 ^ 32))], h := [(9, s.startHandle obj entry)] })] }
/-- GROUP_START (R131): ignored while the slot holds a group. -/
def execGroupStart (s : State) : Host.Outcome State Fault Refusal :=
  event (fun s =>
    let arg := s.arg
    match (regAt arg.a).1 with
    | .start c g =>
      let y := s.core (12288 + c)
      let k := s.group (groupKey (12288 + c) g)
      (if k.present && !k.exited then s
       else s.startGroup c g (tget 0 y.startObj g) (tget 0 y.startEntry g) (tget 0 y.startArg g).toNat).devDone arg.d
    | _ => s.devDone arg.d) s

end Sys2Proof.Machine
end

