-- ==== Sys2Proof/Machine/Supervisor.lean ====
section
/-! DEFINITION. Supervisor instructions (07 R208, R211-R215): object tables and extents, their relocation and invalidation with the
re-examination of what waits for residence (18 R400), semaphore maps, minting. -/

namespace Sys2Proof.Machine

/-! ### Object tables -/

/-- An object table entry is malformed (R211 status 2). -/
def State.entryBad (s : State) (v : Nat) : Bool :=
  field v 80 6 != 0 || field v 0 32 != 0 || entBase v % 16 != 0 || (entValid v && (entCount v == 0 || !s.inHbm (entBase v) (16 * entCount v)))
/-- The status of an extent's place (R211 statuses 1, 3, 4), with the address of the extent. -/
def State.extentStatus (s : State) (c obj idx v : Nat) : Nat ⊕ Nat :=
  let x := s.context c
  if x.otCount ≤ obj then .inl 1
  else if !s.extOk v then .inl 3
  else
    let e := s.num (x.otBase + 16 * obj) 16
    if !entValid e || entCount e ≤ idx then .inl 4 else .inr (entBase e + 16 * idx)

/-- OBJMAP_ENT (R211). -/
def execObjmapEnt (f : XForm) (s : State) : Host.Outcome State Fault Refusal :=
  issue (.objmapEnt f) .slot (fun cx s =>
    let x := s.context (s.ctxOf cx.k)
    let obj := (s.opS cx.k cx.e f.xb).toNat
    let v := s.opQuad cx.k cx.e f.xc
    let st := if x.otCount ≤ obj then 1 else if s.entryBad v then 2 else 0
    let s := if st = 0 then s.write (x.otBase + 16 * obj) (leBytes 16 v) else s
    .ok (s.slotBusy cx.k cx.e cx.slot cx.op (wrS f.xa.toNat 1 st)) [] 1) s
/-- OBJMAP_EXT (R211). -/
def execObjmapExt (f : XForm) (s : State) : Host.Outcome State Fault Refusal :=
  issue (.objmapExt f) .slot (fun cx s =>
    let p := (s.opS64 cx.k cx.e f.xb).toNat
    let v := s.opQuad cx.k cx.e f.xc
    let (st, s) := match s.extentStatus (s.ctxOf cx.k) (p % 2 ^ 32) (p / 2 ^ 32) v with
      | .inl st => (st, s)
      | .inr a => (0, s.write a (leBytes 16 v))
    .ok (s.slotBusy cx.k cx.e cx.slot cx.op (wrS f.xa.toNat 1 st)) [] 1) s

/-- A slot is busy with a supervisor operation that goes on by steps: its kind and operands, from byte 0. -/
def State.supOp (s : State) (cx : Cx) (wrs : List Wr) (kind ctx obj idx v : Nat) : State :=
  s.longOp cx wrs (BitVec.ofNat 8 kind :: leBytes 1 ctx ++ leBytes 4 obj ++ leBytes 4 idx ++ leBytes 16 v)

/-- OBJMAP_MV (R212). -/
def execObjmapMv (f : XForm) (s : State) : Host.Outcome State Fault Refusal :=
  issue (.objmapMv f) .slot (fun cx s =>
    let p := (s.opS64 cx.k cx.e f.xb).toNat
    .ok (s.supOp cx (wrS f.xa.toNat 1 0) 17 (s.ctxOf cx.k) (p % 2 ^ 32) (p / 2 ^ 32) (s.opQuad cx.k cx.e f.xc)) [] 1) s
/-- OBJINV (R213). -/
def execObjinv (f : XForm) (s : State) : Host.Outcome State Fault Refusal :=
  issue (.objinv f) .slot (fun cx s => .ok (s.supOp cx [] 18 (s.ctxOf cx.k) (s.opS cx.k cx.e f.xb).toNat 0 0) [] 1) s
/-- OBJINV_CTX (R213). -/
def execObjinvCtx (f : XForm) (s : State) : Host.Outcome State Fault Refusal :=
  issue (.objinvCtx f) .slot (fun cx s => .ok (s.supOp cx [] 19 (s.ctxOf cx.k) 0 0 0) [] 1) s

/-! ### Relocation -/

/-- `n` bytes copied with their poison, and their tags where `tags`. -/
def State.copyRange (s : State) (src dst n : Nat) (tags : Bool) : State :=
  let cells := s.mem.filter (fun e => decide (src ≤ e.1) && decide (e.1 < src + n))
  let inside (g : Nat) : Bool := decide (src / 16 ≤ g) && decide (g < (src + n) / 16)
  let dest (g : Nat) : Nat := dst / 16 + (g - src / 16)
  let ts := s.tags.filter inside
  let ps := s.poison.filter inside
  let s := s.zero dst n
  { s with
    mem := cells.foldl (fun m e => mwrite m (dst + (e.1 - src)) e.2) s.mem
    tags := if tags then ts.foldl (fun t g => sinsert t (dest g)) s.tags else s.tags
    poison := ps.foldl (fun t g => sinsert t (dest g)) s.poison }

/-- Cached copies of one extent, and of the object's lines in it, are dropped. -/
def State.dropExtent (s : State) (c obj idx : Nat) : State :=
  { s with portCache := s.portCache.filter (fun p => !(p.ctx == c && p.obj == obj && p.key == idx + 1)) }.dropEverywhere
    (fun l => l.ctx == c && l.obj == obj && l.off / 65536 == idx)
/-- An access in flight has still to be performed in a backing. -/
def State.backingBusy (s : State) (base : Nat) : Bool :=
  s.accesses.any (fun a => a.elems.any (fun el => !el.done && match el.loc with
    | .mem k => decide (base ≤ k) && decide (k < base + 65536)
    | _ => false))
/-- Acceptance of the uncommitted gated stores to an extent is withdrawn: they fail step 8, and their sub-groups roll back and are suspended
(R399).
(DEDUCED, notes/assumptions 47; unsafe.) -/
def State.withdrawStores (s : State) (c obj idx : Nat) : State :=
  s.accesses.foldl (fun s a =>
    let mine := a.elems.filter (fun el => el.obj / 65536 == idx || (el.obj + el.n - 1) / 65536 == idx)
    match mine with
    | [] => s
    | low :: _ =>
      if a.release == 0 && a.accepted && a.fail.isNone && !a.local_ && a.member.isNone && a.kind.inStores && a.ctx == c &&
          field a.hbits.toNat 104 24 == obj then
        (s.setAccess { a with
          accepted := false, suspends := true
          fail := some { cause := 0x11, src := 1, fmask := maskOf (fun l => mine.any (fun el => el.lane == l)), addr := low.off
                         addr2 := max low.obj (65536 * idx), info := 8 * 2 ^ 24 + a.hreg } }).post .portFailureReport { a := a.id }
      else s) s
/-- The status 5 conditions of R212. -/
def moveRefused (old new : Nat) : Bool :=
  decide (1 < extLoc old) || decide (1 < extLoc new) || !extRes old || !extRes new || extMig new ||
    (decide (extBase old < extBase new + 65536) && decide (extBase new < extBase old + 65536))

/-- A relocation goes on: it begins once no other of the object is under way; it then waits for the accesses in flight, and copies. -/
def State.moveStep (s : State) (c obj idx v : Nat) : State :=
  let arg := s.arg
  let ke := arg.b
  let fin (st : Nat) (s : State) : State := s.finishSlot ke arg.c arg.d (withValue st)
  match s.moves.find? (fun m => m.group == ke / 8 && m.entry == ke % 8 && m.slot == arg.c && m.seq == arg.d) with
  | none =>
    if s.moves.any (fun m => m.ctx == c && m.obj == obj) then s.again .slotComplete
    else match s.extentStatus c obj idx v with
      | .inl st => fin st s
      | .inr a =>
        let old := s.num a 16
        if moveRefused old v then fin 5 s
        else
          let s := (s.write a (leBytes 16 (putField old 45 1 1))).dropExtent c obj idx |>.withdrawStores c obj idx
          { s with moves := s.moves ++ [(⟨ke / 8, ke % 8, arg.c, arg.d, c, obj, idx, a, v, old⟩ : Move)] }.again .slotComplete
  | some m =>
    if s.backingBusy (extBase m.old) then s.again .slotComplete
    else
      let s := { s with moves := s.moves.filter (fun q => q.seq != m.seq) }
      let (bad, s) := s.coin
      if bad then fin 6 ((s.write m.dst (leBytes 16 (putField m.old 45 1 0))).dropExtent c obj idx)
      else fin 0 (((s.copyRange (extBase m.old) (extBase v) 65536 true).write m.dst (leBytes 16 v)).dropExtent c obj idx)

/-! ### Invalidation and re-examination (R213, R400) -/

/-- An object's offset now passes R57 step 8 (or fails another step, which its next try reports). -/
def State.residentNow (s : State) (c obj off : Nat) : Bool :=
  let e := s.num ((s.context c).otBase + 16 * obj) 16
  match (s.walk c obj (entGen e) off true).1 with
  | .fail 8 => false
  | _ => true
/-- The suspended sub-groups of a group of context `c` whose recorded extent is resident now go on (R400). -/
def State.wakeSuspended (s : State) (c : Nat) (g : Group) : Group :=
  { g with subs := g.subs.map (fun (p : Nat × Sub) => match p.2.suspension with
    | some (_, obj, off, _) => if p.2.st = 4 && s.residentNow c obj off then (p.1, { p.2 with st := 1, suspension := none }) else p
    | none => p) }
/-- What waits for residence in a context is examined again, and what passes goes on. -/
def State.reexamine (s : State) (c : Nat) : State :=
  let wake (k : Nat) (g : Group) : Group := if s.codeCtx k != c then g else s.wakeSuspended c g
  let goes (a : Access) : Bool := a.paused && a.ctx == c && a.elems.all (fun el => s.residentNow c (field a.hbits.toNat 104 24) el.obj)
  let copies := s.copies.filter (fun y => y.paused && y.ctx == c && (match y.stuck with
    | some (obj, off) => s.residentNow c obj off
    | none => true))
  let ids := (s.accesses.filter goes).map (·.id)
  let s := { s with
    groups := s.groups.map (fun (p : Nat × Group) => (p.1, wake p.1 p.2))
    accesses := s.accesses.map (fun (a : Access) => if ids.contains a.id then { a with paused := false } else a)
    copies := s.copies.map (fun (y : Copy) => if copies.contains y then { y with paused := false, stuck := none } else y)
    agenda := s.agenda.map (fun (ev : Event) =>
      if ev.step = Instr.slotComplete ∧ ev.arg.flag ∧ ev.arg.data.getD 0 0 = 2 ∧ ev.arg.data.getD 1 0 = 1 then
        { ev with arg := { ev.arg with data := ev.arg.data.set 1 2 } } else ev) }
  let s := ids.foldl (fun s id => s.post .accessAccepted { a := id }) s
  let s := copies.foldl (fun s y => s.post .copyLineLanded { a := y.id }) s
  let s := s.pendingLaunches.foldl (fun s (p : PendingLaunch) => if p.ctx = c then s.post .edgeReadResume { a := p.seq } else s) s
  s.launches.foldl (fun s (l : Nat × Launch) => if l.2.ctx = c ∧ l.2.pending then s.finishLaunch l.1 else s) s

/-- Cached copies of an object (of every object of the context, where `all`) are dropped; then the hub re-examines.
(DEDUCED, notes/assumptions 49; safe.) -/
def State.invalidateObject (s : State) (c obj : Nat) (all : Bool) : State :=
  let mine (x o : Nat) : Bool := x == c && (all || o == obj)
  let (n, s) := s.fresh
  let s := { s with
    portCache := s.portCache.filter (fun p => !mine p.ctx p.obj), codeInv := tput s.codeInv (if all then 2 ^ 30 + c else 2 ^ 24 * c + obj) (n + 1) }
  (s.dropEverywhere (fun l => mine l.ctx l.obj)).reexamine c

/-- A supervisor operation's next step: 17 `objmap.mv`, 18 `objinv`, 19 `objinv.ctx`, 20 `cterm` and `cterm.l`, which end when none of the
launches listed is held any more. A move or an invalidation is made also where its slot is no longer there to complete (R212, R213). -/
def State.supStep (s : State) : State :=
  let arg := s.arg
  let d := arg.data
  let get (i n : Nat) : Nat := leNat ((d.drop i).take n)
  let y := (s.sub (arg.b / 8) (arg.b % 8)).slot arg.c
  match get 0 1 with
    | 17 => s.moveStep (get 1 1) (get 2 4) (get 6 4) (get 10 16)
    | 18 => (s.invalidateObject (get 1 1) (get 2 4) false).finishSlot arg.b arg.c arg.d id
    | 19 => (s.invalidateObject (get 1 1) 0 true).finishSlot arg.b arg.c arg.d id
    | _ =>
      if !(y.st == SlotState.busy && y.seq == arg.d) then s
      else if (List.range ((d.length - 1) / 4)).any (fun i => (tfind s.launches (get (1 + 4 * i) 4)).isSome) then s.again .slotComplete
      else s.finishSlot arg.b arg.c arg.d id

/-! ### Semaphore maps, minting (R214, R215) -/

/-- SEMMAP (R214). -/
def execSemmap (f : XForm) (s : State) : Host.Outcome State Fault Refusal :=
  issue (.semmap f) .slot (fun cx s =>
    let c := s.ctxOf cx.k
    let n := (s.opS cx.k cx.e f.xb).toNat
    let v := (s.opS cx.k cx.e f.xc).toNat
    let st := if 4096 ≤ n then 1 else if 2 ^ 17 ≤ v then 2 else 0
    let s := if st = 0 then (s.setContext c { s.context c with semmap := tput (s.context c).semmap n v }).reevalEdges else s
    .ok (s.slotBusy cx.k cx.e cx.slot cx.op (wrS f.xa.toNat 1 st)) [] 1) s
/-- SEMMAP_Q (R214). -/
def execSemmapQ (f : XForm) (s : State) : Host.Outcome State Fault Refusal :=
  issue (.semmapQ f) .slot (fun cx s =>
    let n := (s.opS cx.k cx.e f.xb).toNat
    let v := if 4096 ≤ n then 0xFFFFFFFF else tget 0 (s.context (s.ctxOf cx.k)).semmap n
    .ok (s.slotBusy cx.k cx.e cx.slot cx.op (wrS f.xa.toNat 1 v)) [] 1) s
/-- HMINT (R215). -/
def execHmint (f : XForm) (s : State) : Host.Outcome State Fault Refusal :=
  issue (.hmint f) .slot (fun cx s =>
    let x := s.context (s.ctxOf cx.k)
    let q := ((s.sub cx.k cx.e).sreg f.xd.toNat).toNat
    let obj := q % 2 ^ 24
    let base := (s.opS64 cx.k cx.e f.xb).toNat
    let len := (s.opS64 cx.k cx.e f.xc).toNat
    let e := if obj < x.otCount then s.num (x.otBase + 16 * obj) 16 else 0
    let ok := decide (obj < x.otCount) && entValid e && !entReserved e && decide (base < 2 ^ 40) && decide (len < 2 ^ 40) && decide (base + len ≤ entCount e * 65536)
    let h := mkHandle obj (entGen e) (q / 2 ^ 24 &&& entCeil e) base len ok
    .ok (s.slotBusy cx.k cx.e cx.slot cx.op (wrH f.xa.toNat h)) [] 1) s

end Sys2Proof.Machine
end

