-- ==== Sys2Proof/Machine/Preempt.lean ====
section
/-! DEFINITION. Saves and resumes (20 R417-R429), retirement (R431, R432), termination (18 R408) and the context instructions (R435-R439). -/

namespace Sys2Proof.Machine

/-! ### The end of a block (R431, R432) -/

/-- A block's units are given back (R432 step 1): its granules' banks drop, its slots, register blocks and checker slot are free, and a scan
starts.
(DEDUCED, notes/assumptions 61; safe.) -/
def State.removeBlock (s : State) (b : Nat) : State :=
  let u := unitOfBlock b
  let x := s.block b
  let s := (s.setBlock b { x with gran := x.gran.map reach }).dropBanks b 0 (x.gran.length * granSize u)
  let js := x.groups.flatMap (fun k => (s.group k).own.map (fun o => reach o.2 / 4))
  let gone (k : Nat) : Bool := x.groups.contains k && (s.group k).present && (s.group k).block == b
  let s := { s with groups := s.groups.filter (fun g => !gone g.1), blocks := tdel s.blocks b }
  let c := s.core u
  let s := s.setCore u { c with
    mslots := x.slots.foldl (fun t p => tdel t (reach p.2)) c.mslots
    answers := c.answers.filter (fun p => !x.groups.contains (p.1 / 8)), wakers := c.wakers.filter (fun w => !x.groups.contains w.2.1) }
  (s.settleBanks u js).startScan u

/-- A launch ends once nothing of it is left and nothing more is to be admitted (R432). -/
def State.endLaunch (s : State) (n : Nat) : State :=
  let l := s.launchOf n
  if (tfind s.launches n).isNone || l.pending || s.blocks.any (fun b => b.2.present && b.2.launch == n) || s.frames.any (fun f => f.2.launch == n) ||
      (l.status == 0 && decide (l.next < l.total)) then s
  else (s.setLaunch n { l with st := 4, status := if l.status = 0 ∧ 0 < l.lost then 0x11 else l.status }).finishLaunch n

/-- A block of a launch is lost or terminated (R433). -/
def State.countLost (s : State) (n idx unit : Nat) : State :=
  let l := s.launchOf n
  s.setLaunch n { l with lost := l.lost + 1, lostAt := sinsert l.lostAt idx, first := if l.first = 0xFFFFFFFF then idx else l.first, unit := if l.first = 0xFFFFFFFF then unit else l.unit }

/-- Signals that a block has discarded count in its launch's completion record (R321). -/
def State.addDiscards (s : State) (n d : Nat) : State := s.setLaunch n { s.launchOf n with discards := (s.launchOf n).discards + d }

/-- What a block still has outstanding besides its groups (R431). -/
def State.blockBusy (s : State) (b : Nat) : Bool :=
  let u := unitOfBlock b
  s.accesses.any (fun a => a.block == b) || s.copies.any (fun y => y.block == b) || !(s.block b).updates.isEmpty ||
    (s.core u).mslots.any (fun m => m.2.block == b && m.2.st == 1)

/-- BLOCK_RETIRE (R431, R432): all groups have exited, or the block is terminated, and nothing of it is outstanding. -/
def State.retireBlock (s : State) : State :=
  let b := s.arg.a
  let x := s.block b
  if !x.present || !(x.terminated || x.groups.all (fun k => !(s.group k).present || (s.group k).block != b || (s.group k).exited)) then s
  else if s.blockBusy b then s.again .blockRetire
  else
    let s := { s with bindings := s.bindings.filter (fun y => !(y.launch == x.launch && y.idx == x.idx)) }
    let s := (s.removeBlock b).lapseEngine (unitOfBlock b)
    let l := s.launchOf x.launch
    let s := s.setLaunch x.launch { l with retired := if x.terminated then l.retired else l.retired + 1, discards := l.discards + x.discards }
    let s := if x.terminated then s.countLost x.launch x.idx (unitOfBlock b) else s
    s.endLaunch x.launch
def execBlockRetire (s : State) : Host.Outcome State Fault Refusal := event State.retireBlock s

/-! ### Termination (R408) -/

/-- `cpreempt` slots none of whose blocks is being saved any more complete. -/
def State.endSaves (s : State) : State :=
  let waiting (q : Nat) : Bool := s.blocks.any (fun b => match b.2.saving with | some (_, _, n) => n == q | none => false)
  { s with groups := s.groups.map (fun (p : Nat × Group) => (p.1, { p.2 with subs := p.2.subs.map (fun (q : Nat × Sub) => (q.1, { q.2 with
      slots := q.2.slots.map (fun (y : Nat × Slot) =>
        if y.2.st == SlotState.busy && y.2.opcode == 0x1BB && !waiting y.2.seq then (y.1, { y.2 with st := .complete }) else y) })) })) }

/-- An access that a terminated block leaves in flight: what was released is performed, fabric operations complete; a load or atomic may. -/
def keptAtEnd (loads : Bool) (a : Access) : Bool :=
  !a.paused && a.fail.isNone && a.release != 0 &&
    (match a.kind with
     | .semBind .. => false
     | .fabric _ | .fsig .. | .semSig .. => true
     | .barr .. | .bdrop _ | .bexp .. | .exitDrop _ => a.sent
     | _ => if a.kind.inLoads then loads && a.accepted else true)

/-- A block is terminated: its groups stop, and it retires once what it had released is done.
(DEDUCED, notes/assumptions 45; unsafe.) -/
def State.terminateBlock (s : State) (b : Nat) : State :=
  let u := unitOfBlock b
  let x := s.block b
  let (loads, s) := s.coin
  let c := s.core u
  let s := { s with
    accesses := s.accesses.filter (fun a => a.block != b || keptAtEnd loads a), copies := s.copies.filter (fun y => y.block != b)
    bindings := s.bindings.filter (fun y => !(y.launch == x.launch && y.idx == x.idx)) }
  let mine (q : Request) : Bool := q.block == b
  let s := s.setCore u { c with
    requests := c.requests.filter (fun q => !mine q), waiters := c.waiters.filter (fun q => !mine q)
    check := c.check.map (fun p => if mine p.1 then ({ p.1 with id := 0 }, p.2) else p) }
  ((s.setBlock b { x with terminated := true, saving := none }).freeHolders u).endSaves.postOnce .blockRetire { a := b }

/-- A launch is terminated with a status: nothing more of it is admitted, its images are freed, its blocks end. -/
def State.terminate (s : State) (n status : Nat) : State :=
  match tfind s.launches n with
  | none => s
  | some l =>
    let s := { s.setLaunch n { l with status := status } with ready := s.ready.filter (· != n) }
    let fs := s.frames.filter (fun f => f.2.launch == n)
    let s := fs.foldl (fun s f => (s.addDiscards n f.2.info.discards).countLost n f.2.block f.2.unit) { s with
      frames := s.frames.filter (fun f => f.2.launch != n)
      bindings := s.bindings.filter (fun y => !(y.launch == n && fs.any (fun f => f.2.block == y.idx))) }
    let s := fs.foldl (fun s f => s.lapseEngine f.2.unit) s
    let s := (s.blocks.filter (fun b => b.2.present && b.2.launch == n)).foldl (fun s b => s.terminateBlock b.1) s
    (s.endLaunch n).postOnce .schedulerPass

/-! ### The image: where it lies, and its bytes (R419-R424) -/

/-- The base of a frame. -/
def State.frameBase (s : State) (f : Nat) : Nat :=
  if f < 0x8000 then s.hub.pool.lbase + f * 2 ^ 22 else s.hub.pool.sbase + (f - 0x8000) * 2 ^ 23
/-- Free frames of a kind of core, the lowest first. -/
def State.freeFrames (s : State) (k : CoreKind) : List Nat :=
  let p := s.hub.pool
  let all := if k = .stream then (List.range p.scount).map (· + 0x8000) else List.range p.lcount
  all.filter (fun f => (tfind s.frames f).isNone && !s.blocks.any (fun b => match b.2.saving with | some (g, _, _) => g == f | none => false))

/-- Offsets of the parts of an image that differ by kind: register file of group `g`, tile of slot `t`, scratchpad. -/
def imgRegs (ck : CoreKind) (g : Nat) : Nat := if ck = .stream then 0x40000 + 0x8000 * g else 0x180000 + 0x8000 * g
def imgTile (ck : CoreKind) (t : Nat) : Nat := if ck = .stream then 0x80000 + 0x20000 * t else 0x280000 + 0x8000 * t
def imgSpm (ck : CoreKind) : Nat := if ck = .stream then 0x400000 else 0x200000
def imgGroup (g : Nat) : Nat := 0x1000 + 0x10000 * g

/-- Pieces of an image: offset and bytes. -/
abbrev Pieces := List (Nat × List Byte)
def State.writePieces (s : State) (a : Nat) (ps : Pieces) : State := ps.foldl (fun s p => s.write (a + p.1) p.2) s
/-- A byte map of 16 or more entries: the number at each index, or 0xFF. -/
def mapBytes (n : Nat) (t : Nat → Option Nat) : List Byte := (List.range n).map (fun i => BitVec.ofNat 8 ((t i).getD 0xFF))

/-- The header (R421). -/
def State.imgHeader (s : State) (b frame : Nat) (hold : Bool) : List Byte :=
  let x := s.block b
  let u := unitOfBlock b
  let n := if kindOfUnit u = .stream then 3 else dsBsize (s.launchOf x.launch).desc
  let here := x.groups.filter (fun k => (s.group k).present && (s.group k).block == b)
  let gmask := maskNat (here.map (· % 32))
  let xmask := maskNat ((List.range n).filter (fun i => !here.any (fun k => (s.group k).gidx == i && !(s.group k).exited)))
  leBytes 64 (s.time % 2 ^ 64 * 2 ^ 448 + x.launch * 2 ^ 416 + x.idx * 2 ^ 384 + u * 2 ^ 368 + frame * 2 ^ 352 + x.rv.num * 2 ^ 336 + x.ctx * 2 ^ 328 +
    b % 16 * 2 ^ 324 + gmask * 2 ^ 288 + x.claim.image * 2 ^ 268 + x.held.image * 2 ^ 248 + xmask * 2 ^ 232 + (if hold then 2 ^ 227 else 0) +
    (if kindOfUnit u = .stream then 2 else 1) * 2 ^ 224 + 1)

/-- A working register of a suspended routine (R306): a library routine keeps its own progress in w3 to w5, in a form that the spec does not
give. -/
def MSlot.savedW (m : MSlot) (i : Nat) : W64 :=
  match m.lib, i with
  | some l, 3 => BitVec.ofNat 64 l.k ^^^ Config.libraryMask 3
  | some l, 4 => BitVec.ofNat 64 l.stage ^^^ Config.libraryMask 4
  | some l, 5 => BitVec.ofNat 64 l.ob ^^^ Config.libraryMask 5
  | _, _ => tget 0 m.w i
/-- The record of a suspended routine (R306).
(DESIGN CHOICE, notes/assumptions 57; unsafe.) -/
def MSlot.image (m : MSlot) : List Byte :=
  leBytes 128 (m.nbytes % 2 ^ 64 * 2 ^ 576 + m.bar * 2 ^ 536 + m.mode * 2 ^ 532 + m.routine * 2 ^ 524 + m.upc * 2 ^ 512 +
    (List.range 8).foldl (fun n i => n + (m.savedW i).toNat * 2 ^ (64 * i)) 0)

/-- The banks of a block's scratchpad, by their block offset, and whether each is dropped. -/
def State.blockBanks (s : State) (b : Nat) : List (Nat × Nat × Bool) :=
  let u := unitOfBlock b
  let bs := bankSize u
  (List.range ((s.block b).gran.length * granSize u / bs)).map (fun i =>
    let j := s.spmPhys b (i * bs) / bs
    (i * bs, j, tget .off (s.core u).spmBank j == .off))

/-- The block record (R422). -/
def State.imgBlock (s : State) (b : Nat) : Pieces :=
  let x := s.block b
  let u := unitOfBlock b
  let f := x.copyFault.getD {}
  let rings : Pieces := (List.range 8).map (fun r =>
    let y : Ring := tget {} x.rings r
    (0x100 + 16 * r, (List.range 4).flatMap (fun i => leBytes 4 (y.word i))))
  let slot (l : Nat) : List Byte := match tfind x.slots l with
    | some p =>
      let m := s.mslot u (reach p)
      leBytes 4 (m.routine % 256 * 2 ^ 24 + m.reason % 256 * 2 ^ 16 + m.st * 2 ^ 8 + reach p)
    | none => leBytes 4 0xFF
  let dropped := maskNat (((s.blockBanks b).filter (·.2.2)).map (·.2.1))
  let chans := (List.range 4).foldl (fun n c => n + tget 0 x.tokens c % 16 * 2 ^ (4 * c)) 0
  let records : Pieces := x.slots.filterMap (fun p =>
    let m := s.mslot u (reach p.2)
    if m.st = 2 then some (0x300 + 0x80 * p.1, m.image) else none)
  rings ++ [(0x180, leBytes 8 (bitsOf 64 f.srcOff) ++ leBytes 8 (bitsOf 64 f.dstOff)), (0x190, (List.range 4).flatMap slot),
    (0x1A0, mapBytes 128 (fun i => (x.gran[i]?).map reach)), (0x220, leBytes 64 dropped), (0x260, leBytes 4 chans), (0x264, leBytes 4 x.discards),
    (0x268, leBytes 8 (f.reason % 256 + f.count % 256 * 256))] ++ records

/-- The register results among some writes; their class (R424): 1 s, 2 v, 3 p, 4 h, 5 pair, 6 quad; and their bytes, lane `l` at
`stride` · l. -/
def regResults (ws : List Wr) : List Wr := ws.filter (fun w => decide (w.key < 1280))
def resultClass (ws : List Wr) : Nat :=
  match regResults ws with
  | .s .. :: t => if t.isEmpty then 1 else if t.length = 1 then 5 else 6
  | .v .. :: t => if t.isEmpty then 2 else if t.length = 1 then 5 else 6
  | .p .. :: _ => 3
  | .h .. :: _ => 4
  | _ => 0
def resultDest (ws : List Wr) : Nat := ((regResults ws).map (fun w => w.key % 256)).headD 0
def resultBytes (at_ stride : Nat) (ws : List Wr) : Pieces :=
  (regResults ws).zipIdx.flatMap (fun p => match p.1 with
    | .s _ x _ => [(at_ + 4 * p.2, leBytes 4 x.toNat)]
    | .p _ _ x => [(at_, leBytes 4 x.toNat)]
    | .h _ x _ => [(at_, leBytes 16 x.bits.toNat)]
    | .v _ _ xs _ => (List.range 32).map (fun l => (at_ + stride * l + 4 * p.2, leBytes 4 (xs.getD l 0).toNat))
    | _ => [])
/-- A sub-group's scoreboard slot and window entry, as words (R424). -/
def Slot.word (y : Slot) : Nat :=
  (match y.st with | .free => 0 | .complete => 1 | .busy => 2) + (if y.st = .free then 0 else y.opcode % 256 * 256) + resultDest y.wrs * 2 ^ 16 +
    resultClass y.wrs * 2 ^ 24 + y.request.getD 0 % 2 ^ 20 * 2 ^ 32
def WinEntry.word (w : WinEntry) (tick : Nat) : Nat :=
  let mask : W32 := match regResults w.wrs with
    | .v _ m _ _ :: _ => m
    | [] => 0
    | _ => 1
  let c := resultClass w.wrs
  resultDest w.wrs + (if c = 5 then (match regResults w.wrs with | .v .. :: _ => 2 | _ => 1) else if c = 6 then 1 else c) * 256 + (if c = 5 then 2 ^ 11 else 0) + min 7 (w.due - tick) * 2 ^ 12 +
    (if w.overwritten then 2 ^ 15 else 0) + (if w.dead then 2 ^ 16 else 0) + mask.toNat * 2 ^ 32

/-- The record of a split entry (R424), at an offset. -/
def Sub.image (x : Sub) (at_ : Nat) (queue signals : Bool) : Pieces :=
  let wait := match x.wait with
    | some w => w.kind + w.item % 2 ^ 32 * 2 ^ 32
    | none => 0
  let hs := (List.range 32).map (fun r => x.hreg r)
  ((List.range 64).filterMap (fun r => if x.sDead.getLsbD r then none else some (at_ + 4 * r, leBytes 4 (x.sreg r).toNat))) ++
  (hs.zipIdx.filterMap (fun p => if x.hDead.getLsbD p.2 then none else some (at_ + 0x100 + 16 * p.2, leBytes 16 p.1.bits.toNat))) ++
  [(at_ + 0x300, leBytes 8 (~~~x.sDead).toNat ++ leBytes 8 x.sPz.toNat ++ leBytes 4 (~~~x.hDead).toNat ++
      leBytes 4 (maskNat ((hs.zipIdx.filter (·.1.valid)).map (·.2))) ++ leBytes 4 x.hPz.toNat),
    (at_ + 0x320, leBytes 8 x.tick), (at_ + 0x328, leBytes 8 x.elapsed),
    (at_ + 0x330, leBytes 8 (wait + (if x.tokTaken || x.trapTokens || (queue && x.headerMet) then 2 ^ 8 else 0) + (if signals then 2 ^ 9 else 0))),
    (at_ + 0x340, (List.range 6).flatMap (fun j => leBytes 8 (x.slot j).word))] ++
  ((List.range 6).flatMap (fun j => if (x.slot j).st == SlotState.complete then resultBytes (at_ + 0x400 + 0x200 * j) 16 (x.slot j).wrs else [])) ++
  ((List.range 8).flatMap (fun i => match x.win[i]? with
    | some w => (at_ + 0x1000 + 0x180 * i, leBytes 8 (w.word x.tick)) :: resultBytes (at_ + 0x1010 + 0x180 * i) 8 w.wrs
    | none => [(at_ + 0x1000 + 0x180 * i, leBytes 8 0)]))

/-- The trap registers in the order of R198. -/
def TrapRegs.image (t : TrapRegs) : List Byte :=
  leBytes 4 t.cause.toNat ++ leBytes 8 t.pc.toNat ++ leBytes 8 t.clause.toNat ++ leBytes 4 t.amask.toNat ++ leBytes 4 t.fmask.toNat ++
    leBytes 8 t.addr.toNat ++ leBytes 8 t.addr2.toNat ++ leBytes 4 t.info.toNat
/-- A split-table entry (R133), and the pending fabric error record, whose layout is the model's own: status, chip, count, address fields. -/
def Sub.entryImage (x : Sub) : List Byte := leBytes 16 (x.here * 2 ^ 88 + x.lanes.toNat * 2 ^ 56 + x.pair * 2 ^ 8 + x.st)
/-- A pending fabric error record in an image (R423).
(DESIGN CHOICE, notes/assumptions 59; unsafe.) -/
def FabErr.image (e : FabErr) : List Byte := leBytes 4 (e.status % 256 * 2 ^ 24 + e.chip % 4096 * 2 ^ 12 + e.count % 4096) ++ leBytes 6 e.addr2 ++ leBytes 6 e.addr
/-- The record is taken back. -/
def State.readFabErr (s : State) (a : Nat) : FabErr :=
  let x := s.num a 16
  { status := field x 24 8, chip := field x 12 12, count := field x 0 12, addr2 := field x 32 48, addr := field x 80 48 }

/-- The record of a group (R423), with its sub-group records and its live vector registers. -/
def Group.image (g : Group) (ck : CoreKind) : Pieces :=
  let a := imgGroup g.gidx
  let flags := (if g.handler then 1 else 0) + (if g.doubleTrap then 2 else 0) + (if g.escalated then 4 else 0) + (if g.escRelease then 8 else 0)
  let pairs := (List.range 7).foldl (fun n r => let p := tget (false, 7) g.pairs r; n + ((if p.1 then 8 else 0) + p.2) * 2 ^ (4 * r)) 0
  let own (l : Nat) : Option Nat := (g.own.find? (fun o => o.1 == l)).map (fun o => reach o.2)
  [(a, leBytes 4 g.fpcsr.toNat ++ leBytes 4 g.lpBase.toNat ++ leBytes 4 g.umpLim ++ leBytes 4 flags),
    (a + 0x010, (List.range 32).flatMap (fun l => leBytes 4 (tget 0 g.lfsr l).toNat)), (a + 0x090, g.tr.image),
    (a + 0x0C0, (List.range 8).flatMap (fun i => leBytes 8 (tget 0 g.m i).toNat)), (a + 0x100, (List.range 16).flatMap (fun i => leBytes 8 (tget 0 g.reg i).toNat)),
    (a + 0x180, (List.range 8).flatMap (fun e => (g.sub e).entryImage)), (a + 0x200, leBytes 4 pairs),
    (a + 0x210, match g.pend with | some e => e.image | none => leBytes 16 0), (a + 0x220, mapBytes 16 own),
    (a + 0x240, leBytes 32 (~~~g.vDead).toNat), (a + 0x260, (List.range 256).flatMap (fun r => leBytes 4 (tget 0 g.vPz r).toNat)),
    (a + 0x860, leBytes 16 (~~~g.pDead).toNat ++ leBytes 16 g.pPz.toNat)] ++
  ((List.range 128).filterMap (fun r => if g.pDead.getLsbD r then none else some (a + 0x660 + 4 * r, leBytes 4 (g.pred r).toNat))) ++
  ((List.range 256).filterMap (fun r => if g.vDead.getLsbD r || (own (r / 16)).isNone && ck == .lattice then none
    else some (imgRegs ck g.gidx + 0x80 * r, (List.range 32).flatMap (fun l => leBytes 4 (g.vreg r l).toNat)))) ++
  (g.subs.flatMap (fun p => if p.2.st = 0 then [] else p.2.image (a + 0x2000 + 0x1C00 * p.1) (ck == .stream) (!g.sigs.isEmpty)))

/-- The whole image is written (R420). -/
def State.writeImage (s : State) (b frame : Nat) (hold : Bool) : State :=
  let a := s.frameBase frame
  let u := unitOfBlock b
  let ck := kindOfUnit u
  let x := s.block b
  let gs := (x.groups.filter (fun k => (s.group k).present && (s.group k).block == b)).map s.group
  let s0 := s
  let s := s.writePieces a ((0, s.imgHeader b frame hold) :: s.imgBlock b ++ gs.flatMap (fun g => g.image ck))
  let s := x.slots.foldl (fun s p =>
    let m := s0.mslot u (reach p.2)
    (List.range (tileBytes u / 128)).foldl (fun s i =>
      let k := a + imgTile ck p.1 + 128 * i
      (s.write k (tileWords m i)).poisonGranules (((List.range 8).filter (fun g => (List.range 4).any (fun j => tilePz m i (4 * g + j)))).map (k / 16 + ·))) s) s
  (s0.blockBanks b).foldl (fun s k => if k.2.2 then s else s.copyRange (s0.spmAt b k.1) (a + imgSpm ck + k.1) (bankSize u) false) s

/-! ### Saving (R417, R418, R436) -/

/-- A sub-group's outstanding operations allow its image: its slots are free, complete, or hold an acquisition that waits. -/
def Core.waits (c : Core) (id : Nat) : Bool := c.waiters.any (fun q => q.id == id) && !(match c.check with | some (q, _) => q.id == id | none => false)
def Sub.quiet (x : Sub) (c : Core) : Bool := x.slots.all (fun y => y.2.st != SlotState.busy || (y.2.request.isSome && c.waits y.2.seq))
/-- A stream group stands at a clause's start: nothing of a clause is to be finished. One that a wait holds within its clause stops in that
wait (R443). -/
def Sub.atClause (x : Sub) : Bool := x.clause.isNone || !x.headerMet
/-- A group of a block that is being saved has stopped, and what it had in flight has ended (R417). -/
def State.groupStopped (s : State) (k : Nat) : Bool :=
  let g := s.group k
  let c := s.core (unitOfGroup k)
  g.trapping.isNone && g.subs.all (fun p => p.2.quiet c) && !s.pendingLaunches.any (fun p => p.group == k) &&
    !c.requests.any (fun q => q.group == k) && !(match c.check with | some (q, _) => q.group == k && q.slot.isNone | none => false) &&
    (if kindOf k = .stream then (g.doubleTrap || (g.sub 0).atClause || (g.sub 0).wait.isSome) && g.sigs.all (fun p => s.signalReady p.2) && (g.sigs.isEmpty || (s.signalHeld k).isSome)
     else g.openSubs.all (fun e => s.regionClean k e))

/-- A sub-group as its image keeps it (R429): at its resume point, its wait's elapsed time kept. -/
def Sub.saved (x : Sub) : Sub :=
  { x with
    clause := none, pc := x.clauseStart, idx := 0, headerMet := false
    resumeAt := if x.clause.isNone then x.resumeAt else if x.headerMet || x.tokensOnly then some x.here else none
    resumeSkip := x.clause.isNone && x.resumeSkip, tokTaken := x.tokTaken || x.headerMet, tokensOnly := false, wait := none, mark := none, resumeMark := true
    yielded := false }
def Group.saved (g : Group) : Group :=
  { g with subs := g.subs.map (fun (p : Nat × Sub) => (p.1, p.2.saved)), shadow := [], shadowUsed := [], holds := [], sleeping := none }

/-- Answers to trying acquisitions that no instruction has taken up are given back before a save; they are asked for again. -/
def State.dropAnswers (s : State) (b : Nat) : State :=
  let u := unitOfBlock b
  let c := s.core u
  let mine (p : Nat × Nat) : Bool := (s.block b).groups.contains (p.1 / 8)
  (c.answers.filter mine).foldl (fun s p => if p.2 % 4 = 0 then s.release b (Res.of (p.2 / 4 % 4) (p.2 / 16)) else s)
    (s.setCore u { c with answers := c.answers.filter (fun p => !mine p) })

/-- SAVE_COMPLETE (R417-R425): once all has stopped, the image is written and the block's units are given back. -/
def State.saveBlock (s : State) : State :=
  let b := s.arg.a
  let x := s.block b
  let u := unitOfBlock b
  match x.saving with
  | none => s
  | some (frame, hold, _) =>
    let ks := x.groups.filter (fun k => (s.group k).present && (s.group k).block == b)
    if s.blockBusy b || !ks.all s.groupStopped then s.again .saveComplete
    else
      let s := s.dropAnswers b
      let x := s.block b
      let s := s.writeImage b frame hold
      let ids := (s.core u).waiters.filter (fun q => q.block == b)
      let f : Frame := {
        num := frame, launch := x.launch, block := x.idx, ctx := x.ctx, unit := u, bslot := b % 16, claim := x.claim, hold := hold
        queued := if hold then none else some s.time, prio := x.rv.prio, rv := x.rv, info := { x with saving := none, groups := ks }
        groups := ks.map (fun k => ((s.group k).gidx, (s.group k).saved)), mslots := x.slots.map (fun p => (p.1, s.mslot u (reach p.2))) }
      let c := s.core u
      let s := s.setCore u { c with waiters := c.waiters.filter (fun q => !ids.contains q), scan := c.scan.filter (fun i => !ids.any (fun q => q.id == i)) }
      let s := { s with frames := tput s.frames frame f }
      ((s.removeBlock b).endSaves).postOnce .schedulerPass
def execSaveComplete (s : State) : Host.Outcome State Fault Refusal := event State.saveBlock s

/-- A save of a block is requested (R417): its groups stop, and each running wait's time stands still. -/
def State.beginSave (s : State) (b frame : Nat) (hold : Bool) (q : Nat) : State :=
  let x := s.block b
  let ks := x.groups.filter (fun k => (s.group k).present && (s.group k).block == b)
  let s := s.setBlock b { x with saving := some (frame, hold, q) }
  let s := ks.foldl (fun s k =>
    let g := s.group k
    s.setGroup k { g with subs := g.subs.map (fun (p : Nat × Sub) => (p.1, match p.2.wait with
      | some w => { p.2 with elapsed := s.time - w.since }
      | none => p.2)) }) s
  let s := if kindOfUnit (unitOfBlock b) = .lattice then
      ks.foldl (fun s k => (s.group k).openSubs.foldl (fun s e => s.post .commit { a := k, b := e }) s) s
    else s
  s.post .saveComplete { a := b }

/-- The indices that an operand names of a launch: one block, with the whole of its gang or cluster set, or every block (R436).
(DEDUCED, notes/assumptions 56; unsafe.) -/
def Launch.named (l : Launch) (idx : Nat) (i : Nat) : Bool :=
  idx == 0xFFFFFFFF || l.pclass == 0 || (if 1 < dsCsize l.desc then i / dsCsize l.desc == idx / dsCsize l.desc else i == idx)

/-- CPREEMPT (R436). -/
def execCpreempt (f : XForm) (s : State) : Host.Outcome State Fault Refusal :=
  issue (.cpreempt f) .slot (fun cx s =>
    let n := (s.opS cx.k cx.e f.xb).toNat
    let idx := (s.opS cx.k cx.e f.xc).toNat
    let hold := f.mod.getLsbD 0
    let l := s.launchOf n
    let answer (st : Nat) (s : State) : Eff := .ok (s.slotBusy cx.k cx.e cx.slot cx.op (wrS f.xa.toNat 1 st)) [] 1
    if (tfind s.launches n).isNone || l.ctx != s.ctxOf cx.k then answer 1 s
    else
      let bs := s.blocks.filter (fun b => b.2.present && b.2.launch == n && l.named idx b.2.idx)
      let running (p : Nat × Block) : Bool := p.2.saving.isNone && p.2.groups.any (fun k => (s.group k).present && (s.group k).block == p.1 && !(s.group k).exited)
      let lat := bs.filter (fun b => kindOfUnit (unitOfBlock b.1) == .lattice)
      let str := bs.filter (fun b => kindOfUnit (unitOfBlock b.1) == .stream)
      if !s.hub.pool.en then answer 5 s
      else if (s.freeFrames .lattice).length < lat.length ∨ (s.freeFrames .stream).length < str.length then answer 3 s
      else if bs.isEmpty || !bs.all running || (idx != 0xFFFFFFFF && !bs.any (fun b => b.2.idx == idx)) then answer 2 s
      else if hold && l.pclass == 1 then answer 4 s
      else
        let q := s.nextId
        let (_, s) := s.fresh
        let plan := lat.zip (s.freeFrames .lattice) ++ str.zip (s.freeFrames .stream)
        let s := plan.foldl (fun s p => s.beginSave p.1.1 p.2 hold q) s
        .ok (s.setSub cx.k cx.e ((s.sub cx.k cx.e).setSlot cx.slot { st := .busy, seq := q, opcode := cx.op, wrs := wrS f.xa.toNat 1 0 })) [] 1) s

/-! ### Resuming (R426-R429) -/

/-- The header of an image agrees with the hub's record of its frame (R427). -/
def State.headerOk (s : State) (f : Frame) : Bool :=
  let a := s.frameBase f.num
  let h := s.num a 64
  !s.poisoned a 64 && field h 416 32 == f.launch && field h 384 32 == f.block && field h 328 8 == f.ctx && field h 368 16 == f.unit &&
    field h 352 16 == f.num

/-- A sub-group takes back its values from the record at `a`; a dead register keeps none. -/
def State.readSub (s : State) (a : Nat) (x : Sub) : Sub :=
  let sDead : W64 := ~~~(BitVec.ofNat 64 (s.num (a + 0x300) 8))
  let hDead : W32 := ~~~(BitVec.ofNat 32 (s.num (a + 0x310) 4))
  let valid := s.num (a + 0x314) 4
  { x with
    s := (List.range 64).foldl (fun t r => if r = 0 || sDead.getLsbD r then t else tput t r (BitVec.ofNat 32 (s.num (a + 4 * r) 4))) x.s
    h := (List.range 32).foldl (fun t r => if r = 0 || hDead.getLsbD r then t
      else tput t r { bits := BitVec.ofNat 128 (s.num (a + 0x100 + 16 * r) 16), valid := bitAt valid r }) x.h
    sDead := sDead, sPz := BitVec.ofNat 64 (s.num (a + 0x308) 8), hDead := hDead, hPz := BitVec.ofNat 32 (s.num (a + 0x318) 4)
    tick := s.num (a + 0x320) 8, elapsed := s.num (a + 0x328) 8 }
def State.readTrapRegs (s : State) (a : Nat) : TrapRegs :=
  let w (o : Nat) : W32 := BitVec.ofNat 32 (s.num (a + o) 4)
  let d (o : Nat) : W64 := BitVec.ofNat 64 (s.num (a + o) 8)
  { cause := w 0, pc := d 4, clause := d 12, amask := w 20, fmask := w 24, addr := d 28, addr2 := d 36, info := w 44 }
/-- A group takes back its values from the image at `fb`. -/
def State.readGroup (s : State) (fb : Nat) (ck : CoreKind) (g : Group) : Group :=
  let a := fb + imgGroup g.gidx
  let flags := s.num (a + 12) 4
  let pairs := s.num (a + 0x200) 4
  let vDead : BitVec 256 := ~~~(BitVec.ofNat 256 (s.num (a + 0x240) 32))
  let pDead : BitVec 128 := ~~~(BitVec.ofNat 128 (s.num (a + 0x860) 16))
  let owned (r : Nat) : Bool := ck != .lattice || g.own.any (fun o => o.1 == r / 16)
  { g with
    fpcsr := BitVec.ofNat 32 (s.num a 4), lpBase := BitVec.ofNat 32 (s.num (a + 4) 4), umpLim := s.num (a + 8) 4
    handler := bitAt flags 0, doubleTrap := bitAt flags 1, escalated := bitAt flags 2 && !bitAt flags 3, escRelease := false
    lfsr := (List.range 32).map (fun l => (l, BitVec.ofNat 32 (s.num (a + 0x10 + 4 * l) 4))), tr := s.readTrapRegs (a + 0x90)
    pend := g.pend.map (fun _ => s.readFabErr (a + 0x210))
    m := (List.range 8).map (fun i => (i, BitVec.ofNat 64 (s.num (a + 0xC0 + 8 * i) 8)))
    reg := (List.range 16).map (fun i => (i, BitVec.ofNat 64 (s.num (a + 0x100 + 8 * i) 8)))
    pairs := (List.range 7).map (fun r => (r, bitAt pairs (4 * r + 3), field pairs (4 * r) 3)), vDead := vDead
    vPz := (List.range 256).map (fun r => (r, BitVec.ofNat 32 (s.num (a + 0x260 + 4 * r) 4))), pDead := pDead
    pPz := BitVec.ofNat 128 (s.num (a + 0x870) 16)
    p := (List.range 128).foldl (fun t r => if r = 0 || pDead.getLsbD r then t else tput t r (BitVec.ofNat 32 (s.num (a + 0x660 + 4 * r) 4))) g.p
    v := (List.range 256).foldl (fun t r => if vDead.getLsbD r || !owned r then t
      else putLanes t r 0xFFFFFFFF ((List.range 32).map (fun l => BitVec.ofNat 32 (s.num (fb + imgRegs ck g.gidx + 0x80 * r + 4 * l) 4)))) g.v
    subs := g.subs.map (fun (p : Nat × Sub) =>
      if p.2.st = 0 then p
      else
        let e := s.num (a + 0x180 + 16 * p.1) 16
        (p.1, { s.readSub (a + 0x2000 + 0x1C00 * p.1) p.2 with lanes := BitVec.ofNat 32 (field e 56 32), pair := field e 8 3, st := field e 0 3 })) }

/-- A ring takes back its words. -/
def State.readRing (s : State) (a : Nat) (r : Ring) : Ring :=
  let g := s.num (a + 4) 4
  let p := s.num (a + 8) 4
  { r with base := s.num a 4, tsize := field g 0 16, cap := field g 16 7, flt := bitAt g 30, en := bitAt g 31, head := field p 0 7
           full := field p 16 7, rsv := field p 24 7, bar := s.num (a + 12) 4 }
/-- The block record is taken back. -/
def State.readBlock (s : State) (fb : Nat) (x : Block) : Block :=
  let f : CopyFault := { srcOff := sext 64 (s.num (fb + 0x180) 8), dstOff := sext 64 (s.num (fb + 0x188) 8)
                         reason := s.num (fb + 0x268) 1, count := s.num (fb + 0x269) 1 }
  { x with
    rings := x.rings.map (fun (p : Nat × Ring) => (p.1, s.readRing (fb + 0x100 + 16 * p.1) p.2)), copyFault := x.copyFault.map (fun _ => f)
    tokens := (List.range 4).map (fun c => (c, field (s.num (fb + 0x260) 4) (4 * c) 4)), discards := s.num (fb + 0x264) 4 }
/-- A routine record is taken back. -/
def State.readRoutine (s : State) (a : Nat) (m : MSlot) : MSlot :=
  let r := s.num a 128
  let w (i : Nat) : W64 := BitVec.ofNat 64 (field r (64 * i) 64)
  let own (i : Nat) : Nat := (w i ^^^ Config.libraryMask i).toNat
  { m with nbytes := field r 576 64, bar := field r 536 32, mode := field r 532 2, routine := field r 524 8, upc := field r 512 12
           w := (List.range 8).map (fun i => (i, w i))
           lib := if field r 524 8 < 0x20 then some { k := own 3, stage := own 4, ob := own 5 } else none }

/-- A frame's matrix slots are restored: tiles, and a suspended routine goes on at its micro-PC.
(DESIGN CHOICE, notes/assumptions 57; unsafe.) -/
def State.restoreSlots (s : State) (f : Frame) (fb b : Nat) : State :=
  let u := f.unit
  let ck := kindOfUnit u
  f.info.slots.foldl (fun s p =>
    let m := tget {} f.mslots p.1
    let m := if m.st = 2 then { s.readRoutine (fb + 0x300 + 0x80 * p.1) m with st := 1 } else m
    let m := (List.range (tileBytes u / 128)).foldl (fun (m : MSlot) i =>
      let k := fb + imgTile ck p.1 + 128 * i
      m.fillWords i (s.bytes k 128) (fun g => s.poison.contains (k / 16 + g))) { m with block := b }
    s.setMslot u (reach p.2) m) s
/-- A frame's scratchpad is restored, dropped banks staying off. -/
def State.restoreSpm (s : State) (f : Frame) (fb b : Nat) : State :=
  let u := f.unit
  let bs := bankSize u
  let s := s.openGranules u (f.info.gran.map reach)
  let dropped := s.num (fb + 0x220) 64
  (s.blockBanks b).foldl (fun s k =>
    if bitAt dropped k.2.1 then
      let c := s.core u
      s.setCore u { c with spmBank := tput c.spmBank k.2.1 .off }
    else s.copyRange (fb + imgSpm (kindOfUnit u) + k.1) (s.spmAt b k.1) bs false) s

/-- Pending acquisitions rejoin the waiter list at its tail (R429).
(DEDUCED, notes/assumptions 58; unsafe.) -/
def State.rejoin (s : State) (b k : Nat) : State :=
  (s.group k).subs.foldl (fun s p => p.2.slots.foldl (fun s y => match y.2.st, y.2.request with
    | .busy, some r =>
      let u := unitOfBlock b
      let q := Res.ofImage r
      let kind := if q.reg ≠ 0 then 0 else if q.spm ≠ 0 then 1 else 2
      let c := s.core u
      s.setCore u { c with waiters := c.waiters ++ [({ id := y.2.seq, block := b, group := k, entry := p.1, kind := kind, n := q.reg + q.spm + q.msl, slot := some y.1 } : Request)] }
    | _, _ => s) s) s

/-- Bindings that fired during the save are delivered (R429). -/
def State.deliverFired (s : State) (b : Nat) (f : Frame) : State :=
  let mine (y : Binding) : Bool := y.launch == f.launch && y.idx == f.block && y.fired
  let ys := s.bindings.filter mine
  let s := { s with bindings := s.bindings.filter (fun y => !mine y) }
  let arg := s.arg
  let s := ys.zipIdx.foldl (fun s p => s.barUpdate b p.1.bar (.arrive (200 + p.2) 0 0 none none)) s
  let s := ys.foldl (fun s y => ({ s with arg := { a := b, b := y.bar } } : State).barCycle) s
  { s with arg := arg }

/-- A block resumes from its frame, which is freed (R429); its suspended sub-groups are examined again (R400). -/
def State.resumeBlock (s : State) (f : Frame) : State :=
  let u := f.unit
  let ck := kindOfUnit u
  let b := blockKey u f.bslot
  let fb := s.frameBase f.num
  let keys := f.info.groups
  let s := { s with
    frames := tdel s.frames f.num
    blocks := s.blocks.map (fun (p : Nat × Block) => (p.1, { p.2 with groups := p.2.groups.filter (fun g => !keys.contains g) })) }
  let s := s.setBlock b (s.readBlock fb { f.info with present := true })
  let (n, s) := s.fresh
  let s := (keys.zip f.groups).foldl (fun s p => s.setGroup p.1 ((s.readGroup fb ck p.2.2).startWait n)) s
  let s := (s.restoreSpm f fb b).restoreSlots f fb b
  let s := keys.foldl (fun s k =>
    let c := s.core u
    let js := (s.group k).own.map (fun o => reach o.2 / 4)
    s.setCore u { c with regBank := js.foldl (fun t j => tput t j .on) c.regBank }) s
  let s := keys.foldl (fun s k =>
    let s := s.rejoin b k
    let s := s.setGroup k (s.wakeSuspended f.ctx (s.group k))
    (s.group k).openSubs.foldl (fun s e =>
      let x := s.sub k e
      s.takeMark k e x.clauseStart x.here x.atHeader) s) s
  let s := if ck = .lattice then s.dropLines u (fun l => l.ctx == f.ctx) else s
  s.deliverFired b f

/-- The frames that resume with a frame: its gang, its cluster set, or itself alone (R426). -/
def State.withFrame (s : State) (f : Frame) : List Frame :=
  let l := s.launchOf f.launch
  (s.frames.filter (fun p => p.2.launch == f.launch && (p.1 == f.num || l.pclass == 0 || (decide (1 < dsCsize l.desc) &&
    p.2.block / dsCsize l.desc == f.block / dsCsize l.desc)))).map (·.2)
/-- Frames resume together, or not at all; an image whose header disagrees ends its launch (R427). -/
def State.resumeAll (s : State) : List Frame → Option State
  | [] => some s
  | f :: t =>
    if !s.resumeFits f then none
    else if !s.headerOk f then some (s.terminate f.launch 0x13)
    else (s.resumeBlock f).resumeAll t

/-- A frame that goes before another on the same core (R426): of higher priority, or saved earlier. -/
def Frame.goesBefore (a b : Frame) : Bool :=
  a.unit == b.unit && a.queued.isSome && (decide (b.prio < a.prio) || (a.prio == b.prio && decide (a.queued.getD 0 < b.queued.getD 0)))
/-- RESUME (R426-R429); the hub considers the ready lists again (R78). -/
def State.resumeFrame (s : State) : State :=
  match tfind s.frames s.arg.a with
  | none => s
  | some f =>
    let fs := s.withFrame f
    if !fs.all (fun g => g.queued.isSome) then s
    else if s.frames.any (fun g => g.2.goesBefore f && s.resumeFits g.2) then s.postOnce .schedulerPass
    else match s.resumeAll fs with
      | some s => s.postOnce .schedulerPass
      | none => s
def execResume (s : State) : Host.Outcome State Fault Refusal := event State.resumeFrame s

/-! ### The other context instructions (R437-R439) -/

/-- The frame of a launch's block. -/
def State.frameOf (s : State) (n idx : Nat) : Option Frame := (s.frames.find? (fun f => f.2.launch == n && f.2.block == idx)).map (·.2)

/-- CRESUME (R437). -/
def execCresume (f : XForm) (s : State) : Host.Outcome State Fault Refusal :=
  issue (.cresume f) .slot (fun cx s =>
    let n := (s.opS cx.k cx.e f.xb).toNat
    let idx := (s.opS cx.k cx.e f.xc).toNat
    let l := s.launchOf n
    let fs := s.frames.filter (fun p => p.2.launch == n && l.named idx p.2.block)
    let more := s.blocks.any (fun b => b.2.present && b.2.launch == n && l.named idx b.2.idx)
    let (st, s) : Nat × State :=
      if (tfind s.launches n).isNone || l.ctx != s.ctxOf cx.k then (1, s)
      else if fs.isEmpty || more || !fs.all (fun p => p.2.queued.isNone) || (idx != 0xFFFFFFFF && (s.frameOf n idx).isNone) then (2, s)
      else (0, { s with frames := s.frames.map (fun (p : Nat × Frame) =>
        if fs.any (fun q => q.1 == p.1) then (p.1, { p.2 with queued := some s.time }) else p) }.postOnce .schedulerPass)
    .ok (s.slotBusy cx.k cx.e cx.slot cx.op (wrS f.xa.toNat 1 st)) [] 1) s

/-- A group is released from its escalation: it goes on at the clause after `tesc`. -/
def Group.release (g : Group) : Group := { g with escalated := false }
/-- CRESUME_ESC (R437). -/
def execCresumeEsc (f : XForm) (s : State) : Host.Outcome State Fault Refusal :=
  issue (.cresumeEsc f) .slot (fun cx s =>
    let n := (s.opS cx.k cx.e f.xb).toNat
    let idx := (s.opS cx.k cx.e f.xc).toNat
    let i := ((s.sub cx.k cx.e).sreg f.xd.toNat).toNat
    let l := s.launchOf n
    let fits (g : Group) : Bool := g.escalated && !g.doubleTrap && !g.escRelease
    let (st, s) : Nat × State :=
      if (tfind s.launches n).isNone || l.ctx != s.ctxOf cx.k then (1, s)
      else if idx = 0xFFFFFFFF then (2, s)
      else match s.findBlock n idx with
        | some b =>
          match (s.block b).groups.find? (fun k => (s.group k).present && (s.group k).block == b && (s.group k).gidx == i && fits (s.group k)) with
          | some k => (0, s.setGroup k (s.group k).release)
          | none => (2, s)
        | none =>
          match s.frameOf n idx with
          | some fr =>
            if fr.groups.any (fun p => p.1 == i && fits p.2) then
              let a := s.frameBase fr.num + imgGroup i + 12
              let gs := fr.groups.map (fun (p : Nat × Group) => if p.1 = i then (p.1, { p.2 with escRelease := true }) else p)
              (0, ({ s with frames := tput s.frames fr.num { fr with groups := gs } } : State).write a (leBytes 4 (s.num a 4 ||| 8)))
            else (2, s)
          | none => (2, s)
    .ok (s.slotBusy cx.k cx.e cx.slot cx.op (wrS f.xa.toNat 1 st)) [] 1) s

/-- Launches are terminated, and the slot completes when none of them is held any more (R438). -/
def State.terminateAll (s : State) (cx : Cx) (dst : Nat) (ns : List Nat) : State :=
  let s := ns.foldl (fun s n => s.terminate n 0x10) s
  s.longOp cx (wrS dst 1 0) (20 :: ns.flatMap (leBytes 4))

/-- A double-trapped group of a control core whose `ctx` names the context ends (R131, R389).
(DEDUCED, notes/assumptions 80; unsafe.) -/
def State.endDoubles (s : State) (c : Nat) : State :=
  { s with groups := s.groups.map (fun (p : Nat × Group) =>
      if kindOf p.1 = .control && p.2.present && p.2.doubleTrap && p.2.ctx == c then (p.1, { p.2 with exited := true, present := false }) else p) }
/-- CTERM (R438). -/
def execCterm (f : XForm) (s : State) : Host.Outcome State Fault Refusal :=
  issue (.cterm f) .slot (fun cx s =>
    let c := s.ctxOf cx.k
    let r := (s.opS cx.k cx.e f.xb).toNat
    match (if (s.context c).rtCount ≤ r then none else s.resolveRegion (s.context c) r) with
    | none => .ok (s.slotBusy cx.k cx.e cx.slot cx.op (wrS f.xa.toNat 1 1)) [] 1
    | some rv =>
      let root := rv.roots.headD 0
      .ok ((s.endDoubles c).terminateAll cx f.xa.toNat ((s.launches.filter (fun l => l.2.ctx == c && l.2.rv.path.contains root)).map (·.1))) [] 1) s
/-- CTERM_L (R438). -/
def execCtermL (f : XForm) (s : State) : Host.Outcome State Fault Refusal :=
  issue (.ctermL f) .slot (fun cx s =>
    let n := (s.opS cx.k cx.e f.xb).toNat
    if (tfind s.launches n).isNone || (s.launchOf n).ctx != s.ctxOf cx.k then .ok (s.slotBusy cx.k cx.e cx.slot cx.op (wrS f.xa.toNat 1 1)) [] 1
    else .ok (s.terminateAll cx f.xa.toNat [n]) [] 1) s

/-- Groups escalated, suspended or double-trapped. -/
def heldGroups (gs : List Group) : Nat :=
  maskNat ((gs.filter (fun g => (g.escalated && !g.escRelease) || g.doubleTrap || g.subs.any (fun p => p.2.st == 4))).map (·.gidx))
/-- The quad of `cquery` for a block of a launch held in the context (R439). -/
def State.queryBlock (s : State) (n idx : Nat) : Nat × Nat × Nat × Nat :=
  let l := s.launchOf n
  match s.findBlock n idx with
  | some b =>
    let x := s.block b
    let fr := match x.saving with
      | some (g, _, _) => g
      | none => 0xFFFF
    let gs := (x.groups.filter (fun k => (s.group k).present && (s.group k).block == b)).map s.group
    ((if x.saving.isSome then 3 else 2) + heldGroups gs * 2 ^ 16, unitOfBlock b + fr * 2 ^ 16, x.held.image, x.claim.image)
  | none =>
    match s.frameOf n idx with
    | some f => ((if f.queued.isSome then 5 else 4) + heldGroups (f.groups.map (·.2)) * 2 ^ 16, f.unit + f.num * 2 ^ 16, f.info.held.image, f.claim.image)
    | none =>
      let st := if l.total ≤ idx then 15 else if l.next ≤ idx then 1 else if l.lostAt.contains idx then 7 else 6
      (st, 0xFFFFFFFF, 0, 0)

/-- CQUERY (R439). -/
def execCquery (f : XForm) (s : State) : Host.Outcome State Fault Refusal :=
  issue (.cquery f) .slot (fun cx s =>
    let n := (s.opS cx.k cx.e f.xb).toNat
    let (a, b, c, d) := if (tfind s.launches n).isNone || (s.launchOf n).ctx != s.ctxOf cx.k then (0, 0xFFFFFFFF, 0, 0)
      else s.queryBlock n (s.opS cx.k cx.e f.xc).toNat
    .ok (s.slotBusy cx.k cx.e cx.slot cx.op (wrS f.xa.toNat 4 (a + 2 ^ 32 * (b + 2 ^ 32 * (c + 2 ^ 32 * d))))) [] 1) s

/-- CQUERY_U (R439): the occupancy limit of a unit that is no core is not asked for. -/
def execCqueryU (f : XForm) (s : State) : Host.Outcome State Fault Refusal :=
  issue (.cqueryU f) .slot (fun cx s =>
    let u := (s.opS cx.k cx.e f.xb).toNat
    let v := if (unitsOf .lattice ++ unitsOf .stream).contains u then
        let regs := if kindOfUnit u = .stream then 0 else (s.freeBlocks u).length
        (s.residents u).length + s.coreGroups u * 2 ^ 8 + (s.pins u).length * 2 ^ 16 +
          2 ^ 32 * (regs + (s.freeGranules u).length * 2 ^ 16 + (s.freeMslots u).length * 2 ^ 24) +
          2 ^ 64 * (s.occLimit (powerIndex u) % 256 + (s.core u).waiters.length * 2 ^ 8) + 2 ^ 96 * (if s.healthy u then 1 else 0)
      else 0xFFFFFFFF
    .ok (s.slotBusy cx.k cx.e cx.slot cx.op (wrS f.xa.toNat 4 v)) [] 1) s

end Sys2Proof.Machine
end

