-- ==== Sys2Proof/Machine/Power.lean ====
section
/-! DEFINITION. Power registers, relocks and the limits that hardware holds (22 R447-R450), and the isolation and reset of a chiplet (18
R409, R410). -/

namespace Sys2Proof.Machine

/-! ### Operating points (R447-R450) -/

def State.powerOf (s : State) (p : Nat) : Power := tget {} s.hub.power p
def State.setPower (s : State) (p : Nat) (x : Power) : State := { s with hub := { s.hub with power := tput s.hub.power p x } }
/-- The point and bias that a cluster is to run at: the safe ones while the heartbeat has lapsed, the safe point while the trip holds. -/
def State.target (s : State) (x : Power) : Nat × Nat :=
  (if s.hub.lapsed || x.trip then 7 else min 7 (x.opp + x.clamp), if s.hub.lapsed || 32 ≤ x.bias then 0 else x.bias)
/-- A change of the applied values stops the cluster's clock for relock (R448); one that comes during a relock waits for its end. -/
def State.applyPower (s : State) (p : Nat) : State :=
  let x := s.powerOf p
  let t := s.target x
  if x.relock || t = (x.applied, x.appliedBias) then s
  else (s.setPower p { x with applied := t.1, appliedBias := t.2, relock := true, since := s.time }).post .relockComplete { a := p }
def State.applyAll (s : State) : State := (List.range 36).foldl (fun s p => s.applyPower p) s

/-- POWER_REGISTER_WRITE (R447): stored, and applied where the heartbeat has not lapsed. -/
def State.storePower (s : State) : State :=
  let arg := s.arg
  let s := (regPieces arg.a arg.data).foldl (fun s q => match q.1 with
    | .power p =>
      let v := setBytes (s.regImage (.power p)) q.2.1 q.2.2
      (s.setPower p { s.powerOf p with occ := field v 40 8, bias := field v 32 8, opp := field v 0 3 }).applyPower p
    | _ => s) s
  (s.postOnce .schedulerPass).devDone arg.d
def execPowerRegisterWrite (s : State) : Host.Outcome State Fault Refusal := event State.storePower s

/-- RELOCK_COMPLETE (R448): the clock runs again, the stop is deducted from the waits of the cluster's groups, and the scheduler looks again
(R78). -/
def State.relocked (s : State) : State :=
  let p := s.arg.a
  let x := s.powerOf p
  if !x.relock then s
  else
    let d := s.time - x.since
    let here (k : Nat) : Bool := kindOf k != .control && powerIndex (unitOfGroup k) == p
    let s := { s with groups := s.groups.map (fun (g : Nat × Group) =>
      if here g.1 then (g.1, { g.2 with subs := g.2.subs.map (fun (q : Nat × Sub) =>
        (q.1, { q.2 with wait := q.2.wait.map (fun (w : WaitRec) => { w with since := w.since + d }) })) }) else g) }
    ((s.setPower p { x with relock := false }).applyPower p).postOnce .schedulerPass
def execRelockComplete (s : State) : Host.Outcome State Fault Refusal := event State.relocked s

/-- THERMAL_TRIP (R449): the hottest sensor of cluster `a` reads `b`. -/
def execThermalTrip (s : State) : Host.Outcome State Fault Refusal :=
  event (fun s =>
    let x := s.powerOf s.arg.a
    let t := s.arg.b % 256
    (s.setPower s.arg.a { x with temp := t, trip := x.trip || decide (105 ≤ t) }).applyPower s.arg.a) s
/-- THERMAL_TRIP_CLEAR (R449). -/
def execThermalTripClear (s : State) : Host.Outcome State Fault Refusal :=
  event (fun s =>
    let x := s.powerOf s.arg.a
    let t := s.arg.b % 256
    (s.setPower s.arg.a { x with temp := t, trip := x.trip && decide (100 < t) }).applyPower s.arg.a) s

/-- The clusters of a die. -/
def clustersOf (die : Nat) : List Nat :=
  if die / 16 = 1 then (List.range 4).map (die % 16 * 4 + ·) else if die / 16 = 2 then [32 + die % 16] else []
/-- CURRENT_CLAMP_STEP (R449): die `a` is above its clamp where the flag is set. -/
def execCurrentClampStep (s : State) : Host.Outcome State Fault Refusal :=
  event (fun s =>
    let up := s.arg.flag
    (clustersOf s.arg.a).foldl (fun s p =>
      let x := s.powerOf p
      (s.setPower p { x with clamp := if up then min 7 (x.clamp + 1) else x.clamp - 1 }).applyPower p) s) s

/-- HEARTBEAT_BEAT (R450): ignored while lapsed. -/
def execHeartbeatBeat (s : State) : Host.Outcome State Fault Refusal :=
  event (fun s =>
    let d := s.arg.d
    (if s.hub.lapsed then s else { s with hub := { s.hub with lastBeat := s.time } }).devDone d) s
/-- HEARTBEAT_SIGNIN (R450): the stored values take effect. -/
def execHeartbeatSignin (s : State) : Host.Outcome State Fault Refusal :=
  event (fun s =>
    let d := s.arg.d
    let s := { s with hub := { s.hub with lapsed := false, lastBeat := s.time } }
    ((s.applyAll.postOnce .heartbeatLapse).postOnce .schedulerPass).devDone d) s
/-- HEARTBEAT_LAPSE (R450): 1 ms without a beat. -/
def State.lapse (s : State) : State :=
  if s.hub.lapsed then s
  else if s.time < s.hub.lastBeat + 1000000 then s.again .heartbeatLapse
  else (({ s with hub := { s.hub with lapsed := true } }).applyAll).postOnce .schedulerPass
def execHeartbeatLapse (s : State) : Host.Outcome State Fault Refusal := event State.lapse s

/-! ### Isolation (R409, R410) -/

/-- A block on an isolated die is lost (R410 step 3): what it had released may still be performed.
(DEDUCED, notes/assumptions 60; unsafe.) -/
def State.loseBlock (s : State) (die b : Nat) : State :=
  let x := s.block b
  let s := s.record x.ctx 5 { s.blockRec b with cause := 4 * 2 ^ 28 + 0x1B, word := die * 256 + 0xF0 }
  let (loads, s) := s.coin
  let s := { s with
    accesses := s.accesses.filter (fun a => a.block != b || keptAtEnd loads a), copies := s.copies.filter (fun y => y.block != b)
    bindings := s.bindings.filter (fun y => !(y.launch == x.launch && y.idx == x.idx)) }
  let u := unitOfBlock b
  let c := s.core u
  let s := s.setCore u { c with requests := [], waiters := [], scan := [], check := none }
  ((s.addDiscards x.launch x.discards).countLost x.launch x.idx u).removeBlock b
/-- An image bound to a unit of the die is lost, and its frame freed. -/
def State.loseFrame (s : State) (die : Nat) (f : Frame) : State :=
  let s := s.record f.ctx 5 { launch := f.launch, block := f.block, unit := f.unit, region := f.rv.num, ctx := f.ctx, cause := 4 * 2 ^ 28 + 0x1B, word := die * 256 + 0xF0 }
  (({ s with
    frames := tdel s.frames f.num, bindings := s.bindings.filter (fun y => !(y.launch == f.launch && y.idx == f.block)) } : State).addDiscards
    f.launch f.info.discards).countLost f.launch f.block f.unit

/-- Requests aimed at a die are answered with an error (R410 step 2): a slot's waiter traps with unit lost. -/
def State.failAimed (s : State) (die : Nat) : State :=
  (s.accesses.filter (fun a => !a.sent && a.elems.any (fun el => !el.done && match el.loc with
    | .dev pa => decide (2 ^ 41 ≤ pa) && decide (pa < 3 * 2 ^ 40) && (pa - 2 ^ 41) / 2 ^ 24 == die
    | _ => false))).foldl (fun s a => s.complete a.id [] (some { cause := 0x1B })) s

/-- A chiplet is isolated (R410). -/
def State.isolateDie (s : State) (die : Nat) : State :=
  let onDie (u : Nat) : Bool := u / 256 == die
  let s := { s with hub := { s.hub with isolated := sinsert s.hub.isolated die } }
  let s := s.failAimed die
  let s := if die / 16 = 4 then
      let mine (p : Nat) : Bool := p / 8 == die % 16
      let s : State := { s with hub := { s.hub with ports := s.hub.ports.map (fun (p : Nat × Port) => if mine p.1 then (p.1, { p.2 with st := 0 }) else p) }, held := s.held.filter (fun q => !mine q.1) }
      (s.failOutstanding (fun o => mine o.port) 0x0A).watchPaths
    else s
  let bs := s.blocks.filter (fun b => b.2.present && onDie (unitOfBlock b.1))
  let fs := s.frames.filter (fun f => onDie f.2.unit)
  let gangs := ((bs.map (·.2.launch)) ++ fs.map (·.2.launch)).filter (fun n => (s.launchOf n).pclass == 0)
  let hit := (bs.map (·.2.launch)) ++ fs.map (·.2.launch)
  let s := bs.foldl (fun s b => s.loseBlock die b.1) s
  let s := fs.foldl (fun s f => s.loseFrame die f.2) s
  let s := gangs.eraseDups.foldl (fun s n => s.terminate n 0x12) s.endSaves
  let s := { s with
    cores := s.cores.filter (fun c => !onDie c.1)
    lines := s.lines.filter (fun c => !(onDie c.1 || (die / 16 == 2 && c.1 == 65536 + die % 16))) }
  hit.eraseDups.foldl (fun s n => s.endLaunch n) s

/-- The isolation register says that the isolation or reset has finished. -/
def State.isoDone (s : State) : State := { s with hub := { s.hub with isoBusy := false, isoDone := true } }
def State.isoBegin (s : State) : State := { s with hub := { s.hub with isoBusy := true } }
/-- ISOLATE (R409, R410): the die that the register names; then the hub sets done. -/
def State.isolate (s : State) : State :=
  let arg := s.arg
  if arg.flag then s.isoDone
  else ((s.isoBegin.isolateDie s.hub.isoDie).devDone arg.d).post .isolate { flag := true }
def execIsolate (s : State) : Host.Outcome State Fault Refusal := event State.isolate s

/-! ### Self-test (R16-R18, R31) -/

/-- Implemented unit bytes of a die kind (R18). -/
def unitBytes (kind : Nat) : List Nat :=
  match kind with
  | 0 => List.range 0xF0
  | 1 => List.range 0x14 ++ [0xF0]
  | 2 => List.range 4 ++ [0x10, 0xF0]
  | 3 => List.range 8 ++ [0x10, 0xF0]
  | 4 => List.range 8 ++ [0x10, 0xF0]
  | _ => List.range 32
/-- The dies of the package, 16·kind + index (R16). -/
def allDies : List Nat := [0] ++ (List.range 8).map (16 + ·) ++ (List.range 4).map (32 + ·) ++ [48, 64, 65] ++ (List.range 8).map (80 + ·)

/-- The adapter of a die has failed: every other unit of the die is fenced with result 0x08 (R31).
(DEDUCED, notes/assumptions 68; safe.) -/
def State.fenceDie (s : State) (die : Nat) : State :=
  { s with boot := { s.boot with tests := ((unitBytes (die / 16)).filter (· != 0xF0)).foldl (fun t b =>
      tput t (die * 256 + b) (8, (tget (0, 0) t (die * 256 + b)).2)) s.boot.tests } }
/-- A unit's self-test ends with a result and detail; an adapter that fails takes its die with it (R31). -/
def State.setTest (s : State) (u r d : Nat) : State :=
  let s := { s with boot := { s.boot with tests := tput s.boot.tests u (r, if r = 0 then 0 else d % 256) } }
  if u % 256 = 0xF0 && !passes r then s.fenceDie (u / 256) else s
/-- A die's self-test: each unit's result and detail, its adapter's last. The results 6 and 8 are enumeration's and a failed adapter's. -/
def State.selfTestDie (s : State) (die : Nat) : State :=
  let n := s.count
  (unitBytes (die / 16)).foldl (fun s b =>
    let r := Config.selfTest n (die * 256 + b)
    let code := [0, 1, 2, 3, 4, 5, 7].getD (r.1 % 7) 0
    s.setTest (die * 256 + b) code r.2) { s with count := s.count + 1 }

/-- The mailbox versions that a die speaks, and whether two ranges meet (R19, R21). -/
def dieRange (die : Nat) : Nat × Nat := (field (rawCapability die) 160 16, field (rawCapability die) 176 16)
def rangesMeet (a b : Nat × Nat) : Bool := decide (max a.1 b.1 ≤ min a.2 b.2)
/-- A chiplet whose capability table does not suit is fenced (R21). -/
def State.enumerateDie (s : State) (die : Nat) : State :=
  if 1 ≤ die / 16 ∧ die / 16 ≤ 4 ∧ !s.dieFenced die ∧ !(capabilityOk die && rangesMeet (dieRange 0) (dieRange die)) then
    s.setTest (die * 256 + 0xF0) 6 0
  else s
/-- The ports of a link chiplet after its self-test (R363): their registers at reset, a fenced port down for good, the others training once
the die's link firmware runs (R26). -/
def State.trainPorts (s : State) (die : Nat) : State :=
  (List.range 8).foldl (fun s p =>
    s.setPort (8 * (die % 16) + p) { st := if !s.unitOk (die * 256 + p) || s.dieFenced die then 4 else if s.unitOk (die * 256 + 0x10) then 1 else 0 }) s

/-- DIE_RESET (R410): an isolated die is tested and enumerated again, and a link chiplet's registers return to their reset values (R5); then
the hub sets done. -/
def State.resetDie (s : State) : State :=
  let arg := s.arg
  let die := s.hub.isoDie
  if arg.flag then s.isoDone
  else if !s.hub.isolated.contains die then s.devDone arg.d
  else
    let s := (s.isoBegin.selfTestDie die).enumerateDie die
    let s := { s with hub := { s.hub with isolated := s.hub.isolated.filter (· != die) } }
    let s := if die / 16 = 4 then s.trainPorts die else s
    ((s.postOnce .schedulerPass).devDone arg.d).post .dieReset { flag := true }
def execDieReset (s : State) : Host.Outcome State Fault Refusal := event State.resetDie s

/-! ### The safe enumerated state (R32), link failures (R409, R22) -/

/-- A command is answered: return code and payload; vector 0 is raised where the host has enabled it (R38). -/
def State.answer (s : State) (rc : Nat) (out : List Byte) : State :=
  let m := s.hub.mailbox
  let s := { s with hub := { s.hub with mailbox := { m with replies := m.replies ++ [(rc, out)] } } }
  if s.hub.msixOn then s.raiseVector 0 else s
/-- The command that awaits the supervisor is completed. -/
def State.completeCommand (s : State) (rc : Nat) (out : List Byte) : State :=
  let m := s.hub.mailbox
  if m.pend then ({ s with hub := { s.hub with mailbox := { m with pend := false } } } : State).answer rc out else s
/-- Return codes of CXL 3.1: unsupported, busy with a background operation, aborted, invalid payload length.
(PRESUMED, notes/assumptions 10; unsafe.) -/
def rcUnsupported : Nat := 3
def rcBusy : Nat := 6
def rcAborted : Nat := 0x12
def rcLength : Nat := 0x16
/-- The host's own events, which no state of the device takes away. -/
def isHostEvent (i : Instr) : Bool :=
  [Instr.mailboxCommand, .hostCxlMemAccess, .cxlReset, .cxlLinkTraining, .msixUnmask, .hostSnoop].contains i
/-- The device enters the safe enumerated state (R32): no die but the hub runs, and no memory is offered. A command that awaited the
supervisor is answered with Unsupported, as every other command is from now on.
(DEDUCED, notes/assumptions 74; unsafe.) -/
def State.enterSafe (s : State) : State :=
  ({ s with
    agenda := s.agenda.filter (fun ev => isHostEvent ev.step), groups := [], blocks := [], cores := [], accesses := [], copies := []
    launches := [], pendingLaunches := [], ready := []
    bindings := [], frames := [], moves := [], outstanding := [], held := [], lines := [], codePast := [], codeInv := [], dirty := []
    hub := { s.hub with lapsed := true, power := s.hub.power.map (fun (p : Nat × Power) =>
      (p.1, { p.2 with applied := 7, appliedBias := 0, relock := false })) }
    boot := { s.boot with safe := true, memActive := false, hdmSize := 0 } } : State).completeCommand rcUnsupported []
/-- The control chiplet's dirty lines, each of a free choice among those it has written, are poisoned; the device raises viral where there
is one (R22, R35).
(DESIGN CHOICE, notes/assumptions 16; safe.) -/
def State.poisonDirty (s : State) : State :=
  s.dirty.foldl (fun s l =>
    let (b, s) := s.coin
    if b then { s.poisonGranules ((List.range 8).map (8 * l + ·)) with boot := { s.boot with viral := true } } else s) s
/-- UCIE_LINK_FAILURE (R409): the hub isolates die `a` by itself; the control chiplet's loss leaves the safe state. -/
def execUcieLinkFailure (s : State) : Host.Outcome State Fault Refusal :=
  event (fun s =>
    let die := s.arg.a
    if die = 48 then ({ s with hub := { s.hub with isolated := sinsert s.hub.isolated 48 } } : State).poisonDirty.enterSafe
    else if s.dieAt die && !s.hub.isolated.contains die then s.isolateDie die
    else s) s

end Sys2Proof.Machine
end

