-- ==== Sys2Proof/Machine/Boot.lean ====
section
/-! DEFINITION. Power-on (01 R26-R33), the host's link and memory (R35, R36), interrupts (R38), the mailbox (R39, R40), firmware (22
R451-R453) and snoops (09 R248). -/

namespace Sys2Proof.Machine

/-! ### The mailbox's answers (R39) -/

/-- Bytes of the mailbox's payload. -/
def State.payload (s : State) (o n : Nat) : Nat := leNat ((List.range n).map (fun i => mread s.hub.mailbox.payload (o + i)))
/-- The supervisor answers a command of one of its opcodes with a status byte and what it changes.
(DESIGN CHOICE, notes/assumptions 15; safe.) -/
def State.supervisorAnswers (s : State) (opcode : Nat) (f : State → List Byte × State) : State :=
  let m := s.hub.mailbox
  if m.pend && m.opcode == opcode then
    let (out, s) := f s
    s.completeCommand 0 out
  else s

/-! ### The boot log (R33) -/

/-- An entry of the boot log; the oldest of 256 goes. -/
def State.bootLog (s : State) (step unit status : Nat) : State :=
  let l := s.boot.log ++ [s.time % 2 ^ 64 * 2 ^ 64 + step * 2 ^ 56 + unit * 2 ^ 32 + status]
  { s with boot := { s.boot with log := l.drop (l.length - 256) } }

/-! ### Images in the flash (R27-R30) -/

/-- An entry of a region's directory: offset and length, or none where it is malformed. Region 0 is main, 1 recovery. -/
def State.imageAt (s : State) (region kind : Nat) : Option (Nat × Nat) :=
  let e := s.num (2 ^ 42 + region * 2 ^ 23 + 16 * kind) 16
  let o := field e 0 40
  let n := field e 40 40
  if o % 4096 ≠ 0 ∨ field e 80 48 ≠ 0 ∨ 2 ^ 23 < o + n then none else some (o, n)
def State.imageBytes (s : State) (region kind : Nat) : Option (List Byte) :=
  (s.imageAt region kind).map (fun p => s.bytes (2 ^ 42 + region * 2 ^ 23 + p.1) p.2)
/-- The key that an image carries is that of the slot it names, and the slot is not revoked (R27, R28). -/
def imageKeyOk (bs : List Byte) : Bool :=
  let h := Config.imageHeader bs
  decide (h.slot < 4) && sha384 h.key == Config.keyDigest h.slot && !Config.keyRevoked h.slot
/-- An image's signature holds for the header, its signature excluded, and the body (R27). -/
def imageSigned (bs : List Byte) : Bool :=
  let h := Config.imageHeader bs
  Config.ecdsaHolds h.key (sha384 (h.signed ++ (bs.take h.length).drop h.size)) h.signature
/-- An image passes by key and signature (R28). -/
def imageVerifies (bs : List Byte) : Bool := imageKeyOk bs && imageSigned bs
/-- A main image is accepted (R28): status 0, 1 key or signature, 2 rollback. -/
def State.imageStatus (s : State) (kind : Nat) (bs : List Byte) : Nat :=
  if !imageVerifies bs then 1 else if Config.imageVersion bs < tget 0 s.boot.counters kind then 2 else 0
/-- The status of the main set, and whether the recovery set verifies. -/
def State.mainStatus (s : State) : Nat :=
  ((List.range 4).map (fun k => match s.imageBytes 0 k with
    | some bs => s.imageStatus k bs
    | none => 1)).foldl (fun a b => if a = 0 then b else a) 0
def State.recoveryOk (s : State) : Bool :=
  (List.range 4).all (fun k => match s.imageBytes 1 k with
    | some bs => imageVerifies bs
    | none => false)
/-- The active image of a kind after power-on. -/
def State.activeImage (s : State) (kind : Nat) : List Byte := (s.imageBytes (if s.boot.recovery then 1 else 0) kind).getD []
/-- A write or erase of flash bytes by HUB.bks, the one agent that writes the flash (R29, R30): false where it completes with an error and
changes nothing, which is wherever it reaches the recovery region while FLASH_WP is high. -/
def State.flashWrite (s : State) (o : Nat) (bs : List Byte) : Bool × State :=
  if 2 ^ 24 < o + bs.length || (Config.flashWriteProtected && decide (2 ^ 23 < o + bs.length)) then (false, s) else (true, s.write (2 ^ 42 + o) bs)
/-- The units that an image kind runs on: CT0, the power controller, the links' firmware cores, the matrix cores. -/
def imageUnits (kind : Nat) : List Nat :=
  match kind with
  | 0 => [12288]
  | 1 => [0xEC]
  | 2 => [0x4010, 0x4110]
  | _ => unitsOf .lattice ++ unitsOf .stream
/-- An image runs on a unit: the versions that it brings (R453), and for microcode the library that it writes (R293). -/
def State.setVersion (s : State) (unit kind : Nat) (bs : List Byte) : State :=
  { s with boot := { s.boot with
      versions := tput s.boot.versions (4 * unit + kind) (Config.imageVersion bs, Config.imageRange bs)
      library := if kind = 3 then tput s.boot.library unit bs else s.boot.library } }

/-! ### Power-on (R26) -/

/-- The device as step 1 finds it: what fuses, flash, the host and other chips hold stays. -/
def State.restart (s : State) : State :=
  { State.reset with
    count := s.count, nextId := s.nextId, agenda := [], mem := s.mem.filter (fun e => decide (2 ^ 42 ≤ e.1) && (decide (e.1 < 2 ^ 48) || decide (2 ^ 60 ≤ e.1)))
    sentPackets := s.sentPackets
    hub := { State.reset.hub with
      msixSent := s.hub.msixSent, hostReads := s.hub.hostReads, config := s.hub.config, msixTable := s.hub.msixTable, mailbox := { State.reset.hub.mailbox with replies := s.hub.mailbox.replies } }
    boot := { State.reset.boot with counters := s.boot.counters } }

/-- A unit has failed its test. -/
def State.failed (s : State) (u : Nat) : Bool := !passes (tget (0, 0) s.boot.tests u).1
/-- Units whose failure leaves the device in the safe state: any of the hub, any of the control chiplet but a single core (R31). -/
def State.fatalUnit (s : State) : Option Nat :=
  ((s.boot.tests.filter (fun t => s.failed t.1)).find? (fun t => decide (t.1 < 256) || (t.1 / 256 == 48 && decide (0x10 ≤ t.1 % 256)))).map (·.1)
/-- The interleave mode (R24): none where neither half is healthy. -/
def State.interleave (s : State) : Option (Option Nat) :=
  let bad (i : Nat) : Bool := (List.range 32).any (fun c => s.failed ((80 + i) * 256 + c))
  if (List.range 8).all (fun i => !bad i) then some none
  else if (List.range 4).all (fun i => !bad i) then some (some 0)
  else if (List.range 4).all (fun i => !bad (4 + i)) then some (some 4)
  else none

/-- The supervisor image is copied to HBM at a place of a free choice, with context 0's tables behind it, and CT0.0 starts (R131), a CT0.0
fenced alone too: R31 leaves the device running and gives the supervisor no other core. No instruction cache holds anything before it.
(DESIGN CHOICE, notes/assumptions 13; unsafe.) -/
def State.startSupervisor (s : State) : State :=
  let bs := s.activeImage 0
  let n := max 1 ((bs.length + 65535) / 65536)
  let room := s.hbmTop / 65536 - (n + 1 + (16 * n + 16) / 65536)
  let (w, s) := s.freeWord
  let base := w % max 1 room * 65536
  let tab := base + n * 65536
  let s := s.write base bs
  let s := s.write tab (leBytes 16 (0xFF * 2 ^ 112 + 2 ^ 111 + n * 2 ^ 86 + (tab + 16) * 2 ^ 32))
  let s := (List.range n).foldl (fun s i => s.write (tab + 16 + 16 * i) (leBytes 16 ((base + 65536 * i) * 2 ^ 64 + 2 ^ 47))) s
  let s := { s.setContext 0 { otBase := tab, otCount := 1, bound := true } with codePast := [] }
  s.startGroup 0 0 0 (Config.imageEntry bs % 2 ^ 40) 0

/-- Entries of the boot log for the units that a step has newly fenced with results in `rs` (R33). -/
def State.logFailures (s : State) (step cls : Nat) (rs : List Nat) : State :=
  s.boot.tests.foldl (fun s t => if rs.contains t.2.1 then s.bootLog step t.1 (cls * 2 ^ 24) else s) s
/-- One step of power-on, and the next posted. Which events get an entry of the boot log is not given: the model writes one for each step
that ends, with status 0, and one for each failure of a set of images, of a unit's self-test (class 3), of a chiplet's enumeration (class 4)
and of the HBM (class 5), with action 0 and detail 0.
(DESIGN CHOICE, notes/assumptions 75; unsafe.) -/
def State.powerOn (s : State) : State :=
  let next (s : State) (k : Nat) : State := ({ s with boot := { s.boot with step := k - 1 } }.bootLog (k - 1) 0xFFFF 0).post .powerOnReset { a := k }
  let safe (s : State) (k : Nat) : State := ({ s with boot := { s.boot with step := k } }).enterSafe
  match s.arg.a with
  | 0 | 1 => next (s.restart.post .cxlLinkTraining) 2
  | 2 =>
    let st := s.mainStatus
    if st = 0 then next s 3
    else
      let s := (s.bootLog 2 0xFFFF (st * 2 ^ 24))
      if s.recoveryOk then next { s with boot := { s.boot with recovery := true } } 3 else safe (s.bootLog 2 0xFFFF (2 ^ 24)) 2
  | 3 => next { s with hub := { s.hub with power := [] } } 4
  | 4 =>
    let s := allDies.foldl (fun s d => s.selfTestDie d) s
    ({ s with boot := { s.boot with step := 4 } }).post .powerOnReset { a := 5 }
  | 5 =>
    let s := (s.logFailures 4 3 [1, 3, 4, 5, 7, 8]).bootLog 4 0xFFFF 0
    match s.fatalUnit with
    | some _ => safe s 4
    | none =>
      let s := (allDies.foldl (fun s d => s.enumerateDie d) s).logFailures 5 4 [6]
      match s.fatalUnit, s.interleave with
      | some _, _ => safe s 5
      | none, none => safe (s.bootLog 5 0xFFFF (5 * 2 ^ 24)) 5
      | none, some h => next { s with boot := { s.boot with half := h } } 6
  | _ =>
    if s.boot.step ≠ 5 then s
    else
      let s := (List.range 4).foldl (fun s k => ((imageUnits k).filter (fun u => k != 3 || s.healthy u)).foldl (fun s u => s.setVersion u k (s.activeImage k)) s) s
      let s := [64, 65].foldl (fun s d => s.trainPorts d) s
      let s := s.startSupervisor
      { s with boot := { s.boot with step := 6, linkRun := 3 } }.bootLog 6 0xFFFF 0
/-- POWER_ON_RESET (R26). -/
def execPowerOnReset (s : State) : Host.Outcome State Fault Refusal := event State.powerOn s

/-- SELF_TEST_TIMEOUT (R31): during step 4 a unit's test has not finished in 10 ms.
(DESIGN CHOICE, notes/assumptions 14; safe.) -/
def execSelfTestTimeout (s : State) : Host.Outcome State Fault Refusal :=
  event (fun s =>
    let (w, s) := s.freeWord
    let u := s.arg.a % 65536
    if s.boot.step = 4 ∧ allDies.contains (u / 256) ∧ (unitBytes (u / 4096)).contains (u % 256) then s.setTest u 4 w else s) s

/-! ### The host's link and memory (R35, R36), snoops (R248) -/

/-- CXL_LINK_TRAINING (R35): the width and speed that training finds.
(DESIGN CHOICE, notes/assumptions 69; unsafe.) -/
def execCxlLinkTraining (s : State) : Host.Outcome State Fault Refusal :=
  event (fun s =>
    let (i, s) := s.choose 3
    let (j, s) := s.choose 4
    { s with boot := { s.boot with linkWidth := 8 / 2 ^ i, linkSpeed := 64 / 2 ^ j } }) s
/-- CXL_RESET (R35): as Reset Device. -/
def execCxlReset (s : State) : Host.Outcome State Fault Refusal := event (fun s => s.restart.post .powerOnReset) s

/-- The features of R35 that the host port refuses: 68-byte flit mode, HDM-D, multiple logical devices or pooling or dynamic capacity,
port-based routing, IDE. They have the numbers 0 to 4; the features from 5 up are supported. -/
def refusedFeature (f : Nat) : Bool := decide (f < 5)
/-- The configuration space of the host port (R26, R35): a byte of a refused feature's capability reads 0, and a write to it changes
nothing, as for an absent feature.
(PRESUMED, notes/assumptions 76; safe.) -/
def State.configRead (s : State) (o : Nat) : Byte :=
  if (Config.configFeature o).any refusedFeature then 0 else Config.configByte o ^^^ mread s.hub.config o
def State.configWrite (s : State) (o : Nat) (x : Byte) : State :=
  if (Config.configFeature o).any refusedFeature then s
  else { s with hub := { s.hub with config := mwrite s.hub.config o ((mread s.hub.config o &&& ~~~(Config.configMask o)) ||| ((Config.configByte o ^^^ x) &&& Config.configMask o)) } }

/-- What an offset of the memory BARs reaches (R37): BAR 0-1 the doorbells, BAR 2-3 the mailbox, component and MSI-X registers. -/
inductive HostPlace where
  | doorbell (q o : Nat)
  | mailbox (o : Nat)
  | component (o : Nat)
  | vector (v o : Nat)
  | pendingBits (o : Nat)
  | none
  deriving DecidableEq, Repr
def hostPlace (bar o : Nat) : HostPlace :=
  if bar = 1 then (if o < 2 ^ 20 then .doorbell (o / 4096) (o % 4096) else .none)
  else if o < 0x1000 then .mailbox o
  else if o < 0x2000 then .component (o - 0x1000)
  else if 0x8000 ≤ o ∧ o < 0xA000 then .vector ((o - 0x8000) / 16) (o % 16)
  else if 0xA000 ≤ o ∧ o < 0xA040 then .pendingBits (o - 0xA000)
  else .none
/-- The offset of the mailbox's capabilities among the mailbox registers, and the payload size in them: 2,048 bytes as a power of two (R39).
(PRESUMED, notes/assumptions 76; unsafe.) -/
def mailboxCapabilities : Nat := 0x20
def payloadLog2 : Byte := 11
/-- A byte that the host reads through a BAR: reserved offsets are zero.
(PRESUMED, notes/assumptions 76; unsafe.) -/
def State.barRead (s : State) (bar o : Nat) : Byte :=
  match hostPlace bar o with
  | .doorbell q i => BitVec.ofNat 8 (s.regImage (.doorbell q) / 2 ^ (8 * i))
  | .mailbox i => if i = mailboxCapabilities then (Config.barByte i 0 &&& 0xE0) ||| payloadLog2 else Config.barByte i s.count
  | .component i => Config.barByte (0x1000 + i) s.count
  | .vector v i => if i = 12 then (if bitAt s.hub.msixMask v then 1 else 0) else if 12 < i then 0 else mread s.hub.msixTable (16 * v + i)
  | .pendingBits i => BitVec.ofNat 8 (field s.hub.msixPend (8 * i) 8)
  | .none => 0
/-- What the host writes through a BAR: a doorbell, an entry of the MSI-X table or its mask bit; the mailbox's doorbell is an event of its
own (MAILBOX_COMMAND), and reserved offsets are discarded. -/
def State.barWrite (s : State) (bar o : Nat) (bs : List Byte) : State :=
  match hostPlace bar o with
  | .doorbell q i => s.post .doorbellWrite { a := 2 ^ 41 + 0x100000 + 0x1000 * q + i, data := bs, flag := true }
  | .vector v i =>
    let s := { s with hub := { s.hub with msixTable := mwrites s.hub.msixTable (16 * v + i) (bs.take (12 - i)) } }
    if i ≤ 12 ∧ 12 < i + bs.length then s.post .msixUnmask { a := v, flag := bitAt (bs.getD (12 - i) 0).toNat 0 } else s
  | _ => s

/-- HOST_CXL_MEM_ACCESS (R36, R37): `b` bytes at offset `a` of the HDM range (`c` = 0), of BAR 0-1 (1), of BAR 2-3 (2) or of configuration
space (3), which answers in every state; a write clears tags (R59). -/
def State.hostAccess (s : State) : State :=
  let a := s.arg.a
  let n := if s.arg.flag then s.arg.data.length else s.arg.b
  let answer (bs : List Byte) (pz : Bool) : State :=
    { s with hub := { s.hub with hostReads := s.hub.hostReads ++ [(s.arg.c * 2 ^ 64 + a, bs, pz)] } }
  match s.arg.c with
  | 0 =>
    if !s.boot.memActive || s.boot.hdmSize < a + n then s
    else if s.arg.flag then s.write a s.arg.data
    else answer (s.bytes a n) (s.poisoned a n)
  | 3 =>
    if s.arg.flag then s.arg.data.zipIdx.foldl (fun s p => s.configWrite (a + p.2) p.1) s
    else answer ((List.range n).map (fun i => s.configRead (a + i))) false
  | bar =>
    if s.boot.safe then (if s.arg.flag then s else answer ((List.range n).map (fun i => if bar = 2 then s.barRead bar (a + i) else 0)) false)
    else if s.arg.flag then s.barWrite bar a s.arg.data
    else answer ((List.range n).map (fun i => s.barRead bar (a + i))) false
def execHostCxlMemAccess (s : State) : Host.Outcome State Fault Refusal := event State.hostAccess s

/-- HOST_SNOOP (R248): the line of key `a` leaves the last-level cache; host memory then holds what the host writes there. -/
def execHostSnoop (s : State) : Host.Outcome State Fault Refusal :=
  event (fun s =>
    let l := s.arg.a / 128
    if s.arg.a < 2 ^ 60 then s
    else ({ s with llcHost := s.llcHost.filter (· != l) } : State).write (128 * l) (s.arg.data.take 128)) s

/-- MSIX_UNMASK (R38): vector `a` is unmasked, and a pending one sent; the flag sets the mask instead.
(PRESUMED, notes/assumptions 11; unsafe.) -/
def execMsixUnmask (s : State) : Host.Outcome State Fault Refusal :=
  event (fun s =>
    let v := s.arg.a % 512
    let h := s.hub
    if s.arg.flag then { s with hub := { h with msixMask := if bitAt h.msixMask v then h.msixMask else h.msixMask + 2 ^ v } }
    else
      let mask := if bitAt h.msixMask v then h.msixMask - 2 ^ v else h.msixMask
      if bitAt h.msixPend v then { s with hub := { h with msixMask := mask, msixPend := h.msixPend - 2 ^ v, msixSent := h.msixSent ++ [v] } }
      else { s with hub := { h with msixMask := mask } }) s

/-! ### Mailbox commands (R32, R39) -/

/-- The hub's own commands by opcode (those of CXL 3.1 as that specification numbers them, notes/assumptions 10).
(PRESUMED, notes/assumptions 10; unsafe.) -/
def hubCommand (op : Nat) : Option Instr :=
  match op with
  | 0xC000 => some .getSelfTestTable
  | 0xC001 => some .getBootLog
  | 0xC002 => some .getIdentity
  | 0xC003 => some .resetDevice
  | 0x4000 => some .identifyMemoryDevice
  | 0x0400 => some .getSupportedLogs
  | 0x0401 => some .getLog
  | 0x4200 => some .getHealthInfo
  | _ => none
/-- The commands that the supervisor answers (R40, R451). -/
def supervisorCommand (op : Nat) : Option Instr :=
  match op with
  | 0xC010 => some .stageImage
  | 0xC011 => some .activate
  | 0xC012 => some .commitCounter
  | 0xC013 => some .getVersions
  | 0xC020 => some .grantHostRange
  | 0xC021 => some .releaseHostRange
  | 0xC022 => some .listHostRanges
  | _ => none
/-- MAILBOX_COMMAND (R32, R39): opcode `a` with its payload; the flag says that the host has enabled mailbox interrupts. A payload that is
too long is refused whatever the command. In the safe state R32 answers every command but its own four with Unsupported, and R39 has the hub
answer four of CXL 3.1 in every state: the model follows R32.
(DEDUCED, notes/assumptions 74; unsafe.) -/
def State.command (s : State) : State :=
  let arg := s.arg
  let op := arg.a % 65536
  let s := { s with hub := { s.hub with msixOn := arg.flag } }
  let m := s.hub.mailbox
  if m.pend then s
  else if 2048 < arg.data.length then s.answer rcLength []
  else match hubCommand op with
    | some i => if s.boot.safe ∧ op < 0xC000 then s.answer rcUnsupported [] else s.post i { data := arg.data }
    | none =>
      if s.boot.safe then s.answer rcUnsupported []
      else if !m.signed then s.answer rcBusy []
      else
        let s := { s with hub := { s.hub with mailbox := { m with pend := true, len := arg.data.length, opcode := op, olen := 0, payload := mwrites m.payload 0 arg.data } } }
        let s := s.semAdd m.ssem 1
        match supervisorCommand op with
        | some i => s.post i {}
        | none => s
def execMailboxCommand (s : State) : Host.Outcome State Fault Refusal := event State.command s

/-- The background operation that the mailbox has reported ends: vector 0 is raised where the host has enabled it (R38). -/
def State.backgroundDone (s : State) : State := if s.hub.msixOn then s.raiseVector 0 else s
/-- MAILBOX_SIGNIN (R26 step 7, R39): the memory is offered, latched doorbells are there to be read, and the background operation that the
mailbox reported, of power-on or of an activation of the supervisor, has ended. -/
def State.signin (s : State) : State :=
  let d := s.arg.d
  let m := s.hub.mailbox
  let s := { s with
    hub := { s.hub with mailbox := { m with signed := true } }
    boot := { s.boot with step := 7, latch := false, memActive := !s.boot.safe, hdmSize := if s.boot.safe then 0 else s.hbmTop } }
  ((if m.signed then s else s.backgroundDone).bootLog 7 0xFFFF 0).devDone d
def execMailboxSignin (s : State) : Host.Outcome State Fault Refusal := event State.signin s
/-- MAILBOX_COMPLETE (R39): a write of rc completes the pending command with olen bytes of payload. -/
def State.mailboxDone (s : State) : State :=
  let arg := s.arg
  let rc := field (wroteBits (regAt arg.a).2 arg.data) 64 16
  let m := s.hub.mailbox
  (s.completeCommand rc ((List.range m.olen).map (mread m.payload))).devDone arg.d
def execMailboxComplete (s : State) : Host.Outcome State Fault Refusal := event State.mailboxDone s

/-- GET_SELF_TEST_TABLE (R31, R32): every entry, though they and a full boot log are more bytes than the payload size of R39.
(DESIGN CHOICE, notes/assumptions 77; unsafe.) -/
def execGetSelfTestTable (s : State) : Host.Outcome State Fault Refusal :=
  event (fun s => s.answer 0 (s.boot.tests.flatMap (fun t => leBytes 4 (t.1 * 65536 + t.2.1 * 256 + t.2.2)))) s
/-- GET_BOOT_LOG (R32, R33): every entry, oldest first.
(DESIGN CHOICE, notes/assumptions 77; unsafe.) -/
def execGetBootLog (s : State) : Host.Outcome State Fault Refusal := event (fun s => s.answer 0 (s.boot.log.flatMap (leBytes 16))) s
/-- GET_IDENTITY (R32). -/
def execGetIdentity (s : State) : Host.Outcome State Fault Refusal := event (fun s => s.answer 0 (Config.identityPayload s.boot.counters)) s
/-- RESET_DEVICE (R32): the command is answered and the device restarts at step 1. -/
def execResetDevice (s : State) : Host.Outcome State Fault Refusal := event (fun s => (s.answer 0 []).restart.post .powerOnReset) s

/-- A CXL 3.1 command that the hub answers from its own registers: what they hold is not given. -/
def State.answerCxl (s : State) (op : Nat) : State :=
  let n := s.count
  ({ s with count := n + 1 } : State).answer 0 (Config.cxlPayload op n)
/-- IDENTIFY_MEMORY_DEVICE (R39). -/
def execIdentifyMemoryDevice (s : State) : Host.Outcome State Fault Refusal := event (fun s => s.answerCxl 0x4000) s
/-- GET_SUPPORTED_LOGS (R39). -/
def execGetSupportedLogs (s : State) : Host.Outcome State Fault Refusal := event (fun s => s.answerCxl 0x0400) s
/-- GET_LOG (R39). -/
def execGetLog (s : State) : Host.Outcome State Fault Refusal := event (fun s => s.answerCxl 0x0401) s
/-- GET_HEALTH_INFO (R39). -/
def execGetHealthInfo (s : State) : Host.Outcome State Fault Refusal := event (fun s => s.answerCxl 0x4200) s

/-! ### Host ranges (R40)
(DESIGN CHOICE, notes/assumptions 12; unsafe.) -/

def statusByte (n : Nat) : List Byte := [BitVec.ofNat 8 n]
/-- GRANT_HOST_RANGE (R40): by the supervisor's policy; a range that is no multiple of 256 MiB, or that leaves the HDM range, is refused. -/
def execGrantHostRange (s : State) : Host.Outcome State Fault Refusal :=
  event (fun s => s.supervisorAnswers 0xC020 (fun s =>
    let o := s.payload 8 8
    let n := s.payload 16 8
    let c := s.count
    let s := { s with count := c + 1 }
    if o % 2 ^ 28 = 0 && n % 2 ^ 28 = 0 && decide (o + n ≤ s.boot.hdmSize) && Config.policy c then
      (statusByte 0, { s with hub := { s.hub with grants := s.hub.grants ++ [(s.payload 0 1, o, n)] } })
    else (statusByte 1, s))) s
/-- RELEASE_HOST_RANGE (R40). -/
def execReleaseHostRange (s : State) : Host.Outcome State Fault Refusal :=
  event (fun s => s.supervisorAnswers 0xC021 (fun s =>
    let mine (g : Nat × Nat × Nat) : Bool := g.2.1 == s.payload 8 8 && g.2.2 == s.payload 16 8
    match s.hub.grants.findIdx? mine with
    | some i => (statusByte 0, { s with hub := { s.hub with grants := s.hub.grants.eraseIdx i } })
    | none => (statusByte 1, s))) s
/-- LIST_HOST_RANGES (R40): the first 64 granted of those that stand, where there are more.
(DESIGN CHOICE, notes/assumptions 12; unsafe.) -/
def execListHostRanges (s : State) : Host.Outcome State Fault Refusal :=
  event (fun s => s.supervisorAnswers 0xC022 (fun s =>
    ((s.hub.grants.take 64).flatMap (fun g => leBytes 8 g.1 ++ leBytes 8 g.2.1 ++ leBytes 8 g.2.2), s))) s

/-! ### Firmware (R451-R453) -/

/-- Where a staged image may be put in the main region: clear of the directory and of the other kinds' images. -/
def State.stagePlaces (s : State) (kind len : Nat) : List Nat :=
  let others := (((List.range 4).filter (· != kind)).filterMap (s.imageAt 0)).filter (fun p => p.2 != 0)
  ((List.range 2048).map (· * 4096)).filter (fun o => decide (4096 ≤ o) && decide (o + len ≤ 2 ^ 23) &&
    others.all (fun p => decide (o + len ≤ p.1) || decide (p.1 + p.2 ≤ o)))
/-- STAGE_IMAGE (R451): the payload's first byte is the kind, the rest the image. -/
def execStageImage (s : State) : Host.Outcome State Fault Refusal :=
  event (fun s => s.supervisorAnswers 0xC010 (fun s =>
    let kind := s.payload 0 1 % 4
    let bs := (List.range (s.hub.mailbox.len - 1)).map (fun i => mread s.hub.mailbox.payload (i + 1))
    let st := s.imageStatus kind bs
    if st ≠ 0 then (statusByte st, s)
    else
      let ps := s.stagePlaces kind bs.length
      let (i, s) := s.choose ps.length
      match ps[i]? with
      | none => (statusByte 1, s)
      | some o =>
        let (ok, t) := s.flashWrite o bs
        let (ok', t) := t.flashWrite (16 * kind) (leBytes 16 (o + bs.length * 2 ^ 40))
        if ok && ok' then (statusByte 0, t) else (statusByte 1, s))) s

/-- The versions that an activation's image must share (R453): those of every die that its unit's die talks to. -/
def State.versionsMeet (s : State) (unit : Nat) (r : Nat × Nat) : Bool :=
  let talks (d : Nat) : Bool := d != unit / 256 && (unit / 256 == 0 || d == 0)
  (allDies.filter (fun d => talks d && decide (1 ≤ d / 16 ∨ d = 0) && decide (d / 16 ≤ 4) && !s.hub.isolated.contains d)).all (fun d => rangesMeet r (dieRange d)) &&
    s.boot.versions.all (fun v => !talks (v.1 / 4 / 256) || rangesMeet r v.2.2)
/-- The status of an activation of the staged image. -/
def State.activateStatus (s : State) (kind unit : Nat) (bs : List Byte) : Nat :=
  if s.boot.active.isSome then 4
  else if !s.unitOk unit || s.hub.isolated.contains (unit / 256) || !(imageUnits kind).contains unit then 5
  else if s.imageStatus kind bs ≠ 0 then s.imageStatus kind bs
  else if !s.versionsMeet unit (Config.imageRange bs) then 3
  else 0
/-- What an activation does at once (R452). -/
def State.beginActivation (s : State) (kind unit : Nat) : State :=
  let s := { s with boot := { s.boot with active := some (kind, unit) } }
  match kind with
  | 0 => { s with
      hub := { s.hub with mailbox := { s.hub.mailbox with signed := false } }
      boot := { s.boot with latch := true } }
  | 1 => ({ s with hub := { s.hub with lapsed := true } } : State).applyAll
  | 2 => { s with boot := { s.boot with linkRun := putField s.boot.linkRun (unit / 256 % 16) 1 0 } }
  | _ => s
/-- The new image runs. Microcode is rewritten only while no slot of the core is busy. -/
def State.endActivation (s : State) : State :=
  match s.boot.active with
  | none => s
  | some (kind, unit) =>
    if kind = 3 ∧ (s.core unit).mslots.any (fun m => m.2.st == 1) then s.again .activate
    else
      let s := s.setVersion unit kind ((s.imageBytes 0 kind).getD [])
      { s with boot := { s.boot with
          active := none, linkRun := if kind = 2 then putField s.boot.linkRun (unit / 256 % 16) 1 1 else s.boot.linkRun } }
/-- ACTIVATE (R452, R453): payload byte 0 is the kind, bytes 2 and 3 the unit. A command pending when the supervisor is replaced is
aborted (R39). -/
def State.activate (s : State) : State :=
  if s.arg.flag then s.endActivation
  else
    let m := s.hub.mailbox
    let kind := s.payload 0 1 % 4
    let unit := s.payload 2 2
    if !(m.pend && m.opcode == 0xC011) then s
    else
      let st := s.activateStatus kind unit ((s.imageBytes 0 kind).getD [])
      if st ≠ 0 then s.completeCommand 0 (statusByte st)
      else
        let s := if kind = 0 then s.completeCommand rcAborted [] else s.completeCommand 0 (statusByte 0)
        (s.beginActivation kind unit).post .activate { flag := true }
def execActivate (s : State) : Host.Outcome State Fault Refusal := event State.activate s

/-- COMMIT_COUNTER (R451): payload byte 0 is the kind. -/
def execCommitCounter (s : State) : Host.Outcome State Fault Refusal :=
  event (fun s => s.supervisorAnswers 0xC012 (fun s =>
    let kind := s.payload 0 1 % 4
    let v := ((imageUnits kind).map (fun u => (tget (0, 0, 0) s.boot.versions (4 * u + kind)).1)).headD 0
    (statusByte 0, { s with boot := { s.boot with counters := tput s.boot.counters kind (max (tget 0 s.boot.counters kind) v) } }))) s
/-- GET_VERSIONS (R451). -/
def execGetVersions (s : State) : Host.Outcome State Fault Refusal :=
  event (fun s => s.supervisorAnswers 0xC013 (fun s => (Config.versionsPayload s.boot.versions, s))) s

end Sys2Proof.Machine
end

