-- ==== Sys2Proof/Machine/Perform.lean ====
section
/-! DEFINITION. The port's checks of an access (02 R57 steps 6 to 8, 09 R246) and its performance (10 R267-R270, 13 R337-R340, 14 R344-R349,
R354; 16 R373): ACCESS_ACCEPTED, SLOT_COMPLETE and STORE_PERFORMED. -/

namespace Sys2Proof.Machine

/-! ### Acceptance -/

/-- An element's answer at the port: the failing step (0: its die is isolated), or its place and flags.
(DEDUCED, notes/assumptions 32; unsafe.) -/
def State.portElem (s : State) (a : Access) (el : Elem) : Except Nat (Loc × Nat) × State :=
  let obj := field a.hbits.toNat 104 24
  let gen := field a.hbits.toNat 96 8
  let fabric := match a.kind with
    | .fabric _ => true
    | _ => false
  let (w, s) := s.walkRange a.ctx obj gen el.obj el.n (kindOf a.group == .control && !fabric)
  match w with
  | some st => (.error st, s)
  | none =>
    match s.walk a.ctx obj gen el.obj true with
    | (.fail st, s) => (.error st, s)
    | (.ok x, s) =>
      let flags := (if extOrd x then 1 else 0) + (if extHcap x then 2 else 0) + (if fillable (unitOfGroup a.group) x then 4 else 0)
      match s.locOf a.ctx x el.obj with
      | .dev pa =>
        let writes := a.kind.op != .read
        if !s.deviceAddr pa || (List.range el.n).any (fun i => (regAt (pa + i)).1 == .none) || (writes && decide (2 ^ 42 ≤ pa)) then (.error 7, s)
        else if pa < 2 ^ 41 + 2 ^ 40 ∧ s.hub.isolated.contains ((pa - 2 ^ 41) / 2 ^ 24) then (.error 0, s)
        else (.ok (.dev pa, flags), s)
      | .remote c p => if bitAt (field a.hbits.toNat 88 8) 5 then (.ok (.remote c p, flags), s) else (.error 2, s)
      | l => (.ok (l, flags), s)

/-- The extent of an object offset is strongly ordered: an access paused there keeps its place among the group's (R349, R401). -/
def State.extentOrd (s : State) (ctx obj gen a : Nat) : Bool × State :=
  match s.walkEntry ctx obj gen with
  | (some v, s) =>
    if entCount v ≤ a / 65536 then (false, s)
    else let (x, s) := s.portRead ctx obj (1 + a / 65536) (entBase v + 16 * (a / 65536)); (extOrd x, s)
  | (none, s) => (false, s)

/-- The cause that a failing step of R57 gives. -/
def stepCause (st : Nat) : Nat := if st = 2 then 0x08 else if st = 6 then 0x06 else if st = 7 then 0x12 else 0x11

/-- A 16-byte element of a load or store in host memory is two of 8 bytes (R348), but for one of a strongly ordered extent (R267).
(DEDUCED, notes/assumptions 44; safe.) -/
def splitHost (k : AccKind) (el : Elem) : List Elem :=
  match el.loc, k with
  | .mem key, .load | .mem key, .store | .mem key, .hld | .mem key, .hst =>
    if el.n = 16 ∧ 2 ^ 60 ≤ key ∧ el.flags % 2 = 0 then
      [{ el with n := 8, data := el.data.take 8 }, { el with n := 8, off := el.off + 8, obj := el.obj + 8, loc := .mem (key + 8), data := el.data.drop 8 }]
    else [el]
  | _, _ => [el]

/-- An access's failure is found: it is to be reported to its group. -/
def State.portFails (s : State) (a : Access) (t : TrapInfo) (suspends : Bool) : State :=
  (s.setAccess { a with fail := some t, suspends := suspends }).post .portFailureReport { a := a.id }

/-- An access through a handle meets R57 steps 6 to 8. -/
def State.acceptHandle (s : State) (a : Access) : State :=
  let (rs, s) := a.elems.foldl (fun r el => let (x, s) := r.2.portElem a el; (r.1 ++ [(el, x)], s)) (([] : List (Elem × Except Nat (Loc × Nat))), s)
  let bad := rs.filterMap (fun p => match p.2 with
    | .error st => some (st, p.1)
    | .ok _ => none)
  match bad with
  | [] =>
    let els := rs.flatMap (fun p => match p.2 with
      | .ok (l, f) => splitHost a.kind { p.1 with loc := l, flags := f }
      | .error _ => [p.1])
    s.setAccess { a with accepted := true, elems := els }
  | (st, _) :: _ =>
    let m := bad.foldl (fun m p => min m p.1) st
    let obj := field a.hbits.toNat 104 24
    let (els, s) := rs.foldl (fun r p =>
      let (o, s) := if m = 8 then r.2.extentOrd a.ctx obj (field a.hbits.toNat 96 8) p.1.obj else (false, r.2)
      (r.1 ++ [{ p.1 with flags := if o then 1 else 0 }], s)) (([] : List Elem), s)
    let a := { a with elems := els }
    if m = 0 then s.complete a.id [] (some { cause := 0x1B })
    else
      let mine := (bad.filter (fun p => p.1 == m)).map (·.2)
      let low := mine.headD { lane := 0, off := 0, obj := 0, n := 0 }
      s.portFails a { cause := stepCause m, src := 1, fmask := maskOf (fun l => mine.any (fun el => el.lane == l)), addr := low.off
                      addr2 := if m = 8 then low.obj else 0, info := m * 2 ^ 24 + a.hreg } (m == 8)

/-- An access to another member's scratchpad meets R246 at that member's core. -/
def State.acceptMember (s : State) (a : Access) (b : Nat) : State :=
  let own := s.block a.block
  let x := s.block b
  let offs := a.elems.map (fun el => (el.lane, sext 64 el.off))
  let all := laneMask offs
  if !(x.present && x.launch == own.launch && x.idx + own.x % own.csize == own.idx + a.hreg) then
    s.portFails a { cause := 0x0A, src := 2, fmask := all, addr := bitsOf 64 ((offs.headD (0, 0)).2), info := 2 * 2 ^ 24 } false
  else
    match s.checkSpm b a.size a.size (a.kind == .load) offs with
    | some t => s.portFails a { t with src := 2 } false
    | none =>
      match s.wakeFor b (offs.map (fun p => p.2.toNat)) with
      | some s => s.again .accessAccepted
      | none => s.setAccess { a with accepted := true, elems := a.elems.map (fun el => { el with loc := .mem (s.spmAt b el.obj) }) }

/-- ACCESS_ACCEPTED (R396): semaphore accesses are judged where they are performed (R337). -/
def State.acceptAccess (s : State) : State :=
  match s.access s.arg.a with
  | none => s
  | some a =>
    if a.accepted || a.paused || a.fail.isSome then s
    else match a.kind with
      | .semSig .. | .semPoll _ | .semBind .. => s
      | _ => match a.member with
        | some b => s.acceptMember a b
        | none => s.acceptHandle a
def execAccessAccepted (s : State) : Host.Outcome State Fault Refusal := event State.acceptAccess s

/-! ### Order (R269, R344, R349, R354, R373) -/

/-- Two elements touch a byte in common. -/
def sameBytesAt (x y : Elem) : Bool :=
  match x.loc, y.loc with
  | .mem a, .mem b => decide (a < b + y.n) && decide (b < a + x.n)
  | .dev a, .dev b => decide (a < b + y.n) && decide (b < a + x.n)
  | .remote c a, .remote d b => c == d && decide (a < b + y.n) && decide (b < a + x.n)
  | _, _ => false
/-- Elements of two accesses touch a byte in common; those of an access that waits for residence are told by object and offset. -/
def meets (a b : Access) (x y : Elem) : Bool :=
  sameBytesAt x y || ((x.loc == .unresolved || y.loc == .unresolved) && !a.local_ && !b.local_ && a.member.isNone && b.member.isNone &&
    a.ctx == b.ctx && field a.hbits.toNat 104 24 == field b.hbits.toNat 104 24 && decide (x.obj < y.obj + y.n) && decide (y.obj < x.obj + x.n))
/-- A kind that the store queue's loads look into (R269). -/
def composes (k : AccKind) : Bool := k == .store || k == .hst
/-- A fabric access. -/
def AccKind.isFab : AccKind → Bool
  | .fabric _ | .fsig .. => true
  | _ => false
/-- Two memory forms of the fabric instructions whose order at one chip is that of issue: `fst`, `fred` and `ffadd`, or `fld` and `fld` (R379). -/
def fabPair : AccKind → AccKind → Bool
  | .fabric o, .fabric p => (o == 1) == (p == 1)
  | _, _ => false
/-- The chip that an element lies on. -/
def State.chipOf (s : State) (el : Elem) : Option Nat :=
  match el.loc with
  | .remote c _ => some c
  | .unresolved => none
  | _ => some s.hub.chip
/-- The port by which packets for a chip leave now, as an outstanding operation notes it. -/
def State.portKey (s : State) (chip : Nat) : Nat :=
  match s.routeTo chip with
  | .port k => k
  | _ => 64
/-- Element `i` of `b` is performed before any packet that leaves now for its chip: it is done, or in flight by the same port (R368, R379). -/
def State.goesFirst (s : State) (b : Access) (i : Nat) (y : Elem) (chip : Nat) : Bool :=
  y.done || s.outstanding.any (fun o => o.access == b.id && o.elems.contains i && o.port == s.portKey chip)
/-- An access needs no acceptance before it is performed. -/
def AccKind.atSem : AccKind → Bool
  | .semSig .. | .semPoll _ | .semBind .. => true
  | _ => false
/-- It is known where the access goes, or it waits for residence. -/
def Access.placed (a : Access) : Bool := a.accepted || a.paused || a.kind.atSem

/-- The accesses of its group that come before an access in its queue are performed, and those of the other queue are placed. One that waits for
residence keeps its place (R401).
(DEDUCED, notes/assumptions 50; unsafe.) -/
def State.queueReady (s : State) (a : Access) : Bool :=
  s.accesses.all (fun b =>
    b.group != a.group || b.id == a.id ||
    (if a.kind.inLoads then
       !(b.id < a.id && b.kind.inLoads) && (!(b.id < a.id && (b.kind.inStores || b.kind.isFab)) || b.placed)
     else if a.kind.inStores then
       !(b.kind.inStores && b.release != 0 && b.release < a.release) && (!(b.id < a.id && (b.kind.inLoads || b.kind.isFab)) || b.placed)
     else true))
/-- The accesses that must be performed first are; a FLAG waits only for those to its own chip (R354). -/
def State.afterDone (s : State) (a : Access) : Bool :=
  a.after.all (fun id => match s.access id with
    | none => true
    | some b => match a.kind with
      | .fsig _ chip _ _ => b.accepted && b.elems.all (fun el => el.done || match el.loc with
          | .remote c _ => c != chip
          | .unresolved => false
          | _ => true)
      | _ => false)
/-- A `sem.poll` comes after its group's earlier signals to the same semaphore: only later loads that do not overlap may go first (R338). -/
def State.signalsDone (s : State) (a : Access) : Bool :=
  match a.kind with
  | .semPoll v => s.accesses.all (fun b => b.group != a.group || decide (a.id ≤ b.id) || match b.kind with
      | .semSig w _ => w != v && s.semOf b.ctx w != s.semOf a.ctx v
      | _ => true)
  | _ => true
/-- An access may be performed, its elements apart. -/
def State.accessReady (s : State) (a : Access) : Bool :=
  s.signalsDone a &&
  (a.accepted || a.kind.atSem) && !a.paused && a.fail.isNone && a.release != 0 && !a.sent && s.afterDone a && s.queueReady a

/-- Element `i` of `a` comes after the earlier access `b` of its group: bytes in common, but for a load and a store whose bytes it composes
(R269), strongly ordered elements (R349), and pairs of R379 at one chip. -/
def State.comesAfter (s : State) (a : Access) (el : Elem) (b : Access) : Bool :=
  let ord := el.flags % 2 == 1
  b.elems.zipIdx.all (fun (y, j) =>
    y.done ||
      ((!meets a b el y || (a.kind.inLoads && composes b.kind && (match y.loc with | .mem _ | .remote .. => true | _ => false))) &&
        !(ord && y.flags % 2 == 1) &&
        (!fabPair a.kind b.kind || (match s.chipOf el, s.chipOf y with
          | some c, some d => c != d || s.goesFirst b j y c
          | _, _ => false))))

/-- Element `i` may be performed: lower lanes on its bytes first (R268, R334), strongly ordered elements in order (R349), earlier accesses
on its bytes first, except a load's own group's stores, which it composes; and a drop of its bank that comes before it (R265). -/
def State.elemReady (s : State) (a : Access) (i : Nat) (el : Elem) : Bool :=
  let ord := el.flags % 2 == 1
  !el.done && !s.inFlight a.id i &&
    (a.elems.take i).all (fun y => y.done || (!sameBytesAt y el && !(ord && y.flags % 2 == 1))) &&
    s.accesses.all (fun b => b.group != a.group || decide (a.id ≤ b.id) || s.comesAfter a el b) &&
    (match el.loc with
     | .mem key => !s.bankHeld a.id key
     | .remote c _ => !s.routeHeld c 0
     | .unresolved => false
     | _ => true)
/-- Element `i` may be performed, and where it goes to a remote chip the whole of its maximal run may (R366). -/
def State.runReady (s : State) (a : Access) (i : Nat) (el : Elem) : Bool :=
  s.elemReady a i el && (match el.loc with
    | .remote .. => (a.run (a.runStart i) 31).all (fun j => match a.elems[j]? with
        | some y => y.done || s.elemReady a j y
        | none => true)
    | _ => true)

/-! ### Performance -/

/-- An element at a device register or semaphore entry (R25, R459): a read takes the bytes; a store goes on as its own event; an atomic of
a semaphore is one change of the entry, of another register a read and a store.
(DEDUCED, notes/assumptions 43; safe.) -/
def State.performDev (s : State) (a : Access) (i : Nat) (el : Elem) (pa : Nat) : State :=
  let store (s : State) (a : Access) (bs : List Byte) : State :=
    (s.setAccess { a with sent := true }).post (storeEvent pa) { a := pa, data := bs, d := a.id }
  let rmw (op : Nat) : State :=
    let old := s.devRead pa el.n
    let a := { a with elems := a.elems.set i { el with result := old } }
    match atomNew op (leNat old) (leNat el.data) with
    | none => s.elemDone a i { el with done := true, result := old }
    | some v => match (regAt pa).1 with
      | .sem n =>
        let x := setBytes (tget 0 s.hub.sems n).toNat (pa % 8) (leBytes el.n v)
        let s := { s with hub := { s.hub with sems := tput s.hub.sems n (BitVec.ofNat 64 x) } }.semChanged n
        s.elemDone a i { el with done := true, result := old }
      | _ => store s a (leBytes el.n v)
  match a.kind.op with
  | .read => s.elemDone a i { el with done := true, result := s.devRead pa el.n }
  | .write => store s a el.data
  | .atom op => rmw op
  | .red op => rmw op
  | .other => s.elemDone a i { el with done := true }

/-- A load of a remote chip's bytes: what its group's own stores give is kept; an element that they give whole needs no packet (R269). -/
def State.composeRun (s : State) (a : Access) (i : Nat) : State :=
  let own (el : Elem) : List (Option Byte) := (List.range el.n).map (fun j => s.ownByte a.group a.id el.loc j)
  let a := { a with elems := a.elems.zipIdx.map (fun (p : Elem × Nat) =>
    if (a.run (a.runStart i) 31).contains p.2 && !p.1.done then
      let bs : List (Option Byte) := own p.1
      if bs.all (·.isSome) then { p.1 with done := true, result := bs.map (fun (b : Option Byte) => b.getD 0) } else { p.1 with own := bs }
    else p.1) }
  match a.elems[i]? with
  | some el => if el.done then s.settleAccess a else s.sendRun a i
  | none => s

/-- The scratchpad bank that an element reaches starts to wake, if it rests (R154). -/
def State.wakeElem (s : State) (el : Elem) : Option State :=
  match el.loc with
  | .mem key => s.wakeKeys [key]
  | _ => none
/-- Element `i` of an access is performed where it lies. -/
def State.performElem (s : State) (a : Access) (i : Nat) (el : Elem) : State :=
  match el.loc with
  | .mem key =>
    let (el, s) := s.performMem a i el key
    s.elemDone a i el
  | .dev pa => s.performDev a i el pa
  | .remote .. => if a.kind.inLoads then s.composeRun a i else s.sendRun a i
  | .unresolved => s

/-- `binit` is performed (R326). -/
def State.performInit (s : State) (a : Access) (bar parties : Nat) (once : Bool) : State :=
  let key := s.spmAt a.block bar
  let s := s.settleDrops a.id key
  let lost := s.dropped a.block bar && !s.dropsAfter a.id key
  if once && !lost && field (s.num key 16) 24 8 == 0xB7 then s.complete a.id []
  else
    let s := s.storeAt a.id key (leBytes 16 (bInit parties))
    let s := (s.block a.block).groups.foldl (fun s k => match (s.group k).regFor bar with
      | some i => s.setReg k i (tget 0 (s.group k).reg i &&& ~~~(2#64))
      | none => s) s
    s.complete a.id []
/-- An update of a barrier leaves for its unit; the access ends when it is applied. -/
def State.performBar (s : State) (a : Access) (bar : Nat) (u : BarUpdate) : State :=
  (s.setAccess { a with sent := true }).barUpdate a.block bar u
/-- The failure of an unmapped semaphore (R337). -/
def unmapped (n : Nat) : TrapInfo := { cause := 0x06, src := 1, addr := n, info := 0x21 * 2 ^ 24 }
/-- A binding is armed, and fires if its value is reached (R339). -/
def State.armBinding (s : State) (a : Access) (n value bar : Nat) : State :=
  let x := s.block a.block
  ({ s with bindings := s.bindings ++ [({ launch := x.launch, idx := x.idx, sem := n, value := value, bar := bar } : Binding)] }.complete a.id []).fireBindings n

/-- An access that is ready: one element of a free choice, or its one effect. -/
def State.performAccess (s : State) (a : Access) (i : Instr) : State :=
  let g := s.group a.group
  match a.kind with
  | .clean => s.complete a.id []
  | .semSig v x => match s.semOf a.ctx v with
    | some n => (s.setAccess { a with sent := true, accepted := true }).post .semaphoreAdd { a := n, b := x.toNat, d := a.id }
    | none => s.portFails a (unmapped v) false
  | .semPoll v => match s.semOf a.ctx v with
    | some n => s.complete a.id (wrS a.dst 2 (tget 0 s.hub.sems n).toNat)
    | none => s.portFails a (unmapped v) false
  | .semBind v x bar => match s.semOf a.ctx v with
    | some n => s.armBinding a n x.toNat bar
    | none => s.portFails a (unmapped v) false
  | .fsig flag chip v x => if a.error = 0 && s.routeHeld chip 0 then s.again i else s.sendSignal a flag chip v x
  | .binit bar n once =>
    if s.elemReady a 0 (a.elems.headD { lane := 0, off := 0, obj := 0, n := 0 }) then
      match s.wakeKeys [s.spmAt a.block bar] with
      | some s => s.again i
      | none => s.performInit a bar n once
    else s.again i
  | .barr bar n => s.performBar a bar (.arrive g.gidx n 0 (some a.group) (some a.id))
  | .bdrop bar => s.performBar a bar (.drop g.gidx false a.group a.id)
  | .bexp bar n => s.performBar a bar (.expect n a.id)
  | .exitDrop bar => s.performBar a bar (.drop g.gidx true a.group a.id)
  | _ =>
    let can := (List.range a.elems.length).filter (fun j => match a.elems[j]? with
      | some el => s.runReady a j el
      | none => false)
    let (c, s) := s.choose can.length
    match can[c]? with
    | none => s.again i
    | some j => match a.elems[j]? with
      | some el => match s.wakeElem el with
        | some s => s.again i
        | none =>
          let arg := s.arg
          let s := s.performElem a j el
          if (s.access a.id).isSome then s.post i arg else s
      | none => s

/-- A poll of an access in flight.
(DEDUCED, notes/assumptions 51; unsafe.) -/
def State.pollAccess (s : State) (i : Instr) : State :=
  match s.access s.arg.a with
  | none => s
  | some a => if s.accessReady a then s.performAccess a i else s.again i

/-- SLOT_COMPLETE (R143): an operation that holds a slot goes on, or completes. -/
def State.completeSlot (s : State) : State :=
  if s.arg.a ≠ 0 then s.pollAccess .slotComplete
  else if s.arg.flag then (if s.arg.data.getD 0 0 < 16 then s.longOpStep else s.supStep)
  else s.finishSlot s.arg.b s.arg.c s.arg.d id
def execSlotComplete (s : State) : Host.Outcome State Fault Refusal := event State.completeSlot s

/-- STORE_PERFORMED (R270): an access that holds no slot goes on. -/
def execStorePerformed (s : State) : Host.Outcome State Fault Refusal := event (fun s => s.pollAccess .storePerformed) s

end Sys2Proof.Machine
end

