-- ==== Sys2Proof/Machine/Dispatch.lean ====
section
/-! DEFINITION. What each step does: one arm per constructor of `Instr`, in the order of the table. -/

namespace Sys2Proof.Machine

/-- One step of the machine, by the instruction word, microinstruction or event that it runs. -/
def exec (i : Instr) (s : State) : Host.Outcome State Fault Refusal :=
  match i with
  | .sadd o => Sys2Proof.Machine.execSadd o s
  | .ssub o => Sys2Proof.Machine.execSsub o s
  | .smul o => Sys2Proof.Machine.execSmul o s
  | .smulh o => Sys2Proof.Machine.execSmulh o s
  | .sdiv o => Sys2Proof.Machine.execSdiv o s
  | .srem o => Sys2Proof.Machine.execSrem o s
  | .sand o => Sys2Proof.Machine.execSand o s
  | .sor o => Sys2Proof.Machine.execSor o s
  | .sxor o => Sys2Proof.Machine.execSxor o s
  | .sandn o => Sys2Proof.Machine.execSandn o s
  | .sshl o => Sys2Proof.Machine.execSshl o s
  | .sshr o => Sys2Proof.Machine.execSshr o s
  | .ssra o => Sys2Proof.Machine.execSsra o s
  | .smin o => Sys2Proof.Machine.execSmin o s
  | .smax o => Sys2Proof.Machine.execSmax o s
  | .sclz o => Sys2Proof.Machine.execSclz o s
  | .spop o => Sys2Proof.Machine.execSpop o s
  | .sbfx o => Sys2Proof.Machine.execSbfx o s
  | .sbfi o => Sys2Proof.Machine.execSbfi o s
  | .ssel o => Sys2Proof.Machine.execSsel o s
  | .scmp o => Sys2Proof.Machine.execScmp o s
  | .smov o => Sys2Proof.Machine.execSmov o s
  | .smovi k f => Sys2Proof.Machine.execSmovi k f s
  | .smoviHi f => Sys2Proof.Machine.execSmoviHi f s
  | .br f => Sys2Proof.Machine.execBr f s
  | .bz w64 f => Sys2Proof.Machine.execBz w64 f s
  | .bnz w64 f => Sys2Proof.Machine.execBnz w64 f s
  | .bl f => Sys2Proof.Machine.execBl f s
  | .jr f => Sys2Proof.Machine.execJr f s
  | .jl f => Sys2Proof.Machine.execJl f s
  | .split f => Sys2Proof.Machine.execSplit f s
  | .fuse f => Sys2Proof.Machine.execFuse f s
  | .exit f => Sys2Proof.Machine.execExit f s
  | .yield f => Sys2Proof.Machine.execYield f s
  | .nop f => Sys2Proof.Machine.execNop f s
  | .swait f => Sys2Proof.Machine.execSwait f s
  | .trap f => Sys2Proof.Machine.execTrap f s
  | .brk f => Sys2Proof.Machine.execBrk f s
  | .pand f => Sys2Proof.Machine.execPand f s
  | .por f => Sys2Proof.Machine.execPor f s
  | .pxor f => Sys2Proof.Machine.execPxor f s
  | .pandn f => Sys2Proof.Machine.execPandn f s
  | .pnot f => Sys2Proof.Machine.execPnot f s
  | .pmov o => Sys2Proof.Machine.execPmov o s
  | .pfroms f => Sys2Proof.Machine.execPfroms f s
  | .ptos f => Sys2Proof.Machine.execPtos f s
  | .pany f => Sys2Proof.Machine.execPany f s
  | .pall f => Sys2Proof.Machine.execPall f s
  | .ppop f => Sys2Proof.Machine.execPpop f s
  | .sget w64 f => Sys2Proof.Machine.execSget w64 f s
  | .sset w64 f => Sys2Proof.Machine.execSset w64 f s
  | .acqRegW f => Sys2Proof.Machine.execAcqRegW f s
  | .acqRegT f => Sys2Proof.Machine.execAcqRegT f s
  | .acqSpmW f => Sys2Proof.Machine.execAcqSpmW f s
  | .acqSpmT f => Sys2Proof.Machine.execAcqSpmT f s
  | .acqMslW f => Sys2Proof.Machine.execAcqMslW f s
  | .acqMslT f => Sys2Proof.Machine.execAcqMslT f s
  | .relReg f => Sys2Proof.Machine.execRelReg f s
  | .relSpm f => Sys2Proof.Machine.execRelSpm f s
  | .relMsl f => Sys2Proof.Machine.execRelMsl f s
  | .rwake f => Sys2Proof.Machine.execRwake f s
  | .rsleep f => Sys2Proof.Machine.execRsleep f s
  | .spdrop f => Sys2Proof.Machine.execSpdrop f s
  | .launch f => Sys2Proof.Machine.execLaunch f s
  | .lquery f => Sys2Proof.Machine.execLquery f s
  | .objmapEnt f => Sys2Proof.Machine.execObjmapEnt f s
  | .objmapExt f => Sys2Proof.Machine.execObjmapExt f s
  | .objmapMv f => Sys2Proof.Machine.execObjmapMv f s
  | .objinv f => Sys2Proof.Machine.execObjinv f s
  | .objinvCtx f => Sys2Proof.Machine.execObjinvCtx f s
  | .semmap f => Sys2Proof.Machine.execSemmap f s
  | .semmapQ f => Sys2Proof.Machine.execSemmapQ f s
  | .hmint f => Sys2Proof.Machine.execHmint f s
  | .vadd w64 f => Sys2Proof.Machine.execVadd w64 f s
  | .vsub w64 f => Sys2Proof.Machine.execVsub w64 f s
  | .vmul w64 f => Sys2Proof.Machine.execVmul w64 f s
  | .vmulh w64 f => Sys2Proof.Machine.execVmulh w64 f s
  | .vmad w64 f => Sys2Proof.Machine.execVmad w64 f s
  | .vand w64 f => Sys2Proof.Machine.execVand w64 f s
  | .vor w64 f => Sys2Proof.Machine.execVor w64 f s
  | .vxor w64 f => Sys2Proof.Machine.execVxor w64 f s
  | .vandn w64 f => Sys2Proof.Machine.execVandn w64 f s
  | .vshl w64 f => Sys2Proof.Machine.execVshl w64 f s
  | .vshr w64 f => Sys2Proof.Machine.execVshr w64 f s
  | .vsra w64 f => Sys2Proof.Machine.execVsra w64 f s
  | .vmin w64 f => Sys2Proof.Machine.execVmin w64 f s
  | .vmax w64 f => Sys2Proof.Machine.execVmax w64 f s
  | .vabs w64 f => Sys2Proof.Machine.execVabs w64 f s
  | .vclz w64 f => Sys2Proof.Machine.execVclz w64 f s
  | .vpop w64 f => Sys2Proof.Machine.execVpop w64 f s
  | .vbfx w64 f => Sys2Proof.Machine.execVbfx w64 f s
  | .vbfi w64 f => Sys2Proof.Machine.execVbfi w64 f s
  | .vsel w64 f => Sys2Proof.Machine.execVsel w64 f s
  | .vmov w64 f => Sys2Proof.Machine.execVmov w64 f s
  | .vmovs w64 f => Sys2Proof.Machine.execVmovs w64 f s
  | .vmovsGet w64 f => Sys2Proof.Machine.execVmovsGet w64 f s
  | .vcmp w64 f => Sys2Proof.Machine.execVcmp w64 f s
  | .vfadd t f => Sys2Proof.Machine.execVfadd t f s
  | .vfsub t f => Sys2Proof.Machine.execVfsub t f s
  | .vfmul t f => Sys2Proof.Machine.execVfmul t f s
  | .vfma t f => Sys2Proof.Machine.execVfma t f s
  | .vfmin t f => Sys2Proof.Machine.execVfmin t f s
  | .vfmax t f => Sys2Proof.Machine.execVfmax t f s
  | .vfrnd t f => Sys2Proof.Machine.execVfrnd t f s
  | .vfclass t f => Sys2Proof.Machine.execVfclass t f s
  | .vfcmp t f => Sys2Proof.Machine.execVfcmp t f s
  | .vfdot2 bf f => Sys2Proof.Machine.execVfdot2 bf f s
  | .vrcp t f => Sys2Proof.Machine.execVrcp t f s
  | .vrsqrt h f => Sys2Proof.Machine.execVrsqrt h f s
  | .vsqrt t f => Sys2Proof.Machine.execVsqrt t f s
  | .vexp2 h f => Sys2Proof.Machine.execVexp2 h f s
  | .vlog2 h f => Sys2Proof.Machine.execVlog2 h f s
  | .vsin h f => Sys2Proof.Machine.execVsin h f s
  | .vcos h f => Sys2Proof.Machine.execVcos h f s
  | .vcvt d int f => Sys2Proof.Machine.execVcvt d int f s
  | .vpack k f => Sys2Proof.Machine.execVpack k f s
  | .vunpack k f => Sys2Proof.Machine.execVunpack k f s
  | .vmxq k f => Sys2Proof.Machine.execVmxq k f s
  | .vmxd k f => Sys2Proof.Machine.execVmxd k f s
  | .vperm w64 f => Sys2Proof.Machine.execVperm w64 f s
  | .vxshf w64 f => Sys2Proof.Machine.execVxshf w64 f s
  | .vrot w64 f => Sys2Proof.Machine.execVrot w64 f s
  | .vbcl w64 f => Sys2Proof.Machine.execVbcl w64 f s
  | .vred o f => Sys2Proof.Machine.execVred o f s
  | .vscan o f => Sys2Proof.Machine.execVscan o f s
  | .vcompress w64 f => Sys2Proof.Machine.execVcompress w64 f s
  | .vexpand w64 f => Sys2Proof.Machine.execVexpand w64 f s
  | .ldG z f => Sys2Proof.Machine.execLdG z f s
  | .stG z f => Sys2Proof.Machine.execStG z f s
  | .ldwG z f => Sys2Proof.Machine.execLdwG z f s
  | .stwG z f => Sys2Proof.Machine.execStwG z f s
  | .ldGs z f => Sys2Proof.Machine.execLdGs z f s
  | .stGs z f => Sys2Proof.Machine.execStGs z f s
  | .ldL z f => Sys2Proof.Machine.execLdL z f s
  | .stL z f => Sys2Proof.Machine.execStL z f s
  | .ldC w64 f => Sys2Proof.Machine.execLdC w64 f s
  | .stC w64 f => Sys2Proof.Machine.execStC w64 f s
  | .ldP z f => Sys2Proof.Machine.execLdP z f s
  | .stP z f => Sys2Proof.Machine.execStP z f s
  | .ldAcq w64 f => Sys2Proof.Machine.execLdAcq w64 f s
  | .stRel w64 f => Sys2Proof.Machine.execStRel w64 f s
  | .fence f => Sys2Proof.Machine.execFence f s
  | .qsync f => Sys2Proof.Machine.execQsync f s
  | .cpGo f => Sys2Proof.Machine.execCpGo f s
  | .cclean f => Sys2Proof.Machine.execCclean f s
  | .ccleanAll f => Sys2Proof.Machine.execCcleanAll f s
  | .cinval f => Sys2Proof.Machine.execCinval f s
  | .cinvalAll f => Sys2Proof.Machine.execCinvalAll f s
  | .pf f => Sys2Proof.Machine.execPf f s
  | .pfRo f => Sys2Proof.Machine.execPfRo f s
  | .hderive f => Sys2Proof.Machine.execHderive f s
  | .hrestrict f => Sys2Proof.Machine.execHrestrict f s
  | .hget f => Sys2Proof.Machine.execHget f s
  | .hld f => Sys2Proof.Machine.execHld f s
  | .hst f => Sys2Proof.Machine.execHst f s
  | .hmov f => Sys2Proof.Machine.execHmov f s
  | .hvalid f => Sys2Proof.Machine.execHvalid f s
  | .hintPf f => Sys2Proof.Machine.execHintPf f s
  | .hintBank f => Sys2Proof.Machine.execHintBank f s
  | .hintX op f => Sys2Proof.Machine.execHintX op f s
  | .mset w64 f => Sys2Proof.Machine.execMset w64 f s
  | .msetI f => Sys2Proof.Machine.execMsetI f s
  | .mget w64 f => Sys2Proof.Machine.execMget w64 f s
  | .mcall f => Sys2Proof.Machine.execMcall f s
  | .mcallR f => Sys2Proof.Machine.execMcallR f s
  | .mstat f => Sys2Proof.Machine.execMstat f s
  | .mstatR f => Sys2Proof.Machine.execMstatR f s
  | .rset p f => Sys2Proof.Machine.execRset p f s
  | .rget p f => Sys2Proof.Machine.execRget p f s
  | .rpushW f => Sys2Proof.Machine.execRpushW f s
  | .rpushT f => Sys2Proof.Machine.execRpushT f s
  | .rpopW f => Sys2Proof.Machine.execRpopW f s
  | .rpopT f => Sys2Proof.Machine.execRpopT f s
  | .mspillL f => Sys2Proof.Machine.execMspillL f s
  | .mspillG f => Sys2Proof.Machine.execMspillG f s
  | .mfillL f => Sys2Proof.Machine.execMfillL f s
  | .mfillG f => Sys2Proof.Machine.execMfillG f s
  | .mclr f => Sys2Proof.Machine.execMclr f s
  | .mclrAll f => Sys2Proof.Machine.execMclrAll f s
  | .mloadRt f => Sys2Proof.Machine.execMloadRt f s
  | .mloadCode f => Sys2Proof.Machine.execMloadCode f s
  | .mloadQ f => Sys2Proof.Machine.execMloadQ f s
  | .muFeed m => Sys2Proof.Machine.execMuFeed m s
  | .muStep m => Sys2Proof.Machine.execMuStep m s
  | .muAcc m => Sys2Proof.Machine.execMuAcc m s
  | .muSparse m => Sys2Proof.Machine.execMuSparse m s
  | .muScale m => Sys2Proof.Machine.execMuScale m s
  | .muDrain m => Sys2Proof.Machine.execMuDrain m s
  | .muClear m => Sys2Proof.Machine.execMuClear m s
  | .muPop m => Sys2Proof.Machine.execMuPop m s
  | .muLoop m => Sys2Proof.Machine.execMuLoop m s
  | .muSig m => Sys2Proof.Machine.execMuSig m s
  | .muYield m => Sys2Proof.Machine.execMuYield m s
  | .muEnd m => Sys2Proof.Machine.execMuEnd m s
  | .binit f => Sys2Proof.Machine.execBinit f s
  | .bjoin f => Sys2Proof.Machine.execBjoin f s
  | .bleave f => Sys2Proof.Machine.execBleave f s
  | .barr f => Sys2Proof.Machine.execBarr f s
  | .bdrop f => Sys2Proof.Machine.execBdrop f s
  | .bexp f => Sys2Proof.Machine.execBexp f s
  | .bwait f => Sys2Proof.Machine.execBwait f s
  | .bpoll f => Sys2Proof.Machine.execBpoll f s
  | .atomG f => Sys2Proof.Machine.execAtomG f s
  | .atomL f => Sys2Proof.Machine.execAtomL f s
  | .redG f => Sys2Proof.Machine.execRedG f s
  | .redL f => Sys2Proof.Machine.execRedL f s
  | .semSig o => Sys2Proof.Machine.execSemSig o s
  | .semPoll f => Sys2Proof.Machine.execSemPoll f s
  | .semBind f => Sys2Proof.Machine.execSemBind f s
  | .fst f => Sys2Proof.Machine.execFst f s
  | .fld f => Sys2Proof.Machine.execFld f s
  | .ffadd w64 f => Sys2Proof.Machine.execFfadd w64 f s
  | .fred f => Sys2Proof.Machine.execFred f s
  | .ffence f => Sys2Proof.Machine.execFfence f s
  | .ffenceF f => Sys2Proof.Machine.execFfenceF f s
  | .fsig f => Sys2Proof.Machine.execFsig f s
  | .tret f => Sys2Proof.Machine.execTret f s
  | .tretN f => Sys2Proof.Machine.execTretN f s
  | .tesc f => Sys2Proof.Machine.execTesc f s
  | .cpreempt f => Sys2Proof.Machine.execCpreempt f s
  | .cresume f => Sys2Proof.Machine.execCresume f s
  | .cresumeEsc f => Sys2Proof.Machine.execCresumeEsc f s
  | .cterm f => Sys2Proof.Machine.execCterm f s
  | .ctermL f => Sys2Proof.Machine.execCtermL f s
  | .cquery f => Sys2Proof.Machine.execCquery f s
  | .cqueryU f => Sys2Proof.Machine.execCqueryU f s
  | .powerOnReset => Sys2Proof.Machine.execPowerOnReset s
  | .selfTestTimeout => Sys2Proof.Machine.execSelfTestTimeout s
  | .cxlLinkTraining => Sys2Proof.Machine.execCxlLinkTraining s
  | .cxlReset => Sys2Proof.Machine.execCxlReset s
  | .hostCxlMemAccess => Sys2Proof.Machine.execHostCxlMemAccess s
  | .msixUnmask => Sys2Proof.Machine.execMsixUnmask s
  | .mailboxCommand => Sys2Proof.Machine.execMailboxCommand s
  | .mailboxSignin => Sys2Proof.Machine.execMailboxSignin s
  | .mailboxComplete => Sys2Proof.Machine.execMailboxComplete s
  | .getSelfTestTable => Sys2Proof.Machine.execGetSelfTestTable s
  | .getBootLog => Sys2Proof.Machine.execGetBootLog s
  | .getIdentity => Sys2Proof.Machine.execGetIdentity s
  | .resetDevice => Sys2Proof.Machine.execResetDevice s
  | .identifyMemoryDevice => Sys2Proof.Machine.execIdentifyMemoryDevice s
  | .getSupportedLogs => Sys2Proof.Machine.execGetSupportedLogs s
  | .getLog => Sys2Proof.Machine.execGetLog s
  | .getHealthInfo => Sys2Proof.Machine.execGetHealthInfo s
  | .grantHostRange => Sys2Proof.Machine.execGrantHostRange s
  | .releaseHostRange => Sys2Proof.Machine.execReleaseHostRange s
  | .listHostRanges => Sys2Proof.Machine.execListHostRanges s
  | .stageImage => Sys2Proof.Machine.execStageImage s
  | .activate => Sys2Proof.Machine.execActivate s
  | .commitCounter => Sys2Proof.Machine.execCommitCounter s
  | .getVersions => Sys2Proof.Machine.execGetVersions s
  | .contextBind => Sys2Proof.Machine.execContextBind s
  | .contextUnbind => Sys2Proof.Machine.execContextUnbind s
  | .contextTeardown => Sys2Proof.Machine.execContextTeardown s
  | .queueEnable => Sys2Proof.Machine.execQueueEnable s
  | .queueDisable => Sys2Proof.Machine.execQueueDisable s
  | .queuePop => Sys2Proof.Machine.execQueuePop s
  | .doorbellWrite => Sys2Proof.Machine.execDoorbellWrite s
  | .queueEntryFetch => Sys2Proof.Machine.execQueueEntryFetch s
  | .queueFetchComplete => Sys2Proof.Machine.execQueueFetchComplete s
  | .pageRequestComplete => Sys2Proof.Machine.execPageRequestComplete s
  | .queueTornDown => Sys2Proof.Machine.execQueueTornDown s
  | .edgeReadResume => Sys2Proof.Machine.execEdgeReadResume s
  | .edgeSatisfied => Sys2Proof.Machine.execEdgeSatisfied s
  | .schedulerPass => Sys2Proof.Machine.execSchedulerPass s
  | .reservationTimeout => Sys2Proof.Machine.execReservationTimeout s
  | .kickoffFire => Sys2Proof.Machine.execKickoffFire s
  | .checkerNextCheck => Sys2Proof.Machine.execCheckerNextCheck s
  | .claimCheckResult => Sys2Proof.Machine.execClaimCheckResult s
  | .semaphoreAdd => Sys2Proof.Machine.execSemaphoreAdd s
  | .semaphoreTableStore => Sys2Proof.Machine.execSemaphoreTableStore s
  | .groupStart => Sys2Proof.Machine.execGroupStart s
  | .clauseFetch => Sys2Proof.Machine.execClauseFetch s
  | .slotComplete => Sys2Proof.Machine.execSlotComplete s
  | .tokenSignal => Sys2Proof.Machine.execTokenSignal s
  | .bankRetentionEnter => Sys2Proof.Machine.execBankRetentionEnter s
  | .bankWakeComplete => Sys2Proof.Machine.execBankWakeComplete s
  | .rsleepExpire => Sys2Proof.Machine.execRsleepExpire s
  | .umpireExpire => Sys2Proof.Machine.execUmpireExpire s
  | .commit => Sys2Proof.Machine.execCommit s
  | .portFailureReport => Sys2Proof.Machine.execPortFailureReport s
  | .copyStart => Sys2Proof.Machine.execCopyStart s
  | .copyLineLanded => Sys2Proof.Machine.execCopyLineLanded s
  | .copyComplete => Sys2Proof.Machine.execCopyComplete s
  | .copyFault => Sys2Proof.Machine.execCopyFault s
  | .ringPush => Sys2Proof.Machine.execRingPush s
  | .barrierCycle => Sys2Proof.Machine.execBarrierCycle s
  | .blockRetire => Sys2Proof.Machine.execBlockRetire s
  | .saveComplete => Sys2Proof.Machine.execSaveComplete s
  | .resume => Sys2Proof.Machine.execResume s
  | .isolate => Sys2Proof.Machine.execIsolate s
  | .dieReset => Sys2Proof.Machine.execDieReset s
  | .ucieLinkFailure => Sys2Proof.Machine.execUcieLinkFailure s
  | .powerRegisterWrite => Sys2Proof.Machine.execPowerRegisterWrite s
  | .relockComplete => Sys2Proof.Machine.execRelockComplete s
  | .thermalTrip => Sys2Proof.Machine.execThermalTrip s
  | .thermalTripClear => Sys2Proof.Machine.execThermalTripClear s
  | .currentClampStep => Sys2Proof.Machine.execCurrentClampStep s
  | .heartbeatBeat => Sys2Proof.Machine.execHeartbeatBeat s
  | .heartbeatSignin => Sys2Proof.Machine.execHeartbeatSignin s
  | .heartbeatLapse => Sys2Proof.Machine.execHeartbeatLapse s
  | .store => Sys2Proof.Machine.execStore s
  | .load => Sys2Proof.Machine.execLoad s
  | .atomic => Sys2Proof.Machine.execAtomic s
  | .reduce => Sys2Proof.Machine.execReduce s
  | .signal => Sys2Proof.Machine.execSignal s
  | .flag => Sys2Proof.Machine.execFlag s
  | .ack => Sys2Proof.Machine.execAck s
  | .loadr => Sys2Proof.Machine.execLoadr s
  | .atomr => Sys2Proof.Machine.execAtomr s
  | .err => Sys2Proof.Machine.execErr s
  | .time => Sys2Proof.Machine.execTime s
  | .link => Sys2Proof.Machine.execLink s
  | .responseLimitExpire => Sys2Proof.Machine.execResponseLimitExpire s
  | .replayRequest => Sys2Proof.Machine.execReplayRequest s
  | .vcPause => Sys2Proof.Machine.execVcPause s
  | .portRetrain => Sys2Proof.Machine.execPortRetrain s
  | .portDown => Sys2Proof.Machine.execPortDown s
  | .timeExchangeTimer => Sys2Proof.Machine.execTimeExchangeTimer s
  | .grandmasterPathLoss => Sys2Proof.Machine.execGrandmasterPathLoss s
  | .registerWrite => Sys2Proof.Machine.execRegisterWrite s
  | .uncorrectableError => Sys2Proof.Machine.execUncorrectableError s
  | .accessAccepted => Sys2Proof.Machine.execAccessAccepted s
  | .storePerformed => Sys2Proof.Machine.execStorePerformed s
  | .portUp => Sys2Proof.Machine.execPortUp s
  | .hostSnoop => Sys2Proof.Machine.execHostSnoop s

end Sys2Proof.Machine
end

