-- ==== Sys2Proof/Machine/Select.lean ====
section
/-! DEFINITION. One move of the machine, and the choice that each pipe makes among its ready sub-groups (05 R146, R147). -/

namespace Sys2Proof.Machine

/-- A sub-group's move: a queue group's pending signal first (R160); then it fetches a clause, or its current word issues. -/
def moveSub (s : State) (k e : Nat) : Host.Outcome State Fault Refusal :=
  let s := { s with cur := .group k e, lastPoll := none }
  match (if kindOf k = .stream then s.signalGate k else .met s) with
  | .blocked s => .next s
  | .met s =>
    let x := s.sub k e
    match x.clause with
    | none => exec .clauseFetch s
    | some c =>
      match decodeWord (c.words.getD x.idx 0) with
      | some i => exec i s
      | none => .next (s.issueUndefined k e (c.words.getD x.idx 0).toNat)

/-- A routine's move: its next microinstruction, or a stage of a library routine. -/
def moveEngine (s : State) (u p : Nat) : Host.Outcome State Fault Refusal :=
  let s := { s with cur := .engine u p, lastPoll := none }
  match s.engineNext u p with
  | .inl i => exec i s
  | .inr s => .next s

/-- An event's move; the umpire's alone sees which wait the last step found unmet. -/
def moveEvent (s : State) (ev : Event) : Host.Outcome State Fault Refusal :=
  exec ev.step { s with cur := .none, arg := ev.arg, lastPoll := if ev.step = .umpireExpire then s.lastPoll else none }

/-- One move. -/
def move (s : State) (m : Turn) : Host.Outcome State Fault Refusal :=
  match m with
  | .pending n =>
    match s.agenda[n]? with
    | some ev => moveEvent { s with agenda := s.agenda.eraseIdx n } ev
    | none => .next s
  | .own ev => moveEvent s ev
  | .sub k e => moveSub s k e
  | .engine u p => moveEngine s u p

/-! ### The choice of a pipe (R146, R147) -/

/-- A sub-group at an instruction is ready for its pipe: its move makes it issue, trap or end rather than wait. -/
def State.issues (s : State) (k e : Nat) : Bool :=
  let g := s.group k
  let x := g.sub e
  x.clause.isSome && match moveSub s k e with
    | .next t =>
      let h := t.group k
      let y := h.sub e
      y.lastIssue != x.lastIssue || y.st != x.st || h.trapping.isSome || h.handler != g.handler || h.doubleTrap != g.doubleTrap || h.present != g.present
    | _ => false
/-- A sub-group would issue, and one that goes before it on its pipe would too, with no idle count left to elapse.
(DEDUCED, notes/assumptions 84; safe.) -/
def State.outranked (s : State) (k e : Nat) : Bool :=
  let ps := s.runnable.filter (fun p => pipeOf p.1 == pipeOf k && p != (k, e) && (s.sub p.1 p.2).idle == 0 && (s.sub p.1 p.2).clause.isSome &&
    s.before p (k, e))
  !ps.isEmpty && s.issues k e && ps.any (fun p => s.issues p.1 p.2)
/-- What the next step may be: everything that can move, but the sub-groups that their pipe does not choose. -/
def State.choices (s : State) : List Turn :=
  s.turns.filter (fun t => match t with
    | .sub k e => !s.outranked k e
    | _ => true)

end Sys2Proof.Machine
end

