-- ==== Sys2Proof/Machine/Step.lean ====
section
/-! DEFINITION. One step of the machine: a free choice among what can move, its meaning, and the passing of time. -/

namespace Sys2Proof.Machine

/-- What follows a step that answers a next state: time passes. -/
def after (r : Host.Outcome State Fault Refusal) : Host.Outcome State Fault Refusal :=
  match r with
  | .next s => .next s.tick
  | .fault f => .fault f
  | .refused f => .refused f

/-- One step: one of the moves, of a free choice; where nothing can move, time passes. -/
def step (s : State) : Host.Outcome State Fault Refusal :=
  let ms := s.choices
  let (n, s) := s.choose ms.length
  after (match ms[n]? with
    | some m => move s m
    | none => .next s)

/-- The state whose next step runs the instruction word `w` (notes/assumptions 27). -/
def State.withFetchWord (s : State) (nbits w : Nat) : State := s.place (w % 2 ^ min nbits 64)

end Sys2Proof.Machine
end

