-- ==== Sys2Proof/Safety.lean ====
section
/-! DEFINITION. What claims are stated in: an instruction word that is ready to take effect, how it retires, what a frame leaves alone,
the registers and bytes that a reader of the machine sees, and the invariant of the machine. -/

namespace Sys2Proof.Machine

/-! ### Instruction words -/

/-- The sub-group that the step moves can give instruction `i` its effect now, in the state that comes with it: its clause's header is met,
its word passes R121, nothing of R394-R397, R271, R144 or R152 holds it, and its operands pass R151. The state differs from `s` only by
the results that land at the issue tick, a commit, and holds that are over. -/
def State.readyFor (s : State) (i : Instr) (gd : Guarding) : Option (Cx × State) :=
  match s.cur with
  | .group k e =>
    match s.headerGate k e with
    | .blocked _ => none
    | .met s =>
      let sh := shape (kindOf k) i
      if (s.decodeTrap (kindOf k) ((s.blockOf k).rv.permUcode) i).isSome then none
      else match s.issueGate k e i sh gd with
        | .blocked _ => none
        | .met s =>
          let act := s.active k e (commonOf i)
          if (s.operandTrap k e i sh act).isSome then none else some (⟨k, e, i, act, sh.slot.getD 7⟩, s)
  | _ => none

/-- A word that issued in state `s`, and whose effect left `t`, retires (R138, R141, R149): its last uses, its window entry with results `wrs`
due after `lat`, its tick; then the next word. -/
def State.retiredTo (s t : State) (cx : Cx) (wrs : List Wr) (lat : Nat) : State :=
  let sh := shape (kindOf cx.k) cx.i
  (t.retire cx.k cx.e (commonOf cx.i).idle.toNat (sh.lastUses (s.group cx.k).isSplit) (writeKeys cx.i sh) wrs lat).advance cx.k cx.e
/-- A word whose one effect is its results. -/
def State.retired (s : State) (cx : Cx) (wrs : List Wr) (lat : Nat) : State := s.retiredTo s cx wrs lat
/-- A word that leaves an operation outstanding in its slot, whose results land at the wait on the slot (R143, R144). -/
def State.retiredBusy (s : State) (cx : Cx) (wrs : List Wr) (lat : Nat) : State :=
  s.retiredTo (s.slotBusy cx.k cx.e cx.slot cx.op wrs) cx [] lat
/-- A word that leaves access `a` in a queue of its group (R268-R270). -/
def State.retiredAccess (s : State) (cx : Cx) (a : Access) : State := s.retiredTo (s.newAccess cx a) cx [] 1

/-- A word whose effect is a transfer of control to `x` (R189, R190): it retires and leaves its clause. -/
def State.retiredJump (s t : State) (cx : Cx) (wrs : List Wr) (x : Nat) (bad : Bool) : State :=
  let sh := shape (kindOf cx.k) cx.i
  let t := (t.retire cx.k cx.e (commonOf cx.i).idle.toNat (sh.lastUses (s.group cx.k).isSplit) (writeKeys cx.i sh) wrs 1).leaveClause cx.k cx.e x
  if bad then t.setSub cx.k cx.e { t.sub cx.k cx.e with badPc := true } else t
/-- A word that no lane's guard lets take effect (R129, R264): it retires with no result; a long-latency one completes its slot at once. -/
def State.retiredIdle (s : State) (cx : Cx) (gd : Guarding) : State :=
  let sh := shape (kindOf cx.k) cx.i
  let t := if gd == Guarding.slot && sh.slot.isSome then s.slotDone cx.k cx.e cx.slot cx.op [] else s
  (t.retire cx.k cx.e (commonOf cx.i).idle.toNat (sh.lastUses (s.group cx.k).isSplit) [] [] 0).advance cx.k cx.e

/-- Wherever word `i` can take effect in a state that meets `pre`, `exec` answers the next state `T`. -/
def CompletesIf (i : Instr) (gd : Guarding) (pre : Cx → State → Prop) (T : Cx → State → State) : Prop :=
  ∀ (s s' : State) (cx : Cx), s.readyFor i gd = some (cx, s') → (cx.act ≠ 0 ∨ gd = .always) → pre cx s' → exec i s = .next (T cx s')
/-- Wherever word `i` can take effect, `exec` answers the next state `T`. -/
def CompletesAs (i : Instr) (gd : Guarding) (T : Cx → State → State) : Prop := CompletesIf i gd (fun _ _ => True) T

/-- Word `i` accesses memory through handle register `hr` (R57, R259, R264): where a check of R57 steps 1 to 5 fails for an active lane it traps; where a
copy in flight touches its bytes it waits; otherwise it leaves access `a` in its queue, with the offset of lane 0 (R378). -/
def HandleWord (i : Instr) (gd : Guarding) (hr need n align : Nat) (offs : Cx → State → List (Nat × Int)) (lane0 : Cx → State → Int)
    (a : Cx → State → HandleReg → Access) : Prop :=
  let h (cx : Cx) (s : State) : HandleReg := s.opH cx.k cx.e hr
  let check (cx : Cx) (s : State) : Option TrapInfo := s.checkHandle cx.k (h cx s) hr need n align (offs cx s)
  let hold (cx : Cx) (s : State) : Option Nat := s.rangeHold (s.group cx.k).block (objPlaces (h cx s) n (offs cx s))
  CompletesIf i gd (fun cx s => check cx s = none ∧ hold cx s = none)
      (fun cx s => s.retiredAccess cx { a cx s (h cx s) with hbits := (h cx s).bits, hreg := hr % 32, off0 := bitsOf 64 (lane0 cx s) }) ∧
    (∀ t, CompletesIf i gd (fun cx s => check cx s = some t) (fun cx s => s.takeTrap cx.k cx.e t)) ∧
    ∀ p, CompletesIf i gd (fun cx s => check cx s = none ∧ hold cx s = some p) (fun cx s => s.waitFor cx.k cx.e 0x07 p 0)
/-- Word `i` accesses its block's scratchpad (R243, R259, R154). -/
def ScratchWord (i : Instr) (gd : Guarding) (n align : Nat) (read : Bool) (offs : Cx → State → List (Nat × Int)) (pre : Cx → State → Prop)
    (a : Cx → State → Access) : Prop :=
  let b (cx : Cx) (s : State) : Nat := (s.group cx.k).block
  let check (cx : Cx) (s : State) : Option TrapInfo := s.checkSpm (b cx s) n align read (offs cx s)
  let hold (cx : Cx) (s : State) : Option Nat := s.rangeHold (b cx s) (spmPlaces n (offs cx s))
  let wakes (cx : Cx) (s : State) : Option State := s.wakeFor (b cx s) ((offs cx s).map (fun p => p.2.toNat))
  CompletesIf i gd (fun cx s => pre cx s ∧ check cx s = none ∧ hold cx s = none ∧ wakes cx s = none)
      (fun cx s => s.retiredAccess cx { a cx s with accepted := true, local_ := true }) ∧
    (∀ t, CompletesIf i gd (fun cx s => pre cx s ∧ check cx s = some t) (fun cx s => s.takeTrap cx.k cx.e t)) ∧
    (∀ p, CompletesIf i gd (fun cx s => pre cx s ∧ check cx s = none ∧ hold cx s = some p) (fun cx s => s.waitFor cx.k cx.e 0x07 p 0)) ∧
    ∀ t, CompletesIf i gd (fun cx s => pre cx s ∧ check cx s = none ∧ hold cx s = none ∧ wakes cx s = some t) (fun _ _ => t)

/-- Word `i` is a fabric memory operation of elements of `n` bytes (R373): it waits for its group's loads and stores, for room among its 32 operations,
and while VC0 of its chip's route is paused; then it accesses memory through its handle. -/
def FabricWord (i : Instr) (gd : Guarding) (f : XForm) (op need n : Nat) (scalar : Cx → Bool) (data : Cx → State → Nat → List Byte) : Prop :=
  let offs (cx : Cx) (s : State) : List (Nat × Int) := s.fabricOffsets cx f.xc n (scalar cx)
  let h (cx : Cx) (s : State) : HandleReg := s.opH cx.k cx.e f.xb.toNat
  let check (cx : Cx) (s : State) : Option TrapInfo := s.checkHandle cx.k (h cx s) f.xb.toNat need n n (offs cx s)
  let hold (cx : Cx) (s : State) : Option Nat := s.rangeHold (s.group cx.k).block (objPlaces (h cx s) n (offs cx s))
  let ready (cx : Cx) (s : State) : Prop := s.fabricReady cx.k = true ∧ s.fabricPaused cx.k (h cx s) (offs cx s) = false
  CompletesIf i gd (fun cx s => ¬ ready cx s) (fun cx s => s.waitFor cx.k cx.e 8 cx.op 0) ∧
    CompletesIf i gd (fun cx s => ready cx s ∧ check cx s = none ∧ hold cx s = none)
      (fun cx s => s.retiredAccess cx { Access.start (.fabric op) (objElems (h cx s) n (offs cx s) (data cx s)) with
        size := n, dst := f.xa.toNat, scalar := scalar cx, hbits := (h cx s).bits, hreg := f.xb.toNat % 32
        off0 := bitsOf 64 ((s.opS64 cx.k cx.e f.xc).toNat : Int) }) ∧
    (∀ t, CompletesIf i gd (fun cx s => ready cx s ∧ check cx s = some t) (fun cx s => s.takeTrap cx.k cx.e t)) ∧
    ∀ p, CompletesIf i gd (fun cx s => ready cx s ∧ check cx s = none ∧ hold cx s = some p) (fun cx s => s.waitFor cx.k cx.e 0x07 p 0)

/-- The destination field of a scalar integer form. -/
def aluDst : AluForm → Nat
  | .t _ f => f.dst.toNat
  | .i _ f => f.dst.toNat
/-- Wherever the scalar word `i` can take effect it completes, after one tick, with a `W`-bit value for its destination that `ok` relates to its
operands a, b and c. -/
def ScalarGives (i : Instr) (o : AluForm) (b32 zext d32 : Bool) (ok : Nat → Nat → Nat → Nat → Nat → Prop) : Prop :=
  ∀ (s s' : State) (cx : Cx), s.readyFor i .any = some (cx, s') → cx.act ≠ 0 →
    ∃ v, exec i s = .next (s'.retired cx (wrS (aluDst o) (wn (aluWide o && !d32)) v) 1) ∧
      ok (if aluWide o then 64 else 32) (s'.aluArgs cx.k cx.e o b32 zext).1 (s'.aluArgs cx.k cx.e o b32 zext).2.1
        (s'.aluArgs cx.k cx.e o b32 zext).2.2 v

/-- The draws of a lane's generator, in order (R169). -/
def State.drawsOf (s : State) (k l j : Nat) : Nat := (drawAt (tget 0 (s.group k).lfsr l) j).toNat
/-- The value and flags of each lane of a float result `L`: nothing outside the active lanes. -/
def State.fpLanes (s : State) (cx : Cx) (L : Nat → (Nat → Nat) → Nat × BitVec 5) : List (Nat × BitVec 5) :=
  (List.range 32).map (fun l => if lane cx.act l then L l (s.drawsOf cx.k l) else (0, 0))
def State.fpFlags (s : State) (cx : Cx) (L : Nat → (Nat → Nat) → Nat × BitVec 5) (l : Nat) : BitVec 5 := ((s.fpLanes cx L).getD l (0, 0)).2
/-- No flag that fpcsr enables was raised in an active lane (R175). -/
def State.fpClear (s : State) (cx : Cx) (L : Nat → (Nat → Nat) → Nat × BitVec 5) : Prop :=
  fpTrap (s.group cx.k).fpcsr cx.act (s.fpFlags cx L) = none
/-- The generators of the active lanes after `n` draws each (R169). -/
def State.drawn (s : State) (cx : Cx) (n : Nat) : State :=
  if n = 0 ∨ cx.act = 0 then s
  else s.land cx.k cx.e (.lfsr ((lanesOf cx.act).foldl (fun t l => tput t l (drawAt (tget 0 (s.group cx.k).lfsr l) n)) (s.group cx.k).lfsr))
/-- The results of a float word: its lanes, and the flags they raised (R174). -/
def State.fpWrs (s : State) (cx : Cx) (dst nd : Nat) (L : Nat → (Nat → Nat) → Nat × BitVec 5) : List Wr :=
  wrV dst nd cx.act (fun l => ((s.fpLanes cx L).getD l (0, 0)).1) ++ flagWr cx.act (s.fpFlags cx L)
/-- A float word retires with results due after `lat`. -/
def State.fpRetired (s : State) (cx : Cx) (dst nd lat draws : Nat) (L : Nat → (Nat → Nat) → Nat × BitVec 5) : State :=
  s.retiredTo (s.drawn cx draws) cx (s.fpWrs cx dst nd L) lat
/-- A long-latency float word retires with its slot busy; where fpcsr enables a flag its group issues nothing more until the slot completes (R230). -/
def State.fpRetiredBusy (s : State) (cx : Cx) (dst nd draws : Nat) (L : Nat → (Nat → Nat) → Nat × BitVec 5) : State :=
  let t := (s.drawn cx draws).slotBusy cx.k cx.e cx.slot cx.op (s.fpWrs cx dst nd L)
  let x := t.sub cx.k cx.e
  s.retiredTo (if (s.group cx.k).fpcsr &&& 0x1F00 = 0 then t else t.setSub cx.k cx.e (x.setSlot cx.slot { x.slot cx.slot with hold := true })) cx [] 0

/-! ### Kinds of constructors -/

/-- How the guard bears on a word of the opcode map; none for microinstructions and events. -/
def guardingOf (i : Instr) : Option Guarding :=
  match i with
  | .sadd _ | .ssub _ | .smul _ | .smulh _ | .sdiv _ | .srem _ | .sand _ | .sor _ | .sxor _ | .sandn _ | .sshl _ | .sshr _ | .ssra _ | .smin _
    | .smax _ | .sclz _ | .spop _ | .sbfx _ | .sbfi _ | .ssel _ | .scmp _ | .smov _ | .smovi _ _ | .smoviHi _ | .br _ | .bz _ _ | .bnz _ _ | .bl _
    | .jr _ | .jl _ | .split _ | .fuse _ | .exit _ | .yield _ | .nop _ | .trap _ | .brk _ | .pand _ | .por _ | .pxor _ | .pandn _ | .pnot _
    | .pmov _ | .pfroms _ | .ptos _ | .pany _ | .pall _ | .ppop _ | .sget _ _ | .sset _ _ | .acqRegW _ | .acqRegT _ | .acqSpmW _ | .acqSpmT _
    | .acqMslW _ | .acqMslT _ | .relReg _ | .relSpm _ | .relMsl _ | .rwake _ | .rsleep _ | .spdrop _ | .vmovsGet _ _ | .vred _ _ | .stG _ _
    | .stwG _ _ | .stGs _ _ | .stL _ _ | .stP _ _ | .stRel _ _ | .fence _ | .qsync _ | .cpGo _ | .pf _ | .pfRo _ | .hderive _ | .hrestrict _
    | .hget _ | .hst _ | .hmov _ | .hvalid _ | .mset _ _ | .msetI _ | .mget _ _ | .mcall _ | .mcallR _ | .mstat _ | .mstatR _ | .rset _ _
    | .rget _ _ | .rpushT _ | .rpopT _ | .mclr _ | .mclrAll _ | .mloadQ _ | .binit _ | .bjoin _ | .bleave _ | .bdrop _ | .bexp _ | .bwait _
    | .redG _ | .redL _ | .semSig _ | .semBind _ | .fst _ | .fred _ | .ffence _ | .ffenceF _ | .fsig _ | .tret _ | .tretN _ | .tesc _ => some .any
  | .launch _ | .lquery _ | .objmapEnt _ | .objmapExt _ | .objmapMv _ | .objinv _ | .objinvCtx _ | .semmap _ | .semmapQ _ | .hmint _ | .ldG _ _
    | .ldwG _ _ | .ldGs _ _ | .ldL _ _ | .ldC _ _ | .stC _ _ | .ldP _ _ | .ldAcq _ _ | .cclean _ | .ccleanAll _ | .cinval _ | .cinvalAll _ | .hld _
    | .rpushW _ | .rpopW _ | .mspillL _ | .mspillG _ | .mfillL _ | .mfillG _ | .mloadRt _ | .mloadCode _ | .barr _ | .bpoll _ | .atomG _ | .atomL _
    | .semPoll _ | .fld _ | .ffadd _ _ | .cpreempt _ | .cresume _ | .cresumeEsc _ | .cterm _ | .ctermL _ | .cquery _ | .cqueryU _ => some .slot
  | .swait _ | .vadd _ _ | .vsub _ _ | .vmul _ _ | .vmulh _ _ | .vmad _ _ | .vand _ _ | .vor _ _ | .vxor _ _ | .vandn _ _ | .vshl _ _ | .vshr _ _
    | .vsra _ _ | .vmin _ _ | .vmax _ _ | .vabs _ _ | .vclz _ _ | .vpop _ _ | .vbfx _ _ | .vbfi _ _ | .vsel _ _ | .vmov _ _ | .vmovs _ _ | .vcmp _ _
    | .vfadd _ _ | .vfsub _ _ | .vfmul _ _ | .vfma _ _ | .vfmin _ _ | .vfmax _ _ | .vfrnd _ _ | .vfclass _ _ | .vfcmp _ _ | .vfdot2 _ _ | .vrcp _ _
    | .vrsqrt _ _ | .vsqrt _ _ | .vexp2 _ _ | .vlog2 _ _ | .vsin _ _ | .vcos _ _ | .vcvt _ _ _ | .vpack _ _ | .vunpack _ _ | .vmxq _ _ | .vmxd _ _
    | .vperm _ _ | .vxshf _ _ | .vrot _ _ | .vbcl _ _ | .vscan _ _ | .vcompress _ _ | .vexpand _ _ | .hintPf _ | .hintBank _ | .hintX _ _ => some .always
  | _ => none
/-- A matrix microinstruction (R296). -/
def isMicro (i : Instr) : Bool :=
  match i with
  | .muFeed _ | .muStep _ | .muAcc _ | .muSparse _ | .muScale _ | .muDrain _ | .muClear _ | .muPop _ | .muLoop _ | .muSig _ | .muYield _ | .muEnd _ => true
  | _ => false
/-- Words whose only results are registers of their own group: scalar arithmetic (R112, 0x000-0x043) and vector instructions (R113). -/
def registerWord (i : Instr) : Bool :=
  (guardingOf i).isSome && (decide (opcodeOf i < 0x044) || (decide (0x080 ≤ opcodeOf i) && decide (opcodeOf i < 0x140)))

/-! ### What a reader sees -/

/-- Every byte reads as before. -/
def sameMemory (s t : State) : Prop := ∀ a, t.byte a = s.byte a
/-- Every byte outside `n` bytes from key `k` reads as before. -/
def sameMemoryBut (s t : State) (k n : Nat) : Prop := ∀ a, a < k ∨ k + n ≤ a → t.byte a = s.byte a
/-- What the scratchpad bank of key `key` held is gone for the access named `id` (R154, R265): a drop before the access takes effect only now, or the
bank is off by a drop that does not come after it. -/
def State.bankLost (s : State) (id key : Nat) : Bool :=
  let c := s.core (spmKeyUnit key)
  let j := spmKeyOff key / bankSize (spmKeyUnit key)
  isSpmKey key && (c.drops.any (fun d => d.1 == j && decide (d.2 ≤ id)) ||
    (tget .off c.spmBank j == .off && !c.drops.any (fun d => d.1 == j && decide (id < d.2))))
/-- The byte at `x` as a write at key `key` by access `id` finds it: a bank whose contents are lost revives zero-filled. -/
def State.byteAtWrite (s : State) (id key x : Nat) : Byte :=
  let u := spmKeyUnit key
  let lo := spmKey u (spmKeyOff key / bankSize u * bankSize u)
  if s.bankLost id key = true ∧ lo ≤ x ∧ x < lo + bankSize u then 0 else s.byte x
/-- Every other group is as it was. -/
def otherGroups (s t : State) (k : Nat) : Prop := ∀ j, j ≠ k → t.group j = s.group j
/-- Semaphores, contexts, queues, launches and object tables' memory of the hub are as they were. -/
def sameHub (s t : State) : Prop :=
  t.hub = s.hub ∧ t.contexts = s.contexts ∧ t.queues = s.queues ∧ t.launches = s.launches ∧ t.rings = s.rings ∧ t.frames = s.frames ∧
    t.bindings = s.bindings

/-- Blocks finish in this order: the need of each fits what is free together with what those before it give back. -/
def canFinish : Res → List (Res × Res) → Prop
  | _, [] => True
  | w, b :: t => (b.1.sub b.2).gt w = false ∧ canFinish (w.add b.2) t

/-- The machine's invariant: the one memory, and the mailbox's payload, keep their canonical form. -/
def Inv (s : State) : Prop := Memory.wf s.mem = true ∧ Memory.wf s.hub.mailbox.payload = true

end Sys2Proof.Machine
end

