-- ==== Sys2Proof/Certificates/Slice0/Obligations.lean ====
section
/-! DEFINITION. The statements for the provers. -/

open Sys2Proof Sys2Proof.Machine

/-- R185: the arithmetic and logic results of the scalar integer instructions. -/
def Obligations.ScalarArithmetic : Prop :=
  ∀ o : AluForm,
    ScalarGives (.sadd o) o false false false (fun W a b _ v =>
      (aluMod o % 4 ≠ 1 → aluMod o % 4 ≠ 2 → v = (a + b) % 2 ^ W) ∧
      (aluMod o % 4 = 1 → sext W v = satInt (sext W a + sext W b) (-(2 ^ (W - 1))) (2 ^ (W - 1) - 1)) ∧
      (aluMod o % 4 = 2 → v = min (a + b) (2 ^ W - 1))) ∧
    ScalarGives (.ssub o) o false false false (fun W a b _ v =>
      (aluMod o % 4 ≠ 1 → aluMod o % 4 ≠ 2 → v < 2 ^ W ∧ (v + b) % 2 ^ W = a % 2 ^ W) ∧
      (aluMod o % 4 = 1 → sext W v = satInt (sext W a - sext W b) (-(2 ^ (W - 1))) (2 ^ (W - 1) - 1)) ∧
      (aluMod o % 4 = 2 → v = min (a - b) (2 ^ W - 1))) ∧
    ScalarGives (.smul o) o false false false (fun _ a b _ v => v = a * b) ∧
    ScalarGives (.smulh o) o false false false (fun W a b _ v =>
      if aluMod o % 2 = 1 then sext W v = sext W a * sext W b / 2 ^ W else v = a * b / 2 ^ W) ∧
    ScalarGives (.sand o) o false false false (fun _ a b _ v => ∀ j, v.testBit j = (a.testBit j && b.testBit j)) ∧
    ScalarGives (.sor o) o false false false (fun _ a b _ v => ∀ j, v.testBit j = (a.testBit j || b.testBit j)) ∧
    ScalarGives (.sxor o) o false false false (fun _ a b _ v => ∀ j, v.testBit j = (a.testBit j ^^ b.testBit j)) ∧
    ScalarGives (.sandn o) o false false false (fun W a b _ v => ∀ j, j < W → v.testBit j = (a.testBit j && !b.testBit j)) ∧
    ScalarGives (.smin o) o false false false (fun W a b _ v =>
      (v = a ∨ v = b) ∧ (if aluMod o % 2 = 1 then sext W v ≤ sext W a ∧ sext W v ≤ sext W b else v ≤ a ∧ v ≤ b)) ∧
    ScalarGives (.smax o) o false false false (fun W a b _ v =>
      (v = a ∨ v = b) ∧ (if aluMod o % 2 = 1 then sext W a ≤ sext W v ∧ sext W b ≤ sext W v else a ≤ v ∧ b ≤ v)) ∧
    ScalarGives (.sclz o) o false false false (fun W a _ _ v =>
      if a % 2 ^ W = 0 then v = W else v < W ∧ 2 ^ (W - 1 - v) ≤ a % 2 ^ W ∧ a % 2 ^ W < 2 ^ (W - v)) ∧
    ScalarGives (.spop o) o false false false (fun W a _ _ v => v = ((List.range W).map (fun j => a / 2 ^ j % 2)).sum) ∧
    ScalarGives (.ssel o) o false false false (fun _ a b c v => v = if c = 0 then b else a) ∧
    ScalarGives (.smov o) o false false false (fun _ a _ _ v => v = a)

/-- R186, R185: shifts and bit fields of the scalar integer instructions; the immediates that `smovi` forms. -/
def Obligations.ScalarShiftsFieldsAndConstants : Prop :=
  (∀ o : AluForm,
     ScalarGives (.sshl o) o true true false (fun W a b _ v => v = if W ≤ b then 0 else a * 2 ^ b % 2 ^ W) ∧
     ScalarGives (.sshr o) o true true false (fun W a b _ v => v = if W ≤ b then 0 else a / 2 ^ b) ∧
     ScalarGives (.ssra o) o true true false (fun W a b _ v => sext W v = sext W a / 2 ^ min b (W - 1)) ∧
     ScalarGives (.sbfx o) o true true false (fun W a b _ v =>
       let p := min (b % 256) W
       let n := min (b / 256 % 256) (W - p)
       if aluMod o % 2 = 1 ∧ 0 < n then sext W v = sext n (a / 2 ^ p % 2 ^ n) else v = a / 2 ^ p % 2 ^ n) ∧
     ScalarGives (.sbfi o) o false true false (fun W a b c v =>
       let base := match o with | .t _ _ => a | .i _ _ => 0
       let value := match o with | .t _ _ => b | .i _ _ => a
       let ctl := match o with | .t _ _ => c | .i _ _ => b
       let p := min (ctl % 256) W
       let n := min (ctl / 256 % 256) (W - p)
       ∀ j, j < W → v.testBit j = if p ≤ j ∧ j < p + n then value.testBit (j - p) else base.testBit j)) ∧
  (∀ f : IForm,
    CompletesAs (.smovi .i32 f) .any (fun cx s => s.retired cx (wrS f.dst.toNat 1 (f.imm.signExtend 32).toNat) 1) ∧
    CompletesAs (.smovi .n32 f) .any (fun cx s => s.retired cx (wrS f.dst.toNat 1 (f.imm.zeroExtend 32).toNat) 1) ∧
    CompletesAs (.smovi .i64 f) .any (fun cx s => s.retired cx (wrS f.dst.toNat 2 (f.imm.signExtend 64).toNat) 1) ∧
    CompletesAs (.smoviHi f) .any (fun cx s =>
      s.retired cx (wrS f.dst.toNat 1 (f.imm ++ (s.opS cx.k cx.e f.src0).setWidth 16).toNat) 1))

/-- R187: quotient and remainder; the result lands at the wait on the slot. -/
def Obligations.ScalarDivision : Prop :=
  ∀ (o : AluForm) (s s' : State) (cx : Cx), cx.act ≠ 0 →
    let W := if aluWide o then 64 else 32
    let a := (s'.aluArgs cx.k cx.e o false false).1
    let b := (s'.aluArgs cx.k cx.e o false false).2.1
    let x : Int := if aluMod o % 2 = 1 then sext W a else a
    let y : Int := if aluMod o % 2 = 1 then sext W b else b
    (s.readyFor (.sdiv o) .any = some (cx, s') →
      ∃ v, exec (.sdiv o) s = .next (s'.retiredBusy cx (wrS (aluDst o) (wn (aluWide o)) v) 0) ∧
        (y = 0 → v = 2 ^ W - 1) ∧ (y ≠ 0 → v < 2 ^ W ∧ ((v : Int) - x.tdiv y) % 2 ^ W = 0)) ∧
    (s.readyFor (.srem o) .any = some (cx, s') →
      ∃ v, exec (.srem o) s = .next (s'.retiredBusy cx (wrS (aluDst o) (wn (aluWide o)) v) 0) ∧
        (y = 0 → v = a) ∧ (y ≠ 0 → v < 2 ^ W ∧ ((v : Int) - (x - x.tdiv y * y)) % 2 ^ W = 0))

/-- R188: the condition field of `scmp` selects the comparison, of bit strings, or of its operands read as signed or unsigned; an immediate is
sign-extended and then read as the condition reads it; conditions 10-15 are undefined modifiers, which fail check 5 of R121. -/
def Obligations.ScalarCompare : Prop :=
  (∀ o : AluForm, ScalarGives (.scmp o) o false false true (fun W a b _ v =>
    v ≤ 1 ∧ (v = 1 ↔ match aluMod o % 16 with
      | 0 => a = b
      | 1 => a ≠ b
      | 2 => sext W a < sext W b
      | 3 => sext W a ≤ sext W b
      | 4 => sext W a > sext W b
      | 5 => sext W a ≥ sext W b
      | 6 => a < b
      | 7 => a ≤ b
      | 8 => a > b
      | _ => a ≥ b))) ∧
  (∀ (s : State) (k e : Nat) (w : Bool) (f : IForm), sext (if w then 64 else 32) (s.aluArgs k e (.i w f) false false).2.1 = f.imm.toInt) ∧
  (∀ o : AluForm, 10 ≤ aluMod o % 16 →
    (∀ ck, (shape ck (.scmp o)).modOk = false) ∧ ∀ (s s' : State) (cx : Cx), s.readyFor (.scmp o) .any ≠ some (cx, s')) ∧
  ∀ f : IForm, ScalarGives (.scmp (.i false { f with mod := 6, imm := -1 })) (.i false { f with mod := 6, imm := -1 }) false false true
    (fun _ a _ _ v => v = 1 ↔ a ≠ 0xFFFFFFFF)

/-- R196: the predicate instructions. R197: `sget` reads a special register at its issue, `sset` writes it one tick later. -/
def Obligations.PredicatesAndSpecialRegisters : Prop :=
  (∀ f : TForm,
     CompletesAs (.pand f) .any (fun cx s => s.retired cx (wrP f.dst (s.opP cx.k f.src0 &&& s.opP cx.k f.src1)) 1) ∧
     CompletesAs (.por f) .any (fun cx s => s.retired cx (wrP f.dst (s.opP cx.k f.src0 ||| s.opP cx.k f.src1)) 1) ∧
     CompletesAs (.pxor f) .any (fun cx s => s.retired cx (wrP f.dst (s.opP cx.k f.src0 ^^^ s.opP cx.k f.src1)) 1) ∧
     CompletesAs (.pandn f) .any (fun cx s => s.retired cx (wrP f.dst (s.opP cx.k f.src0 &&& ~~~(s.opP cx.k f.src1))) 1) ∧
     CompletesAs (.pnot f) .any (fun cx s => s.retired cx (wrP f.dst (~~~(s.opP cx.k f.src0))) 1) ∧
     CompletesAs (.pmov (.t f)) .any (fun cx s => s.retired cx (wrP f.dst (s.opP cx.k f.src0)) 1) ∧
     (∀ g : IForm, ∃ x : W32, (∀ l, l < 32 → x.getLsbD l = g.imm.getLsbD (l % 16)) ∧
       CompletesAs (.pmov (.i g)) .any (fun cx s => s.retired cx (wrP g.dst x) 1)) ∧
     CompletesAs (.pfroms f) .any (fun cx s => s.retired cx (wrP f.dst (s.opS cx.k cx.e f.src0)) 2) ∧
     CompletesAs (.ptos f) .any (fun cx s => s.retired cx (wrS f.dst.toNat 1 (s.opP cx.k f.src0 &&& (s.sub cx.k cx.e).lanes).toNat) 2) ∧
     CompletesAs (.pany f) .any (fun cx s =>
       s.retired cx (wrS f.dst.toNat 1 (if (s.opP cx.k f.src0 &&& (s.sub cx.k cx.e).lanes) = 0 then 0 else 1)) 2) ∧
     CompletesAs (.pall f) .any (fun cx s =>
       s.retired cx (wrS f.dst.toNat 1 (if (s.sub cx.k cx.e).lanes &&& ~~~(s.opP cx.k f.src0) = 0 then 1 else 0)) 2) ∧
     CompletesAs (.ppop f) .any (fun cx s =>
       s.retired cx (wrS f.dst.toNat 1 ((List.range 32).countP (fun l => (s.opP cx.k f.src0).getLsbD l && (s.sub cx.k cx.e).lanes.getLsbD l))) 2)) ∧
  (∀ (w : Bool) (f : IForm),
     CompletesAs (.sget w f) .any (fun cx s => s.retired cx (wrS f.dst.toNat (wn w) (s.special cx.k cx.e (f.imm.toNat % 256))) 1) ∧
     CompletesAs (.sset w f) .any (fun cx s =>
       s.retired cx [.special (f.imm.toNat % 256) w (BitVec.ofNat 64 (s.opN cx.k cx.e f.src0 w))] 1))

/-- R189, R190: the targets and links of branches, calls and jumps. -/
def Obligations.Branches : Prop :=
  ∀ (w : Bool) (f : BForm) (g : TForm),
    let target (cx : Cx) (s : State) : Int := ((s.sub cx.k cx.e).clauseStart : Int) + 8 * f.off.toInt
    let goes (cx : Cx) (s : State) (wrs : List Wr) : State :=
      s.retiredJump s cx wrs (target cx s % 2 ^ 40).toNat (decide (target cx s < 0 ∨ 2 ^ 40 ≤ target cx s))
    CompletesAs (.br f) .any (fun cx s => goes cx s []) ∧
    CompletesAs (.bz w f) .any (fun cx s => if s.opN cx.k cx.e f.cond w = 0 then goes cx s [] else s.retired cx [] 1) ∧
    CompletesAs (.bnz w f) .any (fun cx s => if s.opN cx.k cx.e f.cond w = 0 then s.retired cx [] 1 else goes cx s []) ∧
    CompletesAs (.bl f) .any (fun cx s => goes cx s (wrS 62 2 ((s.sub cx.k cx.e).nextClause % 2 ^ 40))) ∧
    CompletesIf (.jr g) .any (fun cx s => (s.opS64 cx.k cx.e g.src0).toNat % 8 = 0) (fun cx s =>
      let v := (s.opS64 cx.k cx.e g.src0).toNat
      s.retiredJump s cx [] (v % 2 ^ 40) (decide (2 ^ 40 ≤ v))) ∧
    CompletesIf (.jl g) .any (fun cx s => (s.opS64 cx.k cx.e g.src0).toNat % 8 = 0) (fun cx s =>
      let v := (s.opS64 cx.k cx.e g.src0).toNat
      s.retiredJump s cx (wrS g.dst.toNat 2 ((s.sub cx.k cx.e).nextClause % 2 ^ 40)) (v % 2 ^ 40) (decide (2 ^ 40 ≤ v))) ∧
    CompletesIf (.jr g) .any (fun cx s => (s.opS64 cx.k cx.e g.src0).toNat % 8 ≠ 0) (fun cx s =>
      s.takeTrap cx.k cx.e { cause := 0x09, addr := (s.opS64 cx.k cx.e g.src0).toNat }) ∧
    CompletesIf (.jl g) .any (fun cx s => (s.opS64 cx.k cx.e g.src0).toNat % 8 ≠ 0) (fun cx s =>
      s.takeTrap cx.k cx.e { cause := 0x09, addr := (s.opS64 cx.k cx.e g.src0).toNat })

/-- R193, R194, R147: `nop` only advances; `yield` marks its sub-group as having yielded; `swait` lands the results of the slots named once
every one of them is complete, and waits on the lowest that is not. -/
def Obligations.NopYieldAndWaits : Prop :=
  ∀ (f : TForm) (g : IForm),
    let named : List Nat := (List.range 6).filter (fun j => g.imm.getLsbD j)
    CompletesAs (.nop f) .any (fun cx s => s.retired cx [] 1) ∧
    CompletesAs (.yield f) .any (fun cx s =>
      let t := s.retired cx [] 0
      t.setSub cx.k cx.e { t.sub cx.k cx.e with yielded := true }) ∧
    CompletesIf (.swait g) .always
      (fun cx s => (∀ j ∈ named, ((s.sub cx.k cx.e).slot j).st ≠ .busy) ∧ (s.sub cx.k cx.e).slotTrap named = none ∧
        s.asleep cx.k (s.landBanks cx.k cx.e named) = [])
      (fun cx s => s.retiredTo (s.landSlots cx.k cx.e named) cx [] 1) ∧
    (∀ j ∈ named, CompletesIf (.swait g) .always
      (fun cx s => ((s.sub cx.k cx.e).slot j).st = .busy ∧ ∀ i ∈ named, i < j → ((s.sub cx.k cx.e).slot i).st ≠ .busy)
      (fun cx s => s.slotWait cx.k cx.e j))

/-- R191, R134, R135: `split` goes on, branches or makes two sub-groups; `fuse` goes on or merges its sub-group with its sibling side. -/
def Obligations.SplitAndFuse : Prop :=
  ∀ (f : BForm) (g : TForm) (t : State),
    -- the lanes are formed after the drain and the landing of every slot (R134)
    let taken (cx : Cx) : W32 := t.active cx.k cx.e (commonOf cx.i) &&& t.opP cx.k f.cond
    let rest (cx : Cx) : W32 := (t.sub cx.k cx.e).lanes &&& ~~~(taken cx)
    let target (cx : Cx) : Nat × Bool := branchTarget (t.sub cx.k cx.e) f.off
    CompletesIf (.split f) .any (fun cx s => s.settle cx.k cx.e = .met t ∧ taken cx = 0) (fun cx s => s.retiredTo t cx [] 1) ∧
    CompletesIf (.split f) .any (fun cx s => s.settle cx.k cx.e = .met t ∧ taken cx ≠ 0 ∧ rest cx = 0)
      (fun cx s => s.retiredJump t cx [] (target cx).1 (target cx).2) ∧
    (∀ n r, CompletesIf (.split f) .any (fun cx s => s.settle cx.k cx.e = .met t ∧ taken cx ≠ 0 ∧ rest cx ≠ 0 ∧
        (n < 8 ∧ ((t.group cx.k).sub n).st = 0 ∧ ∀ i, i < n → ((t.group cx.k).sub i).st ≠ 0) ∧
        (r < 7 ∧ (tget (false, 7) (t.group cx.k).pairs r).1 = false ∧ ∀ i, i < r → (tget (false, 7) (t.group cx.k).pairs i).1 = true))
      (fun cx _ => t.splitSub cx (taken cx) (target cx).1 (target cx).2 n r)) ∧
    CompletesIf (.split f) .any (fun cx s => s.settle cx.k cx.e = .met t ∧ taken cx ≠ 0 ∧ rest cx ≠ 0 ∧
        ((∀ i, i < 8 → ((t.group cx.k).sub i).st ≠ 0) ∨ ∀ i, i < 7 → (tget (false, 7) (t.group cx.k).pairs i).1 = true))
      (fun cx _ => t.takeTrap cx.k cx.e { cause := 0x0C }) ∧
    CompletesIf (.fuse g) .any (fun cx s => s.settle cx.k cx.e = .met t ∧ (t.sub cx.k cx.e).pair = 7) (fun cx s => s.retiredTo t cx [] 1) ∧
    CompletesIf (.fuse g) .any (fun cx s => s.settle cx.k cx.e = .met t ∧ (t.sub cx.k cx.e).pair ≠ 7 ∧
        (t.group cx.k).arrived cx.e (t.sub cx.k cx.e).here = true) (fun cx _ => t.mergeSubs cx.k cx.e)

/-- R134: a split gives the branch target to the lanes taken, in the new entry, and leaves the others in the old one; no lane is lost. -/
def Obligations.SplitKeepsLanes : Prop :=
  ∀ (s : State) (cx : Cx) (taken : W32) (x n r : Nat) (bad : Bool), n ≠ cx.e →
    let g := s.group cx.k
    let t := (s.splitSub cx taken x bad n r).group cx.k
    taken &&& ~~~(g.sub cx.e).lanes = 0 →
      (t.sub n).lanes = taken ∧ (t.sub n).pc = x ∧ (t.sub n).lanes ||| (t.sub cx.e).lanes = (g.sub cx.e).lanes ∧
        (t.sub n).lanes &&& (t.sub cx.e).lanes = 0 ∧ (t.sub n).pair = r ∧ (t.sub cx.e).pair = r ∧
        tget (false, 7) t.pairs r = (true, (g.sub cx.e).pair)

/-- R137, R192: `exit` leaves its sub-group exited at its own word, with nothing left in its window or slots (unless it is the group's last and waits
for fabric operations, R378). -/
def Obligations.ExitEndsSubGroup : Prop :=
  ∀ (f : TForm) (s s' : State) (cx : Cx), s.readyFor (.exit f) .any = some (cx, s') → cx.act ≠ 0 →
    (s'.fabricBusy cx.k = false ∨ ∃ p ∈ (s'.group cx.k).subs, p.1 ≠ cx.e ∧ p.2.st ≠ 0 ∧ p.2.st ≠ 3) →
    s'.asleep cx.k (s'.drainBanks cx.k cx.e) = [] →
    ∃ t, exec (.exit f) s = .next t ∧ (t.sub cx.k cx.e).st = 3 ∧ (t.sub cx.k cx.e).pc = (s'.sub cx.k cx.e).here ∧ (t.sub cx.k cx.e).win = [] ∧
      (t.sub cx.k cx.e).slots = [] ∧ (t.sub cx.k cx.e).wait = none

/-- R195: `trap` and `brk`, opcodes 0x058 and 0x059 in form I, trap with the software trap and the breakpoint where Any_Active() holds: tr.pc is the
offset of their word, and tr.info their immediate, zero-extended. A word of theirs whose dst or src0 is not zero is illegal. -/
def Obligations.TrapAndBreakpoint : Prop :=
  ∀ (f : IForm) (i : Instr) (cause : Nat), (i = .trap f ∧ cause = 0x0E) ∨ (i = .brk f ∧ cause = 0x19) →
    encode i = some (f.word (if cause = 0x0E then 0x058 else 0x059)) ∧
    CompletesAs i .any (fun cx s => s.takeTrap cx.k cx.e { cause := cause, info := f.imm.toNat }) ∧
    (∀ (s s' : State) (cx : Cx), s.readyFor i .any = some (cx, s') → cx.act ≠ 0 → (s'.group cx.k).handler = false → s'.canEnter cx.k = true →
      ∃ t, exec i s = .next t ∧ (t.group cx.k).tr.cause.toNat % 256 = cause ∧
        (t.group cx.k).tr.pc = BitVec.ofNat 64 (s'.sub cx.k cx.e).here ∧ (t.group cx.k).tr.info = f.imm.zeroExtend 32) ∧
    (∀ (s s' : State) (cx : Cx), s.readyFor i .any = some (cx, s') → cx.act = 0 → exec i s = .next (s'.retiredIdle cx .any)) ∧
    ∀ (s t : State) (k e : Nat), s.cur = .group k e → s.headerGate k e = .met t → (f.dst ≠ 0 ∨ f.src0 ≠ 0) →
      exec i s = .next (t.takeTrap k e { cause := 0x01, info := 3 * 2 ^ 24 + opcodeOf i })

/-- R201: acquisitions. A blocking one takes its slot and asks the checker, or completes at once for no units; a trying one that has its check's
result answers it in a scalar and a predicate. Beyond the claim both trap. -/
def Obligations.Acquisitions : Prop :=
  ∀ (f : XForm) (kind : Nat) (iw it : Instr),
    (kind = 0 ∧ iw = .acqRegW f ∧ it = .acqRegT f) ∨ (kind = 1 ∧ iw = .acqSpmW f ∧ it = .acqSpmT f) ∨
      (kind = 2 ∧ iw = .acqMslW f ∧ it = .acqMslT f) →
    let n (cx : Cx) (s : State) : Nat := (s.opS cx.k cx.e f.xb).toNat
    let answer (cx : Cx) (s : State) : Option Nat := tfind (s.core cx.unit).answers (8 * cx.k + cx.e)
    let quiet (cx : Cx) (s : State) : Prop := answer cx s = none ∧
      (∀ q ∈ (s.core cx.unit).requests, ¬ (q.group = cx.k ∧ q.entry = cx.e ∧ q.slot = none)) ∧ (s.core cx.unit).check = none
    CompletesIf iw .any (fun cx s => s.acquireTrap cx.k kind (n cx s) = none ∧ n cx s = 0)
      (fun cx s => s.retiredTo (s.slotDone cx.k cx.e cx.slot cx.op
        (wrS f.xa.toNat 1 (if kind = 1 then (s.blockOf cx.k).gran.length * granSize cx.unit else 0))) cx [] 1) ∧
    CompletesIf iw .any (fun cx s => s.acquireTrap cx.k kind (n cx s) = none ∧ n cx s ≠ 0)
      (fun cx s =>
        let t := s.fresh.2
        s.retiredTo ((t.setSub cx.k cx.e ((t.sub cx.k cx.e).setSlot cx.slot { st := .busy, seq := s.nextId, opcode := cx.op, wrs := wrS f.xa.toNat 1 0
                                                                              request := some (Res.of kind (n cx s)).image })).request
          cx.unit ⟨s.nextId, (s.group cx.k).block, cx.k, cx.e, kind, n cx s, some cx.slot⟩) cx [] 1) ∧
    (∀ x, CompletesIf iw .any (fun cx s => s.acquireTrap cx.k kind (n cx s) = some x) (fun cx s => s.takeTrap cx.k cx.e x)) ∧
    (∀ r, CompletesIf it .any (fun cx s => answer cx s = some r ∧ r % 4 ≠ 0)
      (fun cx s => s.retiredTo (s.setCore cx.unit { s.core cx.unit with answers := tdel (s.core cx.unit).answers (8 * cx.k + cx.e) }) cx
        (wrS f.xa.toNat 1 (r % 4) ++ wrP f.xd 0) 2)) ∧
    (∀ r, CompletesIf it .any (fun cx s => answer cx s = some r ∧ r % 4 = 0)
      (fun cx s =>
        let a := (s.setCore cx.unit { s.core cx.unit with answers := tdel (s.core cx.unit).answers (8 * cx.k + cx.e) }).assign
          (s.group cx.k).block cx.k (r / 4 % 4) (r / 16)
        s.retiredTo a.2.2 cx (wrS f.xa.toNat 1 0 ++ wrP f.xd 0xFFFFFFFF ++ a.1) 2)) ∧
    CompletesIf it .any (fun cx s => quiet cx s ∧ s.acquireTrap cx.k kind (n cx s) = none ∧ n cx s = 0)
      (fun cx s => s.retired cx (wrS f.xa.toNat 1 0 ++ wrP f.xd 0xFFFFFFFF) 2) ∧
    (∀ x, CompletesIf it .any (fun cx s => quiet cx s ∧ s.acquireTrap cx.k kind (n cx s) = some x) (fun cx s => s.takeTrap cx.k cx.e x))

/-- R203, R206: releases give back whole blocks, granules and slots that the group or block holds; others trap.
Granules that a drain in progress may still touch are waited for (every granule counts: the model's choice, log entry 78). -/
def Obligations.Releases : Prop :=
  ∀ f : XForm,
    let x (cx : Cx) (s : State) : Nat := (s.opS cx.k cx.e f.xb).toNat
    let blk (cx : Cx) (s : State) : Block := s.blockOf cx.k
    let owns (cx : Cx) (s : State) (l : Nat) : Prop := ∃ o ∈ (s.group cx.k).own, o.1 = l ∧ o.2 < pending
    let lo (cx : Cx) (s : State) : Nat := (blk cx s).gran.length - x cx s
    let slots (cx : Cx) (s : State) : List Nat := (List.range 4).filter (bitAt (x cx s % 16))
    -- a copy, a ring push or a routine's drain in progress may touch the granules to be released
    let touched (cx : Cx) (s : State) : Prop :=
      s.rangeHold (s.group cx.k).block [(none, (lo cx s : Int) * granSize cx.unit, ((blk cx s).gran.length : Int) * granSize cx.unit)] ≠ none ∨
        s.ringBusy (s.group cx.k).block (lo cx s * granSize cx.unit) ((blk cx s).gran.length * granSize cx.unit) = true
    CompletesIf (.relReg f) .any (fun cx s => ∀ l, l < 16 → bitAt (x cx s % 65536) l = true → owns cx s l)
      (fun cx s => s.retiredTo (if x cx s % 65536 = 0 then s else s.dropBlocks cx.k (x cx s % 65536)) cx [] 1) ∧
    (∀ l, l < 16 → CompletesIf (.relReg f) .any
      (fun cx s => bitAt (x cx s % 65536) l = true ∧ ¬ owns cx s l ∧ ∀ i, i < l → bitAt (x cx s % 65536) i = true → owns cx s i)
      (fun cx s => s.takeTrap cx.k cx.e { cause := 0x04, info := 16 * l })) ∧
    CompletesIf (.relSpm f) .any (fun cx s => x cx s = 0) (fun cx s => s.retired cx [] 1) ∧
    CompletesIf (.relSpm f) .any (fun cx s => x cx s ≠ 0 ∧ x cx s ≤ (blk cx s).gran.length ∧ ¬ touched cx s)
      (fun cx s => s.retiredTo (s.dropGranules (s.group cx.k).block (x cx s)) cx [] 1) ∧
    CompletesIf (.relSpm f) .any (fun cx s => x cx s ≠ 0 ∧ x cx s ≤ (blk cx s).gran.length ∧ touched cx s)
      (fun cx s => s.waitFor cx.k cx.e 0x0A (x cx s) 0) ∧
    CompletesIf (.relSpm f) .any (fun cx s => (blk cx s).gran.length < x cx s) (fun cx s => s.takeTrap cx.k cx.e { cause := 0x0A }) ∧
    CompletesIf (.relMsl f) .any (fun cx s => ∀ l ∈ slots cx s, ∃ p, (blk cx s).slotAt l = some p ∧ (s.mslot cx.unit p).st ≠ 1)
      (fun cx s =>
        let c := s.core cx.unit
        let t := s.setCore cx.unit { c with mslots := (slots cx s).foldl (fun t l => tdel t (((blk cx s).slotAt l).getD 0)) c.mslots }
        s.retiredTo ((t.setBlock (s.group cx.k).block { blk cx s with
          slots := (blk cx s).slots.filter (fun p => !bitAt (x cx s % 16) p.1) }).release (s.group cx.k).block (Res.of 2 (slots cx s).length)) cx [] 1)

/-- R204-R206: banks. `rwake` of a bank that is on completes its slot, and of one in retention starts its wake; `rsleep` holds its group until
its time is over; `spdrop` drops the banks that lie wholly in its range. -/
def Obligations.BankInstructions : Prop :=
  ∀ f : XForm,
    let x (cx : Cx) (s : State) : Nat := (s.opS cx.k cx.e f.xb).toNat
    let n (cx : Cx) (s : State) : Nat := (s.opS cx.k cx.e f.xc).toNat
    let b (cx : Cx) (s : State) : Nat := (s.group cx.k).block
    let bank (cx : Cx) (s : State) : Nat := s.spmPhys (b cx s) (x cx s) / bankSize cx.unit
    (f.mod.getLsbD 0 = true → CompletesIf (.rwake f) .any
        (fun cx s => s.inSpm (b cx s) (x cx s) 1 = true ∧ (tget .off (s.core cx.unit).spmBank (bank cx s) = .on ∨
          tget .off (s.core cx.unit).spmBank (bank cx s) = .off))
        (fun cx s => s.retiredTo (s.slotDone cx.k cx.e cx.slot cx.op []) cx [] 1) ∧
      CompletesIf (.rwake f) .any (fun cx s => s.inSpm (b cx s) (x cx s) 1 = true ∧ tget .off (s.core cx.unit).spmBank (bank cx s) ≠ .on ∧
          tget .off (s.core cx.unit).spmBank (bank cx s) ≠ .off)
        (fun cx s => s.retiredTo ((s.wakeSpm cx.unit (bank cx s)).wakeSlot cx (1024 + bank cx s)) cx [] 1) ∧
      CompletesIf (.rwake f) .any (fun cx s => s.inSpm (b cx s) (x cx s) 1 = false)
        (fun cx s => s.takeTrap cx.k cx.e { cause := 0x0A, addr := x cx s })) ∧
    (f.mod.getLsbD 0 = false → ∀ p, p < pending → CompletesIf (.rwake f) .any
        (fun cx s => (s.group cx.k).own.find? (fun o => o.1 == x cx s && decide (o.2 < pending)) = some (x cx s, p) ∧
          tget .off (s.core cx.unit).regBank (p / 4) = .on)
        (fun cx s => s.retiredTo (s.slotDone cx.k cx.e cx.slot cx.op []) cx [] 1) ∧
      CompletesIf (.rwake f) .any
        (fun cx s => (s.group cx.k).own.find? (fun o => o.1 == x cx s && decide (o.2 < pending)) = some (x cx s, p) ∧
          tget .off (s.core cx.unit).regBank (p / 4) ≠ .on)
        (fun cx s => s.retiredTo ((s.wakeReg cx.unit (p / 4)).wakeSlot cx (p / 4)) cx [] 1)) ∧
    (f.mod.getLsbD 0 = false → CompletesIf (.rwake f) .any (fun cx s => ∀ o ∈ (s.group cx.k).own, o.1 = x cx s → pending ≤ o.2)
        (fun cx s => s.takeTrap cx.k cx.e { cause := 0x04, info := 16 * x cx s % 256 })) ∧
    CompletesIf (.rsleep f) .any (fun cx s => x cx s = 0) (fun cx s => s.retired cx [] 1) ∧
    CompletesIf (.rsleep f) .any (fun cx s => x cx s ≠ 0) (fun cx s =>
      s.retiredTo ((s.setGroup cx.k { s.group cx.k with sleeping := some (x cx s) }).post .rsleepExpire { a := cx.k }) cx [] 1) ∧
    CompletesIf (.spdrop f) .any (fun cx s => n cx s = 0) (fun cx s => s.retired cx [] 1) ∧
    CompletesIf (.spdrop f) .any (fun cx s => n cx s ≠ 0 ∧ s.inSpm (b cx s) (x cx s) (n cx s) = false)
      (fun cx s => s.takeTrap cx.k cx.e { cause := 0x0A, addr := x cx s }) ∧
    CompletesIf (.spdrop f) .any (fun cx s => n cx s ≠ 0 ∧ s.inSpm (b cx s) (x cx s) (n cx s) = true ∧
        s.rangeHold (b cx s) [(none, (x cx s : Int), (x cx s : Int) + n cx s)] = none)
      (fun cx s => s.retiredTo (s.dropBanks (b cx s) (x cx s) (x cx s + n cx s)) cx [] 1)

/-- R211-R215: the supervisor's instructions on object tables, semaphore maps and handles. -/
def Obligations.SupervisorInstructions : Prop :=
  ∀ f : XForm,
    let ctx (cx : Cx) (s : State) : Context := s.context (s.ctxOf cx.k)
    let n (cx : Cx) (s : State) : Nat := (s.opS cx.k cx.e f.xb).toNat
    let p (cx : Cx) (s : State) : Nat := (s.opS64 cx.k cx.e f.xb).toNat
    let v (cx : Cx) (s : State) : Nat := s.opQuad cx.k cx.e f.xc
    let answers (cx : Cx) (s t : State) (st : Nat) : State := s.retiredTo (t.slotBusy cx.k cx.e cx.slot cx.op (wrS f.xa.toNat 1 st)) cx [] 1
    CompletesIf (.objmapEnt f) .slot (fun cx s => (ctx cx s).otCount ≤ n cx s) (fun cx s => answers cx s s 1) ∧
    CompletesIf (.objmapEnt f) .slot (fun cx s => n cx s < (ctx cx s).otCount ∧ s.entryBad (v cx s) = true) (fun cx s => answers cx s s 2) ∧
    CompletesIf (.objmapEnt f) .slot (fun cx s => n cx s < (ctx cx s).otCount ∧ s.entryBad (v cx s) = false)
      (fun cx s => answers cx s (s.write ((ctx cx s).otBase + 16 * n cx s) (leBytes 16 (v cx s))) 0) ∧
    (∀ st, CompletesIf (.objmapExt f) .slot
      (fun cx s => s.extentStatus (s.ctxOf cx.k) (p cx s % 2 ^ 32) (p cx s / 2 ^ 32) (v cx s) = .inl st) (fun cx s => answers cx s s st)) ∧
    (∀ a, CompletesIf (.objmapExt f) .slot
      (fun cx s => s.extentStatus (s.ctxOf cx.k) (p cx s % 2 ^ 32) (p cx s / 2 ^ 32) (v cx s) = .inr a)
      (fun cx s => answers cx s (s.write a (leBytes 16 (v cx s))) 0)) ∧
    CompletesAs (.objmapMv f) .slot (fun cx s =>
      s.retiredTo (s.supOp cx (wrS f.xa.toNat 1 0) 17 (s.ctxOf cx.k) (p cx s % 2 ^ 32) (p cx s / 2 ^ 32) (v cx s)) cx [] 1) ∧
    CompletesAs (.objinv f) .slot (fun cx s => s.retiredTo (s.supOp cx [] 18 (s.ctxOf cx.k) (n cx s) 0 0) cx [] 1) ∧
    CompletesAs (.objinvCtx f) .slot (fun cx s => s.retiredTo (s.supOp cx [] 19 (s.ctxOf cx.k) 0 0 0) cx [] 1) ∧
    CompletesAs (.semmap f) .slot (fun cx s =>
      let m := (s.opS cx.k cx.e f.xc).toNat
      if 4096 ≤ n cx s then answers cx s s 1
      else if 2 ^ 17 ≤ m then answers cx s s 2
      else answers cx s (s.setContext (s.ctxOf cx.k) { ctx cx s with semmap := tput (ctx cx s).semmap (n cx s) m }).reevalEdges 0) ∧
    CompletesAs (.semmapQ f) .slot (fun cx s =>
      answers cx s s (if 4096 ≤ n cx s then 0xFFFFFFFF else tget 0 (ctx cx s).semmap (n cx s))) ∧
    CompletesAs (.hmint f) .slot (fun cx s =>
      let q := ((s.sub cx.k cx.e).sreg f.xd.toNat).toNat
      let obj := q % 2 ^ 24
      let base := p cx s
      let len := (s.opS64 cx.k cx.e f.xc).toNat
      let e := if obj < (ctx cx s).otCount then s.num ((ctx cx s).otBase + 16 * obj) 16 else 0
      let ok := decide (obj < (ctx cx s).otCount ∧ entValid e = true ∧ entReserved e = false ∧ base < 2 ^ 40 ∧ len < 2 ^ 40 ∧ base + len ≤ entCount e * 65536)
      s.retiredTo (s.slotBusy cx.k cx.e cx.slot cx.op (wrH f.xa.toNat (mkHandle obj (entGen e) (q / 2 ^ 24 &&& entCeil e) base len ok))) cx [] 1)

/-- R221: the vector integer instructions give each active lane the result of the scalar instruction of the same name, in lanes of `W` bits;
src1 is a scalar where mod[0] is 1, and src2 where mod[1] is. -/
def Obligations.VectorIntegers : Prop :=
  ∀ (w : Bool) (f : TForm),
    let W := vW w
    let a (cx : Cx) (s : State) (l : Nat) : Nat := s.laneN cx.k f.src0.toNat (wn w) l
    let b (n : Nat) (cx : Cx) (s : State) (l : Nat) : Nat := s.opLane cx.k cx.e f.src1 n (f.mod.getLsbD 0) l
    let c (n : Nat) (cx : Cx) (s : State) (l : Nat) : Nat := s.opLane cx.k cx.e f.src2 n (f.mod.getLsbD 1) l
    let gives (i : Instr) (F : Cx → State → Nat → Nat) : Prop :=
      CompletesAs i .always (fun cx s => s.retired cx (wrV f.dst.toNat (wn w) cx.act (F cx s)) 1)
    gives (.vadd w f) (fun cx s l => addSat (mf f.mod 1 2) W (a cx s l) (b (wn w) cx s l)) ∧
    gives (.vsub w f) (fun cx s l => subSat (mf f.mod 1 2) W (a cx s l) (b (wn w) cx s l)) ∧
    gives (.vmul w f) (fun cx s l => a cx s l * b (wn w) cx s l) ∧
    gives (.vmulh w f) (fun cx s l => mulHigh (f.mod.getLsbD 1) W (a cx s l) (b (wn w) cx s l)) ∧
    gives (.vmad w f) (fun cx s l => a cx s l * b (wn w) cx s l + c (wn w) cx s l) ∧
    gives (.vand w f) (fun cx s l => a cx s l &&& b (wn w) cx s l) ∧
    gives (.vor w f) (fun cx s l => a cx s l ||| b (wn w) cx s l) ∧
    gives (.vxor w f) (fun cx s l => a cx s l ^^^ b (wn w) cx s l) ∧
    gives (.vandn w f) (fun cx s l => andNot W (a cx s l) (b (wn w) cx s l)) ∧
    gives (.vshl w f) (fun cx s l => if W ≤ b 1 cx s l then 0 else a cx s l * 2 ^ b 1 cx s l % 2 ^ W) ∧
    gives (.vshr w f) (fun cx s l => if W ≤ b 1 cx s l then 0 else a cx s l / 2 ^ b 1 cx s l) ∧
    gives (.vsra w f) (fun cx s l => shiftA W (a cx s l) (b 1 cx s l)) ∧
    gives (.vmin w f) (fun cx s l => lesser (f.mod.getLsbD 1) W (a cx s l) (b (wn w) cx s l)) ∧
    gives (.vmax w f) (fun cx s l => greater (f.mod.getLsbD 1) W (a cx s l) (b (wn w) cx s l)) ∧
    gives (.vabs w f) (fun cx s l =>
      let m := (sext W (a cx s l)).natAbs
      if f.mod.getLsbD 1 then min m (2 ^ (W - 1) - 1) else m) ∧
    gives (.vclz w f) (fun cx s l => leadingZeros W (a cx s l)) ∧
    gives (.vpop w f) (fun cx s l => onesCount W (a cx s l)) ∧
    gives (.vbfx w f) (fun cx s l => fieldExtract (f.mod.getLsbD 1) W (a cx s l) (b 1 cx s l)) ∧
    gives (.vbfi w f) (fun cx s l => fieldInsert W (a cx s l) (b (wn w) cx s l) (c 1 cx s l)) ∧
    gives (.vsel w f) (fun cx s l => if (s.opP cx.k f.src2).getLsbD l then a cx s l else b (wn w) cx s l) ∧
    gives (.vmov w f) a ∧
    gives (.vmovs w f) (fun cx s _ => s.opN cx.k cx.e f.src0 w)

/-- R222, R223: `vcmp` writes every lane of amask, 0 where the lane is not active; `vmovs` to a scalar reads the lowest active lane. R233-R235, R238, R240: instructions that move values between lanes; pack and unpack of the 128-byte stream. -/
def Obligations.VectorCompareExtractAndMove : Prop :=
  (∀ (w : Bool) (f : TForm),
     (∃ x : Cx → State → W32,
       CompletesAs (.vcmp w f) .always (fun cx s => s.retired cx (wrP f.dst (x cx s)) 2) ∧
       ∀ cx s l, l < 32 → (x cx s).getLsbD l = (cx.act.getLsbD l &&
         cond188 (mf f.mod 1 4) (vW w) (s.laneN cx.k f.src0.toNat (wn w) l) (s.opLane cx.k cx.e f.src1 (wn w) (f.mod.getLsbD 0) l))) ∧
     (∀ low, low < 32 → CompletesIf (.vmovsGet w f) .any (fun cx _ => cx.act.getLsbD low = true ∧ ∀ l, l < low → cx.act.getLsbD l = false)
       (fun cx s => s.retired cx (wrS f.dst.toNat (wn w) (s.laneN cx.k f.src0.toNat (wn w) low)) 4))) ∧
  (∀ (w : Bool) (kd : PackKind) (f : TForm),
     let n := wn w
     let a (cx : Cx) (s : State) (l : Nat) : Nat := s.laneN cx.k f.src0.toNat n l
     let ix (cx : Cx) (s : State) (l : Nat) : Nat := s.opLane cx.k cx.e f.src1 1 (f.mod.getLsbD 0) l % 32
     let gives (i : Instr) (F : Cx → State → Nat → Nat) : Prop :=
       CompletesAs i .always (fun cx s => s.retired cx (wrV f.dst.toNat n cx.act (F cx s)) 4)
     let inAmask (cx : Cx) (s : State) : List Nat := lanesOf (s.sub cx.k cx.e).lanes
     gives (.vperm w f) (fun cx s l => a cx s (ix cx s l)) ∧
     gives (.vxshf w f) (fun cx s l => a cx s (l ^^^ ix cx s l)) ∧
     gives (.vrot w f) (fun cx s l => a cx s ((l + ix cx s l) % 32)) ∧
     gives (.vbcl w f) (fun cx s l => a cx s (ix cx s l)) ∧
     gives (.vexpand w f) (fun cx s l =>
       match ((lanesOf cx.act).zip (inAmask cx s)).find? (fun p => p.1 == l) with
       | some p => a cx s p.2
       | none => 0) ∧
     CompletesAs (.vcompress w f) .always (fun cx s =>
       let into := (inAmask cx s).zip (lanesOf cx.act)
       s.retired cx (wrV f.dst.toNat n (maskOf (fun l => into.any (fun p => p.1 == l))) (fun l =>
         match into.find? (fun p => p.1 == l) with
         | some p => a cx s p.2
         | none => 0)) 4) ∧
     CompletesAs (.vunpack kd f) .always (fun cx s =>
       s.retired cx (wrV f.dst.toNat 1 cx.act (fun l =>
         let x := field (s.stream cx.k f.src0.toNat) (packWidth kd * (32 * mf f.mod 1 3 + l)) (packWidth kd)
         if f.mod.getLsbD 4 then bitsOf 32 (sext (packWidth kd) x) else x)) 3) ∧
     CompletesAs (.vpack kd f) .always (fun cx s =>
       s.retired cx (wrV f.dst.toNat 1 (s.sub cx.k cx.e).lanes (fun l =>
         field ((lanesOf cx.act).foldl (fun z l => putField z (packWidth kd * (32 * mf f.mod 1 3 + l)) (packWidth kd) (s.laneN cx.k f.src0.toNat 1 l))
           (s.stream cx.k f.src1.toNat)) (32 * l) 32)) 3))

/-- R224, R228, R174, R175, R169: element-wise float arithmetic. Unless a flag that is enabled in fpcsr was raised in an active lane, the lanes land
after 5 ticks with the flags raised; each element under `.sr` costs its lane one draw. -/
def Obligations.FloatArithmetic : Prop :=
  ∀ (t : FVar) (bf : Bool) (f : TForm),
    let F := fvFmt t
    let rm := mf f.mod 2 3
    let A (cx : Cx) (s : State) (l j : Nat) : Fv := F.decode (elemOf t (s.laneN cx.k f.src0.toNat t.n l) j)
    let B (cx : Cx) (s : State) (l j : Nat) : Fv := F.decode (elemOf t (s.opLaneF cx.k cx.e f.src1 t (f.mod.getLsbD 0) l) j)
    let C (cx : Cx) (s : State) (l j : Nat) : Fv := F.decode (elemOf t (s.opLaneF cx.k cx.e f.src2 t (f.mod.getLsbD 1) l) j)
    -- the lanes of exact results X, rounded
    let lanes (X : Nat → Nat → Xv) (l : Nat) (draw : Nat → Nat) : Nat × BitVec 5 :=
      let r (j : Nat) := F.round rm false (draw j) (X l j)
      (joinElems t (fun j => (r j).1), if fvElems t = 2 then (r 0).2 ||| (r 1).2 else (r 0).2)
    let gives (i : Instr) (X : Cx → State → Nat → Nat → Xv) : Prop :=
      CompletesIf i .always (fun cx s => s.fpClear cx (lanes (X cx s)))
        (fun cx s => s.fpRetired cx f.dst.toNat t.n 5 (drawsFor rm (fvElems t)) (lanes (X cx s)))
    gives (.vfadd t f) (fun cx s l j => (A cx s l j).add (B cx s l j) rm) ∧
    gives (.vfsub t f) (fun cx s l j => (A cx s l j).add (B cx s l j).neg rm) ∧
    gives (.vfmul t f) (fun cx s l j => (A cx s l j).mulX (B cx s l j)) ∧
    gives (.vfma t f) (fun cx s l j => (A cx s l j).fmaX (B cx s l j) (C cx s l j) rm) ∧
    (let u : FVar := if bf then .bf16x2 else .f16x2
     let G := fvFmt u
     let a (cx : Cx) (s : State) (l j : Nat) : Fv := G.decode (elemOf u (s.laneN cx.k f.src0.toNat 1 l) j)
     let b (cx : Cx) (s : State) (l j : Nat) : Fv := G.decode (elemOf u (s.opLaneF cx.k cx.e f.src1 u (f.mod.getLsbD 0) l) j)
     let dot (cx : Cx) (s : State) (l : Nat) (draw : Nat → Nat) : Nat × BitVec 5 :=
       fmtF32.round rm false (draw 0) (dot2X (a cx s l 0) (b cx s l 0) (a cx s l 1) (b cx s l 1)
         (fmtF32.decode (s.opLaneF cx.k cx.e f.src2 .f32 (f.mod.getLsbD 1) l)) rm)
     CompletesIf (.vfdot2 bf f) .always (fun cx s => s.fpClear cx (dot cx s))
       (fun cx s => s.fpRetired cx f.dst.toNat 1 5 (drawsFor rm 1) (dot cx s)))

/-- R175: a float instruction that raises an enabled flag in an active lane traps with the lanes that raised one, and writes nothing. R225-R227: minimum, maximum, rounding to an integer, classes and comparisons raise no flag. -/
def Obligations.FloatTrapsAndQuiet : Prop :=
  (∀ (f : TForm) (s : State) (cx : Cx) (nd lat draws : Nat) (slot : Bool) (F : Nat → (Nat → Nat) → Nat × BitVec 5) (l : Nat),
     let fl (l : Nat) : BitVec 5 := (F l (s.drawsOf cx.k l)).2
     let en := (s.group cx.k).fpcsr.extractLsb' 8 5
     l < 32 → cx.act.getLsbD l = true → fl l &&& en ≠ 0 →
       ∃ t, s.fpResult cx f nd lat draws slot F = .trap s t ∧ t.cause = 0x17 ∧ t.fmask.getLsbD l = true ∧
         ∀ m, m < 32 → (t.fmask.getLsbD m = true ↔ cx.act.getLsbD m = true ∧ fl m &&& en ≠ 0)) ∧
  (∀ (t : FVar) (f : TForm),
     let F := fvFmt t
     let a (cx : Cx) (s : State) (l j : Nat) : Nat := elemOf t (s.laneN cx.k f.src0.toNat t.n l) j
     let b (cx : Cx) (s : State) (l j : Nat) : Nat := elemOf t (s.opLaneF cx.k cx.e f.src1 t (f.mod.getLsbD 0) l) j
     let gives (i : Instr) (n lat : Nat) (g : Cx → State → Nat → Nat → Nat) : Prop :=
       CompletesAs i .always (fun cx s => s.retired cx (wrV f.dst.toNat n cx.act (fun l => joinElems t (g cx s l))) lat)
     let holds (cx : Cx) (s : State) (l j : Nat) : Bool :=
       match (F.decode (a cx s l j)).cmp (F.decode (b cx s l j)) with
       | some o => cond227 (mf f.mod 1 4) false o
       | none => cond227 (mf f.mod 1 4) true .eq
     gives (.vfmin t f) t.n 5 (fun cx s l j => F.minMax false (a cx s l j) (b cx s l j)) ∧
     gives (.vfmax t f) t.n 5 (fun cx s l j => F.minMax true (a cx s l j) (b cx s l j)) ∧
     gives (.vfrnd t f) t.n 3 (fun cx s l j => F.integral (mf f.mod 2 3) (a cx s l j)) ∧
     gives (.vfclass t f) 1 1 (fun cx s l j => F.classMask (a cx s l j)) ∧
     CompletesAs (.vfcmp t f) .always (fun cx s => s.retired cx (wrP f.dst (maskOf (fun l => cx.act.getLsbD l &&
       (if fvElems t = 1 then holds cx s l 0
        else match mf f.mod 5 2 with
          | 0 => holds cx s l 0
          | 1 => holds cx s l 1
          | 2 => holds cx s l 0 && holds cx s l 1
          | _ => holds cx s l 0 || holds cx s l 1)))) 2))

/-- R229, R176-R178: the long-latency float functions leave their slot busy with the lanes' results and flags. -/
def Obligations.FloatFunctions : Prop :=
  ∀ (t : F3) (half : Bool) (f : TForm),
    let rm := mf f.mod 2 3
    let hv : FVar := if half then .f16x2 else .f32
    let elem (v : FVar) (cx : Cx) (s : State) (l j : Nat) : Nat := elemOf v (s.laneN cx.k f.src0.toNat v.n l) j
    let both (v : FVar) (r : Nat → Nat × BitVec 5) : Nat × BitVec 5 :=
      (joinElems v (fun j => (r j).1), if fvElems v = 2 then (r 0).2 ||| (r 1).2 else (r 0).2)
    let rooted (v : FVar) (g : Fv → Xv × BitVec 5) (cx : Cx) (s : State) (l : Nat) (draw : Nat → Nat) : Nat × BitVec 5 :=
      both v (fun j =>
        let y := g ((fvFmt v).decode (elem v cx s l j))
        let z := (fvFmt v).round rm false (draw j) y.1
        (z.1, y.2 ||| z.2))
    let direct (g : Nat → Nat × BitVec 5) (cx : Cx) (s : State) (l : Nat) (_ : Nat → Nat) : Nat × BitVec 5 :=
      both hv (fun j => if half then via16 g (elem hv cx s l j) else g (s.laneN cx.k f.src0.toNat 1 l))
    let gives (i : Instr) (n draws : Nat) (L : Cx → State → Nat → (Nat → Nat) → Nat × BitVec 5) : Prop :=
      CompletesIf i .always (fun cx s => s.fpClear cx (L cx s)) (fun cx s => s.fpRetiredBusy cx f.dst.toNat n draws (L cx s))
    gives (.vrcp t f) (f3Var t).n (drawsFor rm (fvElems (f3Var t))) (rooted (f3Var t) Fv.rcp) ∧
    gives (.vsqrt t f) (f3Var t).n (drawsFor rm (fvElems (f3Var t))) (rooted (f3Var t) Fv.sqrt) ∧
    gives (.vrsqrt half f) hv.n (drawsFor rm (fvElems hv)) (rooted hv Fv.rsqrt) ∧
    gives (.vexp2 half f) 1 0 (direct exp2F32) ∧
    gives (.vlog2 half f) 1 0 (direct log2F32) ∧
    gives (.vsin half f) 1 0 (direct (fun x => sincosF32 x 0)) ∧
    gives (.vcos half f) 1 0 (direct (fun x => sincosF32 x 1))

/-- R231, R232, R236, R237: conversions and MX blocks. A block with a NaN or an infinity has scale 0xFF, zero elements, and makes no draw (the
last is the model's reading of R169; DEDUCED, see the assumption log). -/
def Obligations.FloatConversions : Prop :=
  ∀ (d : CvtDst) (int : Bool) (x : MxKind) (f : TForm),
    let v (cx : Cx) (s : State) (l : Nat) : Fv := f32V (s.laneN cx.k f.src0.toNat 1 l)
    let E (cx : Cx) (s : State) : Nat := mxScale x ((lanesOf cx.act).map (v cx s))
    let cvt (cx : Cx) (s : State) (l : Nat) (draw : Nat → Nat) : Nat × BitVec 5 :=
      convert d int (mf f.mod 1 4) (mf f.mod 5 3) (f.mod.getLsbD 8)
        (s.laneN cx.k f.src0.toNat (if int then (if mf f.mod 1 4 = 3 ∨ mf f.mod 1 4 = 7 then 2 else 1) else if mf f.mod 1 4 = 0 then 2 else 1) l) (draw 0)
    let quant (cx : Cx) (s : State) (l : Nat) (draw : Nat → Nat) : Nat × BitVec 5 := mxElem x (E cx s) (mf f.mod 2 3) (draw 0) (v cx s l)
    let dequant (cx : Cx) (s : State) (l : Nat) (_ : Nat → Nat) : Nat × BitVec 5 :=
      let e := field (s.opLane cx.k cx.e f.src1 1 (f.mod.getLsbD 0) l) 8 8
      if e = 0xFF then (fmtF32.nan, 0)
      else fmtF32.round 0 false 0 (mxValue x (s.laneN cx.k f.src0.toNat 1 l % 2 ^ mxWidth x) e)
    let draws (cx : Cx) (s : State) : Nat := if E cx s = 0xFF then 0 else drawsFor (mf f.mod 2 3) 1
    CompletesIf (.vcvt d int f) .always (fun cx s => s.fpClear cx (cvt cx s))
      (fun cx s => s.fpRetired cx f.dst.toNat d.n 3 (drawsFor (mf f.mod 5 3) 1) (cvt cx s)) ∧
    CompletesIf (.vmxq x f) .always (fun cx s => s.fpClear cx (quant cx s))
      (fun cx s => s.fpRetired cx f.dst.toNat 1 3 (draws cx s) (quant cx s)) ∧
    CompletesIf (.vmxd x f) .always (fun cx s => s.fpClear cx (dequant cx s))
      (fun cx s => s.fpRetired cx f.dst.toNat 1 3 0 (dequant cx s))

/-- R239: `vred` and `vscan` combine the active lanes in ascending order; the first is only made canonical. -/
def Obligations.Reductions : Prop :=
  ∀ (o : RedOp) (f : TForm),
    let rm := mf f.mod 2 3
    let x (cx : Cx) (s : State) (l : Nat) : Nat := s.laneN cx.k f.src0.toNat o.n l
    let run (cx : Cx) (s : State) : List (Nat × Nat × BitVec 5) := runCombine o rm none ((lanesOf cx.act).map (fun l => (l, x cx s l)))
    CompletesIf (.vred o f) .any (fun cx s => fpTrap (s.group cx.k).fpcsr cx.act (runFlags (run cx s)) = none) (fun cx s =>
      s.retired cx (wrS f.dst.toNat o.n (((run cx s).map (fun p => p.2.1)).getLast?.getD 0) ++ flagWr cx.act (runFlags (run cx s))) (redLatency o)) ∧
    CompletesIf (.vscan o f) .always (fun cx s => fpTrap (s.group cx.k).fpcsr cx.act (runFlags (run cx s)) = none) (fun cx s =>
      s.retired cx (wrV f.dst.toNat o.n cx.act (runValue (run cx s)) ++ flagWr cx.act (runFlags (run cx s))) (redLatency o))

/-- R264, R266, R281: loads through a handle. -/
def Obligations.HandleLoads : Prop :=
  ∀ (z : Size5) (zw : SizeW) (zs : Size4) (w : Bool) (f : MForm),
    let load (n : Nat) (scalar : Bool) (offs : Cx → State → List (Nat × Int)) (cx : Cx) (s : State) (h : HandleReg) : Access :=
      { Access.start .load (objElems h n (offs cx s) (fun _ => [])) with
        size := n, signed := f.mod.getLsbD 2, dst := f.d.toNat, scalar := scalar, cacheMod := mf f.mod 3 2 }
    let at0 (n : Nat) (vec perLane : Bool) (cx : Cx) (s : State) : Int := s.accessOffset cx f n vec perLane 0
    let each (n : Nat) (cx : Cx) (s : State) := s.accessOffsets cx f n true false false
    let row (n : Nat) (cx : Cx) (s : State) := s.accessOffsets cx f n false true false
    let one (n : Nat) (cx : Cx) (s : State) := s.accessOffsets cx f n false false true
    HandleWord (.ldG z f) .slot f.h.toNat rR z.bytes z.bytes (each z.bytes) (at0 z.bytes true false) (load z.bytes false (each z.bytes)) ∧
    HandleWord (.ldwG zw f) .slot f.h.toNat rR zw.bytes zw.bytes (row zw.bytes) (at0 zw.bytes false true) (load zw.bytes false (row zw.bytes)) ∧
    HandleWord (.ldGs zs f) .slot f.h.toNat rR zs.bytes zs.bytes (one zs.bytes) (at0 zs.bytes false false) (load zs.bytes true (one zs.bytes)) ∧
    HandleWord (.hld f) .slot f.h.toNat rR 16 16 (one 16) (at0 16 false false) (fun cx s h =>
      { Access.start .hld (objElems h 16 (one 16 cx s) (fun _ => [])) with size := 16, dst := f.d.toNat, scalar := true }) ∧
    -- an acquiring load also holds the group's later accesses (R271)
    CompletesIf (.ldAcq w f) .slot
      (fun cx s => s.checkHandle cx.k (s.opH cx.k cx.e f.h.toNat) f.h.toNat rR (4 * wn w) (4 * wn w) (one (4 * wn w) cx s) = none ∧
        s.rangeHold (s.group cx.k).block (objPlaces (s.opH cx.k cx.e f.h.toNat) (4 * wn w) (one (4 * wn w) cx s)) = none)
      (fun cx s =>
        let h := s.opH cx.k cx.e f.h.toNat
        s.retiredTo ((s.newAccess cx { Access.start .load (objElems h (4 * wn w) (one (4 * wn w) cx s) (fun _ => [])) with
          size := 4 * wn w, dst := f.d.toNat, scalar := true, acquire := decide (mf f.mod 2 3 = 3 ∨ mf f.mod 2 3 = 4)
          hbits := h.bits, hreg := f.h.toNat % 32, off0 := bitsOf 64 (at0 (4 * wn w) false false cx s) }).hold cx.k [s.nextId] false) cx [] 1)

/-- R264, R268, R271, R281: stores through a handle; a release waits for the group's earlier accesses unless its scope is the group. -/
def Obligations.HandleStores : Prop :=
  ∀ (z : Size5) (zw : SizeW) (zs : Size4) (w : Bool) (f : MForm),
    let store (n : Nat) (scalar : Bool) (offs : Cx → State → List (Nat × Int)) (cx : Cx) (s : State) (h : HandleReg) : Access :=
      { Access.start .store (objElems h n (offs cx s) (fun l =>
          if scalar then leBytes n (s.opN cx.k cx.e f.d (decide (4 < n))) else leBytes n (s.laneN cx.k f.d.toNat (regsOf n) l))) with
        size := n, cacheMod := mf f.mod 3 2 }
    let at0 (n : Nat) (vec perLane : Bool) (cx : Cx) (s : State) : Int := s.accessOffset cx f n vec perLane 0
    let each (n : Nat) (cx : Cx) (s : State) := s.accessOffsets cx f n true false false
    let row (n : Nat) (cx : Cx) (s : State) := s.accessOffsets cx f n false true false
    let one (n : Nat) (cx : Cx) (s : State) := s.accessOffsets cx f n false false true
    HandleWord (.stG z f) .any f.h.toNat rW z.bytes z.bytes (each z.bytes) (at0 z.bytes true false) (store z.bytes false (each z.bytes)) ∧
    HandleWord (.stwG zw f) .any f.h.toNat rW zw.bytes zw.bytes (row zw.bytes) (at0 zw.bytes false true) (store zw.bytes false (row zw.bytes)) ∧
    HandleWord (.stGs zs f) .any f.h.toNat rW zs.bytes zs.bytes (one zs.bytes) (at0 zs.bytes false false) (store zs.bytes true (one zs.bytes)) ∧
    HandleWord (.hst f) .any f.h.toNat rW 16 16 (one 16) (at0 16 false false) (fun cx s h =>
      let x := s.opH cx.k cx.e f.d.toNat
      { Access.start .hst ((objElems h 16 (one 16 cx s) (fun _ => leBytes 16 x.bits.toNat)).map (fun el => { el with tag := x.valid })) with
        size := 16, scalar := true }) ∧
    HandleWord (.stRel w f) .any f.h.toNat rW (4 * wn w) (4 * wn w) (one (4 * wn w)) (at0 (4 * wn w) false false) (fun cx s h =>
      { Access.start .store (objElems h (4 * wn w) (one (4 * wn w) cx s) (fun _ => leBytes (4 * wn w) (s.opN cx.k cx.e f.d (decide (4 < 4 * wn w))))) with
        size := 4 * wn w
        after := if mf f.mod 2 3 = 0 then [] else s.earlier cx.k (fun a => a.kind.inLoads || a.kind.inStores) })

/-- R243, R246, R264: loads and stores of the block's scratchpad, and of a cluster member's. -/
def Obligations.ScratchpadAccesses : Prop :=
  ∀ (z : Size5) (w : Bool) (f : MForm),
    let offs (n : Nat) (cx : Cx) (s : State) := s.accessOffsets cx f n true false false
    let blk (cx : Cx) (s : State) : Block := s.blockOf cx.k
    let own (cx : Cx) (s : State) : Prop := f.h.toNat % 4 < (blk cx s).csize ∧ f.h.toNat % 4 = (blk cx s).x % (blk cx s).csize
    let other (cx : Cx) (s : State) : Prop := f.h.toNat % 4 < (blk cx s).csize ∧ f.h.toNat % 4 ≠ (blk cx s).x % (blk cx s).csize
    let data (n : Nat) (cx : Cx) (s : State) (l : Nat) : List Byte := leBytes n (s.laneN cx.k f.d.toNat (regsOf n) l)
    let here (kind : AccKind) (n : Nat) (d : Cx → State → Nat → List Byte) (cx : Cx) (s : State) : Access :=
      { Access.start kind (s.spmElems (s.group cx.k).block n (offs n cx s) (d cx s)) with size := n, dst := f.d.toNat }
    let there (kind : AccKind) (n : Nat) (d : Cx → State → Nat → List Byte) (cx : Cx) (s : State) : State :=
      s.retiredAccess cx { Access.start kind ((offs n cx s).map (fun p =>
          ({ lane := p.1, off := bitsOf 64 p.2, obj := bitsOf 64 p.2, n := n, data := d cx s p.1 } : Elem))) with
        size := n, dst := f.d.toNat, hreg := f.h.toNat % 4
        member := some ((blk cx s).members.getD (f.h.toNat % 4) (s.group cx.k).block) }
    ScratchWord (.ldL z f) .slot z.bytes z.bytes true (offs z.bytes) (fun _ _ => True) (fun cx s =>
      { Access.start .load (s.spmElems (s.group cx.k).block z.bytes (offs z.bytes cx s) (fun _ => [])) with
        size := z.bytes, signed := f.mod.getLsbD 2, dst := f.d.toNat }) ∧
    ScratchWord (.stL z f) .any z.bytes z.bytes false (offs z.bytes) (fun _ _ => True) (fun cx s =>
      { Access.start .store (s.spmElems (s.group cx.k).block z.bytes (offs z.bytes cx s) (data z.bytes cx s)) with size := z.bytes }) ∧
    ScratchWord (.ldC w f) .slot (4 * wn w) (4 * wn w) true (offs (4 * wn w)) own (here .load (4 * wn w) (fun _ _ _ => [])) ∧
    ScratchWord (.stC w f) .slot (4 * wn w) (4 * wn w) false (offs (4 * wn w)) own (here .store (4 * wn w) (data (4 * wn w))) ∧
    CompletesIf (.ldC w f) .slot other (there .load (4 * wn w) (fun _ _ _ => [])) ∧
    CompletesIf (.stC w f) .slot other (there .store (4 * wn w) (data (4 * wn w))) ∧
    CompletesIf (.ldC w f) .slot (fun cx s => (blk cx s).csize ≤ f.h.toNat % 4)
      (fun cx s => s.takeTrap cx.k cx.e (laneTrap 0x0A (2 ^ 24) (offs (4 * wn w) cx s))) ∧
    CompletesIf (.stC w f) .slot (fun cx s => (blk cx s).csize ≤ f.h.toNat % 4)
      (fun cx s => s.takeTrap cx.k cx.e (laneTrap 0x0A (2 ^ 24) (offs (4 * wn w) cx s)))

/-- R245: each lane's private slice. Byte q of lane l lies at lp.base + 128·(q div 4) + 4·l + q mod 4; an 8-byte element is two words. -/
def Obligations.LanePrivateAccesses : Prop :=
  ∀ (z : SizeP) (f : MForm),
    let q (cx : Cx) (s : State) : Int := (s.opN cx.k cx.e f.off false : Int) + f.imm.toInt * z.bytes
    let base (cx : Cx) (s : State) : Nat := (s.group cx.k).lpBase.toNat
    let n := min z.bytes 4
    let at_ (j : Nat) (cx : Cx) (s : State) : List (Nat × Int) := (lanesOf cx.act).map (fun l =>
      (l, ((base cx s + 128 * (((q cx s).toNat + 4 * j) / 4) + 4 * l + ((q cx s).toNat + 4 * j) % 4 : Nat) : Int)))
    let offs (cx : Cx) (s : State) : List (Nat × Int) := at_ 0 cx s ++ (if z.bytes = 8 then at_ 1 cx s else [])
    let ok (cx : Cx) (s : State) : Prop := base cx s % 128 = 0 ∧ q cx s % z.bytes = 0 ∧ 0 ≤ q cx s
    let all (cx : Cx) (s : State) : List (Nat × Int) := (lanesOf cx.act).map (fun l => (l, q cx s))
    let data (cx : Cx) (s : State) (l : Nat) : List Byte := leBytes z.bytes (s.laneN cx.k f.d.toNat (regsOf z.bytes) l)
    let access (kind : AccKind) (d : Cx → State → Nat → List Byte) (cx : Cx) (s : State) : Access :=
      let b := (s.group cx.k).block
      { Access.start kind (s.spmElems b n (at_ 0 cx s) (fun l => (d cx s l).take n) ++
          (if z.bytes = 8 then (s.spmElems b n (at_ 1 cx s) (fun l => (d cx s l).drop 4)).map (fun x => { x with part := 1 }) else [])) with
        size := z.bytes, signed := f.mod.getLsbD 2, dst := f.d.toNat }
    ScratchWord (.ldP z f) .slot n 1 true offs ok (access .load (fun _ _ _ => [])) ∧
    ScratchWord (.stP z f) .any n 1 false offs ok (access .store data) ∧
    ∀ (i : Instr) (gd : Guarding), (i = .ldP z f ∧ gd = .slot) ∨ (i = .stP z f ∧ gd = .any) →
      CompletesIf i gd (fun cx s => base cx s % 128 ≠ 0 ∨ q cx s % z.bytes ≠ 0) (fun cx s => s.takeTrap cx.k cx.e (laneTrap 0x09 0 (all cx s))) ∧
      CompletesIf i gd (fun cx s => base cx s % 128 = 0 ∧ q cx s % z.bytes = 0 ∧ q cx s < 0)
        (fun cx s => s.takeTrap cx.k cx.e (laneTrap 0x0A 0 (all cx s)))

/-- R272, R252, R276, R277: fences hold the group's later accesses; cleans wait for stores; invalidations drop lines of the issuing core's cache;
prefetches only check their handle. R118-R120: a hint is its move, and nothing that a program can tell from it. -/
def Obligations.HintsFencesAndCacheWords : Prop :=
  (∀ (f : XForm) (g : MForm),
     let sc := mf f.mod 0 3
     let kind := mf f.mod 3 2
     let h (cx : Cx) (s : State) : HandleReg := s.opH cx.k cx.e g.h.toNat
     let n (cx : Cx) (s : State) : Nat := s.opN cx.k cx.e g.d false
     let offs (cx : Cx) (s : State) := s.accessOffsets cx g 16 false false true
     let o (cx : Cx) (s : State) : Int := ((offs cx s).headD (0, 0)).2
     let lo (cx : Cx) (s : State) : Nat := (h cx s).base + (o cx s).toNat
     let check (need n : Nat) (cx : Cx) (s : State) : Option TrapInfo := s.checkHandle cx.k (h cx s) g.h.toNat need n 1 [(0, o cx s)]
     let done (cx : Cx) (s t : State) : State := s.retiredTo (t.slotDone cx.k cx.e cx.slot cx.op []) cx [] 1
     let busy (cx : Cx) (s t : State) : State := s.retiredTo (t.slotBusy cx.k cx.e cx.slot cx.op []) cx [] 1
     let clean (cx : Cx) (s : State) (p : Access → Bool) : State :=
       s.retiredAccess cx { Access.start .clean [] with accepted := true, after := s.cleanAfter cx p }
     (sc = 0 → CompletesAs (.fence f) .any (fun cx s => s.retired cx [] 1)) ∧
     (sc ≠ 0 → CompletesAs (.fence f) .any (fun cx s =>
       s.retiredTo (s.hold cx.k (s.earlier cx.k (fun a => a.kind.inLoads || (a.kind.inStores && kind != 1)))
         (decide (kind ≠ 2 ∧ (sc = 3 ∨ sc = 4)))) cx [] 1)) ∧
     CompletesAs (.qsync f) .any (fun cx s =>
       s.retiredTo (s.hold cx.k (s.earlier cx.k (fun a => a.kind.inLoads || a.kind.inStores)) false) cx [] 1) ∧
     CompletesIf (.cclean g) .slot (fun cx s => check 0 (n cx s) cx s = none ∧ n cx s = 0) (fun cx s => done cx s s) ∧
     CompletesIf (.cclean g) .slot (fun cx s => check 0 (n cx s) cx s = none ∧ n cx s ≠ 0)
       (fun cx s => clean cx s (fun a => a.inRange (h cx s).obj (lo cx s) (lo cx s + n cx s))) ∧
     CompletesAs (.ccleanAll g) .slot (fun cx s => clean cx s (fun _ => true)) ∧
     CompletesIf (.cinval g) .slot (fun cx s => check 0 (n cx s) cx s = none ∧ n cx s = 0) (fun cx s => done cx s s) ∧
     CompletesIf (.cinval g) .slot (fun cx s => check 0 (n cx s) cx s = none ∧ n cx s ≠ 0) (fun cx s => busy cx s (s.invalidate cx (fun l =>
       l.obj == (h cx s).obj && decide (l.off < lo cx s + n cx s) && decide (lo cx s < l.off + 128)))) ∧
     CompletesAs (.cinvalAll g) .slot (fun cx s => busy cx s (s.invalidate cx (fun _ => true))) ∧
     (∀ t, CompletesIf (.cclean g) .slot (fun cx s => check 0 (n cx s) cx s = some t) (fun cx s => s.takeTrap cx.k cx.e t) ∧
       CompletesIf (.cinval g) .slot (fun cx s => check 0 (n cx s) cx s = some t) (fun cx s => s.takeTrap cx.k cx.e t)) ∧
     CompletesIf (.pf g) .any (fun cx s => s.checkHandle cx.k (h cx s) g.h.toNat rR 1 1 (offs cx s) = none)
       (fun cx s => s.retiredTo (s.prefetch cx.k (h cx s) (o cx s).toNat false) cx [] 1) ∧
     CompletesIf (.pfRo g) .any (fun cx s => s.checkHandle cx.k (h cx s) g.h.toNat rR 1 1 (offs cx s) = none)
       (fun cx s => s.retiredTo (s.prefetch cx.k (h cx s) (o cx s).toNat true) cx [] 1)) ∧
  (∀ (op : Fin 30) (f : TForm),
     CompletesAs (.hintX op f) .always (fun cx s => s.retired cx (hintMove f cx s) 1) ∧
     ∀ i : Instr, i = .hintPf f ∨ i = .hintBank f →
       ∀ (s s' : State) (cx : Cx), s.readyFor i .always = some (cx, s') →
         ∃ t, exec i s = .next (s'.retiredTo t cx (hintMove f cx s') 1) ∧ t.groups = s'.groups ∧ t.mem = s'.mem ∧ t.hub = s'.hub)

/-- R278-R280: handles are narrowed within their own range and rights, read by field, moved and tested. -/
def Obligations.HandleWords : Prop :=
  ∀ f : TForm,
    let h (cx : Cx) (s : State) : HandleReg := s.opH cx.k cx.e f.src0.toNat
    let r := f.src0.toNat % 32
    let off (cx : Cx) (s : State) : Nat := (s.opS64 cx.k cx.e f.src1).toNat
    let len (cx : Cx) (s : State) : Nat := (s.opS64 cx.k cx.e f.src2).toNat
    let usable (cx : Cx) (s : State) : Prop := (h cx s).valid = true ∧ (h cx s).bits.toNat % 256 = 0
    let open_ (cx : Cx) (s : State) : Prop := bitAt (h cx s).rights 7 = false ∧ bitAt (h cx s).rights 6 = true
    (∀ i : Instr, i = .hderive f ∨ i = .hrestrict f →
      CompletesIf i .any (fun cx s => ¬ usable cx s) (fun cx s => s.takeTrap cx.k cx.e { cause := 0x06, info := 1 * 2 ^ 24 + r }) ∧
      CompletesIf i .any (fun cx s => usable cx s ∧ ¬ open_ cx s) (fun cx s => s.takeTrap cx.k cx.e { cause := 0x08, info := 2 * 2 ^ 24 + r })) ∧
    CompletesIf (.hderive f) .any (fun cx s => usable cx s ∧ open_ cx s ∧ (h cx s).len < off cx s + len cx s)
      (fun cx s => s.takeTrap cx.k cx.e { cause := 0x07, addr := off cx s, addr2 := len cx s, info := 3 * 2 ^ 24 + r }) ∧
    CompletesIf (.hderive f) .any (fun cx s => usable cx s ∧ open_ cx s ∧ off cx s + len cx s ≤ (h cx s).len) (fun cx s =>
      s.retired cx (wrH f.dst.toNat (mkHandle (h cx s).obj (h cx s).gen (h cx s).rights ((h cx s).base + off cx s) (len cx s) true)) 1) ∧
    CompletesIf (.hrestrict f) .any (fun cx s => usable cx s ∧ open_ cx s) (fun cx s =>
      let m := (s.opS cx.k cx.e f.src1).toNat % 256
      s.retired cx (wrH f.dst.toNat
        (mkHandle (h cx s).obj (h cx s).gen (((h cx s).rights &&& m) % 128 + m / 128 * 128) (h cx s).base (h cx s).len true)) 1) ∧
    CompletesAs (.hget f) .any (fun cx s => s.retired cx (match f.mod.toNat with
      | 0 => wrS f.dst.toNat 1 (h cx s).obj
      | 1 => wrS f.dst.toNat 1 (h cx s).gen
      | 2 => wrS f.dst.toNat 1 (h cx s).rights
      | 3 => wrS f.dst.toNat 2 (h cx s).base
      | 4 => wrS f.dst.toNat 2 (h cx s).len
      | _ => wrS f.dst.toNat 1 (if (h cx s).valid then 1 else 0)) 1) ∧
    CompletesAs (.hmov f) .any (fun cx s => s.retired cx (wrH f.dst.toNat (h cx s) ((s.sub cx.k cx.e).hPz.getLsbD f.src0.toNat)) 1) ∧
    CompletesAs (.hvalid f) .any (fun cx s => s.retired cx (wrS f.dst.toNat 1 (if (h cx s).valid then 1 else 0)) 1)

/-- R309, R311, R312: the m registers, the state of matrix slots, and the ring registers as words. R310, R295, R315, R316: calls start routines in idle slots; clears; loads of the routine table and of code.
`mclr.all` waits for and clears the slots one by one, in ascending order. -/
def Obligations.MatrixRegistersAndCalls : Prop :=
  (∀ (w : Bool) (p : RingPart) (f : XForm) (g : IForm),
     let hi := f.mod.getLsbD 0
     let m (cx : Cx) (s : State) : Nat := (tget 0 (s.group cx.k).m f.xd.toNat).toNat
     let x (cx : Cx) (s : State) : Nat := (s.opS cx.k cx.e f.xb).toNat
     let b (cx : Cx) (s : State) : Nat := (s.group cx.k).block
     let put (cx : Cx) (s : State) : Ring :=
       if p = .all then (List.range 4).foldl (fun r i => r.put i (field (s.opQuad cx.k cx.e f.xb) (32 * i) 32)) (s.ring (b cx s) f.xd.toNat)
       else (s.ring (b cx s) f.xd.toNat).put (ringPart p) (x cx s)
     CompletesAs (.mset true f) .any (fun cx s =>
       s.retired cx [.m f.xd.toNat (BitVec.allOnes 64) (BitVec.ofNat 64 (s.opN cx.k cx.e f.xb true))] 1) ∧
     CompletesAs (.mset false f) .any (fun cx s => s.retired cx [.m f.xd.toNat (if hi then 0xFFFFFFFF00000000 else 0xFFFFFFFF)
       (BitVec.ofNat 64 (if hi then s.opN cx.k cx.e f.xb false * 2 ^ 32 else s.opN cx.k cx.e f.xb false))] 1) ∧
     CompletesAs (.msetI g) .any (fun cx s => s.retired cx [.m g.dst.toNat (BitVec.allOnes 64) (g.imm.signExtend 64)] 1) ∧
     CompletesAs (.mget w f) .any (fun cx s =>
       s.retired cx (if w then wrS f.xa.toNat 2 (m cx s) else wrS f.xa.toNat 1 (m cx s / 2 ^ (if hi then 32 else 0) % 2 ^ 32)) 1) ∧
     (∀ q, CompletesIf (.mstat f) .any (fun cx s => (s.blockOf cx.k).slotAt (x cx s) = some q) (fun cx s =>
       let y := s.mslot cx.unit q
       s.retired cx (wrS f.xa.toNat 1
         (y.st * 2 ^ 30 + y.routine % 256 * 2 ^ 20 + (if y.st = 3 then y.reason % 256 else 0) * 2 ^ 12 + y.upc % 4096)) 1)) ∧
     CompletesIf (.mstat f) .any (fun cx s => (s.blockOf cx.k).slotAt (x cx s) = none) (fun cx s => s.takeTrap cx.k cx.e { cause := 0x04 }) ∧
     CompletesIf (.mstatR f) .any (fun cx s => x cx s ≤ 7) (fun cx s =>
       let r := s.ring (b cx s) (x cx s)
       s.retired cx (wrS f.xa.toNat 1 ((if r.en then 2 ^ 31 else 0) + (if r.flt then 2 ^ 30 else 0) + r.rsv * 2 ^ 8 + r.full)) 1) ∧
     CompletesIf (.mstatR f) .any (fun cx s => 7 < x cx s) (fun cx s => s.takeTrap cx.k cx.e { cause := 0x14, info := 4 * 2 ^ 24 }) ∧
     CompletesIf (.rset p f) .any (fun cx s => s.rsetTrap (b cx s) f.xd.toNat p (put cx s) = none) (fun cx s =>
       s.retiredTo (s.setRing (b cx s) f.xd.toNat (if p = .geom ∨ p = .all then { put cx s with flt := false } else put cx s)) cx [] 1) ∧
     (∀ t, CompletesIf (.rset p f) .any (fun cx s => s.rsetTrap (b cx s) f.xd.toNat p (put cx s) = some t) (fun cx s => s.takeTrap cx.k cx.e t)) ∧
     CompletesAs (.rget p f) .any (fun cx s =>
       let r := s.ring (b cx s) f.xd.toNat
       s.retired cx (if p = .all then wrS f.xa.toNat 4 (r.word 0 + 2 ^ 32 * (r.word 1 + 2 ^ 32 * (r.word 2 + 2 ^ 32 * r.word 3)))
         else wrS f.xa.toNat 1 (r.word (ringPart p))) 1)) ∧
  (∀ f : XForm,
     let xa (cx : Cx) (s : State) : Nat := (s.opS cx.k cx.e f.xa).toNat
     let xb (cx : Cx) (s : State) : Nat := (s.opS cx.k cx.e f.xb).toNat
     let xc (cx : Cx) (s : State) : Nat := (s.opS cx.k cx.e f.xc).toNat
     let blk (cx : Cx) (s : State) : Block := s.blockOf cx.k
     (∀ (i : Instr) (routine : Cx → State → Nat), (i = .mcall f ∧ routine = (fun _ _ => f.xd.toNat)) ∨ (i = .mcallR f ∧ routine = xc) →
       (∀ p, CompletesIf i .any (fun cx s => s.callTrap cx.k (xa cx s) (xb cx s) (routine cx s) = none ∧ (blk cx s).slotAt (xa cx s) = some p ∧
           (s.mslot cx.unit p).st ≠ 1 ∧ s.boot.active ≠ some (3, cx.unit))
         (fun cx s => s.retiredTo (s.startRoutine cx.k p (xa cx s) (xb cx s) (routine cx s)) cx [] 1)) ∧
       (∀ t, CompletesIf i .any (fun cx s => s.callTrap cx.k (xa cx s) (xb cx s) (routine cx s) = some t) (fun cx s => s.takeTrap cx.k cx.e t)) ∧
       ∀ p, CompletesIf i .any (fun cx s => s.callTrap cx.k (xa cx s) (xb cx s) (routine cx s) = none ∧ (blk cx s).slotAt (xa cx s) = some p ∧
           (s.mslot cx.unit p).st = 1) (fun cx s => s.waitFor cx.k cx.e 0x09 (xa cx s) 0)) ∧
     (∀ p, CompletesIf (.mclr f) .any (fun cx s => (blk cx s).slotAt f.xd.toNat = some p ∧ (s.mslot cx.unit p).st ≠ 1)
       (fun cx s => s.retiredTo (s.setMslot cx.unit p { s.mslot cx.unit p with st := 0, reason := 0, acc := [], accPz := [] }) cx [] 1)) ∧
     CompletesIf (.mclr f) .any (fun cx s => (blk cx s).slotAt f.xd.toNat = none) (fun cx s => s.takeTrap cx.k cx.e { cause := 0x04 }) ∧
     -- `mclr.all` clears slot by slot, from the one it has waited for: each once it is not busy
     (let first (cx : Cx) (s : State) : Nat := match (s.sub cx.k cx.e).wait with
        | some w => if w.kind = 0x09 then w.item else 0
        | none => 0
      let upTo (n : Nat) (cx : Cx) (s : State) : State :=
        ((List.range n).filterMap (fun l => if l < first cx s then none else (blk cx s).slotAt l)).foldl
          (fun t p => t.setMslot cx.unit p { t.mslot cx.unit p with st := 0, reason := 0, acc := [], accPz := [] }) s
      let idle (l : Nat) (cx : Cx) (s : State) : Prop := ∀ p, first cx s ≤ l → (blk cx s).slotAt l = some p → (s.mslot cx.unit p).st ≠ 1
      CompletesIf (.mclrAll f) .any (fun cx s => ∀ l, l < 4 → idle l cx s) (fun cx s => s.retiredTo (upTo 4 cx s) cx [] 1) ∧
      ∀ n p, CompletesIf (.mclrAll f) .any
        (fun cx s => n < 4 ∧ first cx s ≤ n ∧ (blk cx s).slotAt n = some p ∧ (s.mslot cx.unit p).st = 1 ∧ ∀ l, l < n → idle l cx s)
        (fun cx s => (upTo n cx s).waitFor cx.k cx.e 0x09 n 0)) ∧
     CompletesIf (.mloadRt f) .slot (fun cx s => s.userRuns cx.unit = none) (fun cx s =>
       let st := s.loadRtStatus cx.unit (s.ctxOf cx.k) (xb cx s) (xc cx s)
       let c := s.core cx.unit
       let t := if st = 0 then s.setCore cx.unit { c with
         owner := some (s.ctxOf cx.k), rt := tput c.rt (xb cx s) (BitVec.ofNat 32 (putField (xc cx s) 24 6 (s.ctxOf cx.k))) } else s
       s.retiredTo (t.slotDone cx.k cx.e cx.slot cx.op (wrS f.xa.toNat 1 st)) cx [] 1) ∧
     CompletesIf (.mloadCode f) .slot (fun cx s =>
         let q := s.opQuad cx.k cx.e f.xc
         s.checkHandle cx.k (s.opH cx.k cx.e f.xb.toNat) f.xb.toNat rX (8 * field q 96 32) 8 [(0, (field q 0 64 : Int))] = none ∧
           s.userRuns cx.unit = none)
       (fun cx s =>
         let q := s.opQuad cx.k cx.e f.xc
         let h := s.opH cx.k cx.e f.xb.toNat
         s.retiredTo (s.longOp cx (wrS f.xa.toNat 1 0) ([2, 0] ++ leBytes 4 h.obj ++ leBytes 1 h.gen ++ leBytes 6 (h.base + field q 0 64) ++
           leBytes 4 (field q 64 32) ++ leBytes 4 (field q 96 32) ++ leBytes 6 h.base ++ leBytes 1 f.xb.toNat ++
           leBytes 1 h.rights)) cx [] 1) ∧
     CompletesAs (.mloadQ f) .any (fun cx s =>
       let e := if xb cx s < 256 then s.rtEntry cx.unit (xb cx s) else 0
       s.retired cx (wrS f.xa.toNat 2 ((if rtValid e then e else 0) + 2 ^ 32 * (match (s.core cx.unit).owner with
         | some c => 2 ^ 31 + c * 2 ^ 24
         | none => 0))) 2))

/-- R309: `mset.b32` replaces one half of the parameter register and leaves the other half; `mget.b32` reads one half, and `mget.b64` all 64 bits
into an even pair: an odd register there fails check 7 of R121. -/
def Obligations.ParameterRegisters : Prop :=
  ∀ f : XForm,
    let hi := f.mod.getLsbD 0
    let m (s : State) (k : Nat) : W64 := tget 0 (s.group k).m f.xd.toNat
    let value (cx : Cx) (s : State) : W32 := s.opS cx.k cx.e f.xb
    (∃ wr : Cx → State → Wr,
      CompletesAs (.mset false f) .any (fun cx s => s.retired cx [wr cx s] 1) ∧
      ∀ (cx : Cx) (s : State) (k e : Nat), m (s.land k e (wr cx s)) k =
        if hi then value cx s ++ (m s k).extractLsb' 0 32 else (m s k).extractLsb' 32 32 ++ value cx s) ∧
    CompletesAs (.mget false f) .any (fun cx s =>
      s.retired cx (wrS f.xa.toNat 1 ((m s cx.k).extractLsb' (if hi then 32 else 0) 32).toNat) 1) ∧
    CompletesAs (.mget true f) .any (fun cx s => s.retired cx (wrS f.xa.toNat 2 (m s cx.k).toNat) 1) ∧
    (f.xa.toNat % 2 = 1 → ∀ (s s' : State) (cx : Cx), s.readyFor (.mget true f) .any ≠ some (cx, s'))

/-- R313, R291: pushes and pops of a ring by a group; a ring that is disabled, faulted or does not exist traps. -/
def Obligations.RingWords : Prop :=
  ∀ f : XForm,
    let n (cx : Cx) (s : State) : Nat := (s.opS cx.k cx.e f.xb).toNat
    let b (cx : Cx) (s : State) : Nat := (s.group cx.k).block
    let r (cx : Cx) (s : State) : Ring := s.ring (b cx s) (n cx s)
    let usable (cx : Cx) (s : State) : Prop := n cx s ≤ 7 ∧ (r cx s).en = true ∧ (r cx s).flt = false
    let fin := f.mod.getLsbD 0
    let takes (i : Instr) (gd : Guarding) (wrs : List Wr) (lat : Nat) : Prop := ∀ t,
      CompletesIf i gd (fun cx s => usable cx s ∧ fin = true ∧ (r cx s).oldest = some t)
        (fun cx s => s.retiredTo (s.finishTile cx.k (b cx s) (n cx s) t) cx wrs lat)
    let pops (i : Instr) (gd : Guarding) (wrs : List Wr) (lat : Nat) : Prop :=
      CompletesIf i gd (fun cx s => usable cx s ∧ fin = true ∧ (r cx s).full ≠ 0 ∧
          s.loadsFrom cx.k (r cx s).base ((r cx s).base + 128 * (r cx s).tsize * (r cx s).cap) = false)
        (fun cx s => s.retiredTo (s.popTile (b cx s) (n cx s)) cx wrs lat)
    (∀ (i : Instr) (gd : Guarding), (i = .rpushW f ∧ gd = .slot) ∨ (i = .rpushT f ∧ gd = .any) ∨ (i = .rpopW f ∧ gd = .slot) ∨
        (i = .rpopT f ∧ gd = .any) → CompletesIf i gd (fun cx s => ¬ usable cx s)
      (fun cx s => s.takeTrap cx.k cx.e { cause := 0x14, info := 4 * 2 ^ 24 })) ∧
    takes (.rpushW f) .slot [] 1 ∧ takes (.rpushT f) .any (wrP f.xd 0xFFFFFFFF) 2 ∧
    pops (.rpopW f) .slot [] 1 ∧ pops (.rpopT f) .any (wrP f.xd 0xFFFFFFFF) 2 ∧
    CompletesIf (.rpushW f) .slot (fun cx s => usable cx s ∧ fin = true ∧ (r cx s).oldest = none)
      (fun cx s => s.takeTrap cx.k cx.e { cause := 0x14, info := 5 * 2 ^ 24 }) ∧
    CompletesIf (.rpopW f) .slot (fun cx s => usable cx s ∧ fin = true ∧ (r cx s).full = 0 ∧
        s.loadsFrom cx.k (r cx s).base ((r cx s).base + 128 * (r cx s).tsize * (r cx s).cap) = false)
      (fun cx s => s.takeTrap cx.k cx.e { cause := 0x14, info := 6 * 2 ^ 24 }) ∧
    CompletesIf (.rpushW f) .slot (fun cx s => usable cx s ∧ fin = false)
      (fun cx s => s.retiredTo (s.longOp cx (wrS f.xa.toNat 1 0) [0, BitVec.ofNat 8 (n cx s)]) cx [] 1) ∧
    CompletesIf (.rpopW f) .slot (fun cx s => usable cx s ∧ fin = false)
      (fun cx s => s.retiredTo (s.longOp cx (wrS f.xa.toNat 1 0) [1, BitVec.ofNat 8 (n cx s)]) cx [] 1) ∧
    CompletesIf (.rpushT f) .any (fun cx s => usable cx s ∧ fin = false ∧
        (r cx s).full + (r cx s).rsv + s.takesBefore cx.k (n cx s) s.nextId < (r cx s).cap)
      (fun cx s =>
        let q := r cx s
        let t := (q.head + q.full + q.rsv) % q.cap
        s.retiredTo (s.setRing (b cx s) (n cx s) { q with rsv := q.rsv + 1, taken := q.taken ++ [(t, 0, false)] }) cx
          (wrP f.xd 0xFFFFFFFF ++ wrS f.xa.toNat 1 (q.base + 128 * q.tsize * t)) 2) ∧
    CompletesIf (.rpushT f) .any (fun cx s => usable cx s ∧ fin = false ∧
        (r cx s).cap ≤ (r cx s).full + (r cx s).rsv + s.takesBefore cx.k (n cx s) s.nextId)
      (fun cx s => s.retired cx (wrP f.xd 0 ++ wrS f.xa.toNat 1 0xFFFFFFFF) 2) ∧
    CompletesIf (.rpopT f) .any (fun cx s => usable cx s ∧ fin = false ∧ (r cx s).full ≠ 0)
      (fun cx s => s.retired cx (wrP f.xd 0xFFFFFFFF ++ wrS f.xa.toNat 1 ((r cx s).base + 128 * (r cx s).tsize * (r cx s).head)) 2) ∧
    CompletesIf (.rpopT f) .any (fun cx s => usable cx s ∧ fin = false ∧ (r cx s).full = 0)
      (fun cx s => s.retired cx (wrP f.xd 0 ++ wrS f.xa.toNat 1 0xFFFFFFFF) 2)

/-- R314: spills and fills of a slot's tile make the slot busy with one access in pieces of 128 bytes, behind the group's earlier accesses. -/
def Obligations.SpillsAndFills : Prop :=
  ∀ f : XForm,
    let bytes (cx : Cx) : Nat := 4 * accRows cx.unit * accCols cx.unit
    let blk (cx : Cx) (s : State) : Nat := (s.group cx.k).block
    let held (fill : Bool) (p : Nat) (cx : Cx) (s : State) : Prop := (s.blockOf cx.k).slotAt f.xd.toNat = some p ∧ (s.mslot cx.unit p).st ≠ 1 ∧
      (fill = true → (s.mslot cx.unit p).st ≠ 3)
    let o (cx : Cx) (s : State) : Nat := (s.opS cx.k cx.e f.xb).toNat
    let ho (cx : Cx) (s : State) : Nat := (s.opS64 cx.k cx.e f.xc).toNat
    let h (cx : Cx) (s : State) : HandleReg := s.opH cx.k cx.e f.xb.toNat
    let takes (cx : Cx) (s : State) (p : Nat) (a : Access) : State :=
      let t := s.newAccess cx { a with after := s.earlier cx.k (fun a => a.kind.inLoads || a.kind.inStores) }
      s.retiredTo (t.setMslot cx.unit p { s.mslot cx.unit p with st := 1, holder := some (s.nextId, (s.mslot cx.unit p).st) }) cx [] 1
    let near (i : Instr) (fill : Bool) (kind : Nat → AccKind) : Prop :=
      (∀ p, CompletesIf i .slot (fun cx s => s.checkSpm (blk cx s) (bytes cx) 128 fill [(0, (o cx s : Int))] = none ∧ held fill p cx s ∧
          s.wakeFor (blk cx s) (bankOffsets cx.unit (o cx s) (bytes cx)) = none)
        (fun cx s => takes cx s p { Access.start (kind p) (tileElems cx.unit (o cx s) (o cx s) (fun j => .mem (s.spmAt (blk cx s) (o cx s + j)))) with
          accepted := true, local_ := true, size := 128 })) ∧
      ∀ t, CompletesIf i .slot (fun cx s => s.checkSpm (blk cx s) (bytes cx) 128 fill [(0, (o cx s : Int))] = some t)
        (fun cx s => s.takeTrap cx.k cx.e { t with fmask := 0 })
    let far (i : Instr) (fill : Bool) (kind : Nat → AccKind) : Prop :=
      let check (cx : Cx) (s : State) : Option TrapInfo :=
        s.checkHandle cx.k (h cx s) f.xb.toNat (if fill then rR else rW) (bytes cx) 128 [(0, (ho cx s : Int))]
      (∀ p, CompletesIf i .slot (fun cx s => check cx s = none ∧ held fill p cx s)
        (fun cx s => takes cx s p { Access.start (kind p) (tileElems cx.unit (ho cx s) ((h cx s).base + ho cx s) (fun _ => .unresolved)) with
          hbits := (h cx s).bits, hreg := f.xb.toNat % 32, size := 128 })) ∧
      ∀ t, CompletesIf i .slot (fun cx s => check cx s = some t) (fun cx s => s.takeTrap cx.k cx.e { t with fmask := 0 })
    near (.mspillL f) false .mspill ∧ near (.mfillL f) true .mfill ∧ far (.mspillG f) false .mspill ∧ far (.mfillG f) true .mfill

/-- R297-R303: what each microinstruction does to its slot, when it names only the bits of its own fields; else it faults with reason 1.
A drain writes its tile byte by byte, in an order of free choices (the model's choice, log entry 78). -/
def Obligations.Microinstructions : Prop :=
  ∀ (w : MuWord) (s : State) (u p : Nat), s.cur = .engine u p →
    let m := s.mslot u p
    let x := w.toNat
    let only (i : Instr) : Prop := x &&& muListed i = x
    let next (t : State) (m : MSlot) : State := t.setMslot u p { m with upc := m.upc + 1 }
    let opB := bitAt x 57
    let c := field x 23 4
    let records : Bool := m.mode == 2 || (m.mode == 1 && opB)
    (∀ i : Instr, i ∈ [.muFeed w, .muStep w, .muAcc w, .muSparse w, .muScale w, .muDrain w, .muClear w, .muPop w, .muLoop w, .muSig w, .muYield w,
      .muEnd w] → ¬ only i → exec i s = .next (s.routineFaults u p 0x01 0)) ∧
    (only (.muFeed w) → (9 ≤ c ∨ (records = true ∧ field x 8 12 ≠ 0)) → exec (.muFeed w) s = .next (s.routineFaults u p 0x01 0)) ∧
    (∀ r o, only (.muFeed w) → ¬ (9 ≤ c ∨ (records = true ∧ field x 8 12 ≠ 0)) →
      s.feed m.block m.mode opB (field x 54 3) (muBase w m) (field x 27 12) c (field x 20 3) = .bad r o →
      exec (.muFeed w) s = .next (s.routineFaults u p r o)) ∧
    (∀ rows n, only (.muFeed w) → ¬ (9 ≤ c ∨ (records = true ∧ field x 8 12 ≠ 0)) →
      s.feed m.block m.mode opB (field x 54 3) (muBase w m) (field x 27 12) c (field x 20 3) = .ok (rows, n) →
      exec (.muFeed w) s = .next (next s (
        let m' : MSlot := if opB then { m with b := some (c, rows) } else { m with a := some (c, rows) }
        if records then m'.setW (field x 51 3) ((m'.wreg (field x 51 3) : Int) + n) else muAdvance w m'))) ∧
    (∀ r, only (.muStep w) → m.step (bitAt x 57) = .ok r → exec (.muStep w) s = .next (next s r)) ∧
    (∀ r, only (.muStep w) → m.step (bitAt x 57) = .error r → exec (.muStep w) s = .next (s.routineFaults u p r 0)) ∧
    (∀ r, only (.muAcc w) → m.accumulate u = .ok r → exec (.muAcc w) s = .next (next s r)) ∧
    (∀ r, only (.muAcc w) → m.accumulate u = .error r → exec (.muAcc w) s = .next (s.routineFaults u p r 0)) ∧
    (only (.muSparse w) → field x 56 2 ≠ 3 → exec (.muSparse w) s = .next (next s { m.emptyLatches with mode := field x 56 2 })) ∧
    (∀ r, only (.muScale w) → s.feedScale m.block opB (field x 54 3) (muBase w m) (field x 20 3) = .ok r →
      exec (.muScale w) s = .next (next s (muAdvance w (if opB then { m with sb := some r } else { m with sa := some r })))) ∧
    (only (.muDrain w) → m.drainLeft = none → m.drainTile = none → 3 ≤ field x 24 3 → exec (.muDrain w) s = .next (s.routineFaults u p 0x01 0)) ∧
    -- a drain to an offset begins, then writes the tile's bytes one a step in a free order; the last clears the granules it covers, and goes on
    (let o := muBase w m
     let stride := field x 27 12
     let ofmt := field x 24 3
     let bytes := drainSize (unitOfBlock m.block) ofmt
     (only (.muDrain w) → ofmt < 3 → bitAt x 57 = false → m.drainLeft = none → m.drainTile = none →
       s.drainBad m.block m o stride ofmt 0 (s.spmSize m.block) = none →
       exec (.muDrain w) s = .next (s.fresh.2.setMslot u p { m with drainLeft := some (List.range bytes), drainTile := none })) ∧
     (∀ y, only (.muDrain w) → ofmt < 3 → bitAt x 57 = false → m.drainLeft = none → m.drainTile = none →
       s.drainBad m.block m o stride ofmt 0 (s.spmSize m.block) = some y → exec (.muDrain w) s = .next (s.routineFaults u p y.1 y.2)) ∧
     ∀ left t rest, only (.muDrain w) → bitAt x 57 = false → m.drainLeft = some left → s.drainByte m.block m o stride ofmt left = .ok (t, rest) →
       (rest ≠ [] → exec (.muDrain w) s = .next (t.setMslot u p { m with drainLeft := some rest })) ∧
       (rest = [] → m.drainTile = none → exec (.muDrain w) s = .next (next (t.drainClean m.block o stride ofmt)
         (muAdvance w { m with drainLeft := none, nbytes := m.nbytes + bytes, acc := if bitAt x 23 then [] else m.acc })))) ∧
    (only (.muClear w) → exec (.muClear w) s = .next (next s { m with acc := [], accPz := [] })) ∧
    (only (.muPop w) → (s.ring m.block (field x 55 3)).usable = true → (s.ring m.block (field x 55 3)).full ≠ 0 →
      exec (.muPop w) s = .next (next (s.popTile m.block (field x 55 3)) m)) ∧
    (only (.muLoop w) → m.wreg (field x 55 3) = 0 → exec (.muLoop w) s = .next (next s m)) ∧
    (only (.muLoop w) → m.wreg (field x 55 3) = 1 → exec (.muLoop w) s = .next (next s (m.setW (field x 55 3) 0))) ∧
    (only (.muLoop w) → 1 < m.wreg (field x 55 3) → inRoutine (s.rtEntry u m.routine) (field x 43 12) = true →
      exec (.muLoop w) s = .next (s.setMslot u p { m.setW (field x 55 3) ((m.wreg (field x 55 3) : Int) - 1) with upc := field x 43 12 })) ∧
    (only (.muSig w) → bitAt x 54 = true → m.nbytes = 0 → m.wreg (field x 55 3) % 2 ^ 32 % 16 = 0 →
      s.inSpm m.block (m.wreg (field x 55 3) % 2 ^ 32 : Nat) 16 = true → exec (.muSig w) s = .next (next s { m with nbytes := 0 })) ∧
    (only (.muSig w) → bitAt x 54 = false → m.wreg (field x 55 3) % 2 ^ 32 % 16 = 0 →
      s.inSpm m.block (m.wreg (field x 55 3) % 2 ^ 32 : Nat) 16 = true →
      exec (.muSig w) s = .next (next (s.routineArrives m.block p (m.wreg (field x 55 3) % 2 ^ 32) m.nbytes) { m with nbytes := 0 })) ∧
    (only (.muYield w) → m.buf = none → exec (.muYield w) s = .next (next s (s.yieldSlot m))) ∧
    (only (.muYield w) → m.buf ≠ none → exec (.muYield w) s = .next (s.routineFaults u p 0x0B 0)) ∧
    (only (.muEnd w) → exec (.muEnd w) s = .next (s.routineEnds u p m))

/-- R325-R331: the barrier instructions. A misplaced or malformed object traps; else each leaves its update in the store queue, changes its
group's registration, or answers.
A `bwait` is over where the parity has differed at any time since it began to watch (R322, R330). -/
def Obligations.BarrierWords : Prop :=
  ∀ f : XForm,
    let off (cx : Cx) (s : State) : Nat := (s.opS cx.k cx.e f.xb).toNat
    let n (cx : Cx) (s : State) : Nat := (s.opS cx.k cx.e f.xc).toNat
    let blk (cx : Cx) (s : State) : Nat := (s.group cx.k).block
    -- the object can be reached now, and (where `form`) is well-formed
    let placed (live form : Bool) (cx : Cx) (s : State) : Prop :=
      s.barPlace cx.k (off cx s) live = none ∧ s.rangeHold (blk cx s) [(none, (off cx s : Int), (off cx s : Int) + 16)] = none ∧
        s.wakeFor (blk cx s) [off cx s] = none ∧ (form = true → s.barBusy cx.k (off cx s) = false ∧ bWf (s.barSeen cx.k (off cx s)) = true)
    let update (kind : Cx → State → AccKind) (after : Cx → State → List Nat) (dst : Nat) (cx : Cx) (s : State) : State :=
      s.retiredAccess cx { Access.start (kind cx s) [{ lane := 0, off := off cx s, obj := off cx s, n := 16, loc := .mem (s.spmAt (blk cx s) (off cx s)) }] with
        accepted := true, local_ := true, after := after cx s, dst := dst, scalar := true, size := 16 }
    let tooMany (cx : Cx) (s : State) : State := s.takeTrap cx.k cx.e { cause := 0x16, addr := off cx s, info := 4 * 2 ^ 24 }
    let released (cx : Cx) (s : State) : List Nat :=
      if mf f.mod 0 3 = 0 then [] else s.earlier cx.k (fun a => a.kind.inLoads || a.kind.inStores)
    CompletesIf (.binit f) .any (fun cx s => placed false false cx s ∧ n cx s ≤ 0xFFFF)
      (update (fun cx s => .binit (off cx s) (n cx s) (f.mod.getLsbD 0)) (fun _ _ => []) 0) ∧
    CompletesIf (.binit f) .any (fun cx s => placed false false cx s ∧ 0xFFFF < n cx s) tooMany ∧
    CompletesIf (.barr f) .slot (fun cx s => placed true true cx s ∧ n cx s ≤ 0x7FFFFFFF)
      (update (fun cx s => .barr (off cx s) (n cx s)) released f.xa.toNat) ∧
    CompletesIf (.bexp f) .any (fun cx s => placed true true cx s ∧ n cx s ≤ 0x7FFFFFFF)
      (update (fun cx s => .bexp (off cx s) (n cx s)) (fun _ _ => []) 0) ∧
    (∀ (i : Instr) (gd : Guarding), (i = .barr f ∧ gd = .slot) ∨ (i = .bexp f ∧ gd = .any) →
      CompletesIf i gd (fun cx s => placed true true cx s ∧ 0x7FFFFFFF < n cx s) tooMany) ∧
    CompletesIf (.bdrop f) .any (placed true true) (update (fun cx s => .bdrop (off cx s)) released 0) ∧
    CompletesIf (.bjoin f) .any (fun cx s => placed true true cx s ∧ (s.group cx.k).regFor (off cx s) ≠ none) (fun cx s => s.retired cx [] 1) ∧
    (∀ i, i < 16 → CompletesIf (.bjoin f) .any (fun cx s => placed true true cx s ∧ (s.group cx.k).regFor (off cx s) = none ∧
        regValid (tget 0 (s.group cx.k).reg i) = false ∧ ∀ j, j < i → regValid (tget 0 (s.group cx.k).reg j) = true)
      (fun cx s => s.retiredTo (s.setReg cx.k i (BitVec.ofNat 64 (off cx s + 1))) cx [] 1)) ∧
    CompletesIf (.bjoin f) .any (fun cx s => placed true true cx s ∧ (s.group cx.k).regFor (off cx s) = none ∧
        ∀ j, j < 16 → regValid (tget 0 (s.group cx.k).reg j) = true)
      (fun cx s => s.takeTrap cx.k cx.e { cause := 0x16, addr := off cx s, info := 3 * 2 ^ 24 }) ∧
    (∀ i, CompletesIf (.bleave f) .any (fun cx s => placed true false cx s ∧ (s.group cx.k).regFor (off cx s) = some i)
      (fun cx s => s.retiredTo (s.setReg cx.k i 0) cx [] 1)) ∧
    CompletesIf (.bleave f) .any (fun cx s => placed true false cx s ∧ (s.group cx.k).regFor (off cx s) = none) (fun cx s => s.retired cx [] 1) ∧
    -- a wait ends where the phase's parity differs from the one named, or has differed since it began to watch (R330)
    CompletesIf (.bwait f) .any (fun cx s => placed true true cx s ∧ bState (s.barSeen cx.k (off cx s)) = 0 ∧
        (bPhase (s.barSeen cx.k (off cx s)) % 2 ≠ n cx s % 2 ∨ s.bwaitEnded cx.k cx.e (n cx s % 2) = true))
      (fun cx s => s.retiredTo (if mf f.mod 0 3 = 0 then s
        else s.hold cx.k (s.earlier cx.k (fun a => a.kind.inLoads)) (decide (mf f.mod 0 3 = 3 ∨ mf f.mod 0 3 = 4))) cx [] 1) ∧
    CompletesIf (.bwait f) .any (fun cx s => placed true true cx s ∧ bState (s.barSeen cx.k (off cx s)) = 0 ∧
        bPhase (s.barSeen cx.k (off cx s)) % 2 = n cx s % 2 ∧ s.bwaitEnded cx.k cx.e (n cx s % 2) = false)
      (fun cx s => (s.waitFor cx.k cx.e 0x01 (off cx s) (s.barSeen cx.k (off cx s) / 2 ^ 64)).watchBar cx.k cx.e (s.spmAt (blk cx s) (off cx s))) ∧
    CompletesIf (.bwait f) .any (fun cx s => placed true true cx s ∧ bState (s.barSeen cx.k (off cx s)) ≠ 0) (fun cx s =>
      let t := s.barFaultTrap cx.k (off cx s) (s.barSeen cx.k (off cx s))
      t.2.takeTrap cx.k cx.e t.1) ∧
    CompletesIf (.bpoll f) .slot (placed true false) (fun cx s =>
      s.retiredAccess cx { Access.start .load (s.spmElems (blk cx s) 16 [(0, (off cx s : Int))] (fun _ => [])) with
        accepted := true, local_ := true, dst := f.xa.toNat, scalar := true, size := 16 }) ∧
    ∀ (i : Instr) (gd : Guarding) (live : Bool) (t : TrapInfo),
      (i = .binit f ∧ gd = .any ∧ live = false) ∨ (i = .barr f ∧ gd = .slot ∧ live = true) ∨ (i = .bpoll f ∧ gd = .slot ∧ live = true) ∨
        (live = true ∧ gd = .any ∧ (i = .bjoin f ∨ i = .bleave f ∨ i = .bdrop f ∨ i = .bexp f ∨ i = .bwait f)) →
      CompletesIf i gd (fun cx s => s.barPlace cx.k (off cx s) live = some t) (fun cx s => s.takeTrap cx.k cx.e t)

/-- R332-R334: atomics and reductions, through a handle and in the block's scratchpad. R336-R339: semaphore instructions: a number outside the region's range (on a control core, of the device) traps. -/
def Obligations.AtomicAndSemaphoreWords : Prop :=
  (∀ f : MForm,
     let op := mf f.mod 2 4
     let e := atomSize op
     let ctl (cx : Cx) : Bool := cx.ck == .control
     let goffs (cx : Cx) (s : State) := s.accessOffsets cx f e true false (ctl cx)
     let loffs (cx : Cx) (s : State) := s.accessOffsets cx { f with mod := f.mod &&& 1 } e true false (ctl cx)
     let at0 (cx : Cx) (s : State) : Int := s.accessOffset cx f e true false 0
     let data (cx : Cx) (s : State) : Nat → List Byte := s.atomData cx f.d (atomSrcRegs op)
     let far (kind : AccKind) (cx : Cx) (s : State) (h : HandleReg) : Access :=
       { Access.start kind (objElems h e (goffs cx s) (data cx s)) with size := e, dst := f.d.toNat, scalar := ctl cx }
     let near (kind : AccKind) (cx : Cx) (s : State) : Access :=
       { Access.start kind (s.spmElems (s.group cx.k).block e (loffs cx s) (data cx s)) with size := e, dst := f.d.toNat }
     HandleWord (.atomG f) .slot f.h.toNat (rR + rW + rA) e e goffs at0 (far (.atom op)) ∧
     HandleWord (.redG f) .any f.h.toNat (rR + rW + rA) e e goffs at0 (far (.red op)) ∧
     ScratchWord (.atomL f) .slot e e true loffs (fun _ _ => True) (near (.atom op)) ∧
     ScratchWord (.redL f) .any e e true loffs (fun _ _ => True) (near (.red op))) ∧
  (∀ (o : SemSigForm) (f : XForm),
     let num (cx : Cx) (s : State) : Nat := match o with
       | .x f => (s.opS cx.k cx.e f.xb).toNat
       | .i f => (s.opS cx.k cx.e f.src0).toNat
     let value (cx : Cx) (s : State) : Nat := match o with
       | .x f => (s.opS64 cx.k cx.e f.xc).toNat
       | .i f => f.imm.toNat
     let n (cx : Cx) (s : State) : Nat := (s.opS cx.k cx.e f.xb).toNat
     let off (cx : Cx) (s : State) : Nat := (s.opS cx.k cx.e f.xa).toNat
     let allowed (cx : Cx) (s : State) (n : Nat) : Prop :=
       if cx.ck = .control then n < 4096 else (s.blockOf cx.k).rv.semLo ≤ n ∧ n ≤ (s.blockOf cx.k).rv.semHi
     let traps (cx : Cx) (s : State) (n : Nat) : State := s.takeTrap cx.k cx.e { cause := 0x06, info := 0x20 * 2 ^ 24, addr := n }
     CompletesIf (.semSig o) .any (fun cx s => allowed cx s (num cx s)) (fun cx s =>
       s.retiredAccess cx { Access.start (.semSig (num cx s) (BitVec.ofNat 64 (value cx s))) [] with
         after := s.earlier cx.k (fun a => a.kind.inLoads || a.kind.inStores) }) ∧
     CompletesIf (.semSig o) .any (fun cx s => ¬ allowed cx s (num cx s)) (fun cx s => traps cx s (num cx s)) ∧
     CompletesIf (.semPoll f) .slot (fun cx s => allowed cx s (n cx s)) (fun cx s =>
       s.retiredAccess cx { Access.start (.semPoll (n cx s)) [] with dst := f.xa.toNat, scalar := true }) ∧
     CompletesIf (.semPoll f) .slot (fun cx s => ¬ allowed cx s (n cx s)) (fun cx s => traps cx s (n cx s)) ∧
     CompletesIf (.semBind f) .any (fun cx s => cx.ck ≠ .control ∧ s.barPlace cx.k (off cx s) true = none ∧
         s.rangeHold (s.group cx.k).block [(none, (off cx s : Int), (off cx s : Int) + 16)] = none ∧ s.wakeFor (s.group cx.k).block [off cx s] = none ∧
         s.barBusy cx.k (off cx s) = false ∧ bWf (s.barSeen cx.k (off cx s)) = true ∧ allowed cx s (n cx s) ∧ s.bindingsOf (s.group cx.k).block < 16)
       (fun cx s => s.retiredAccess cx (Access.start (.semBind (n cx s) (s.opS64 cx.k cx.e f.xc) (off cx s)) [])) ∧
     CompletesIf (.semBind f) .any (fun cx _ => cx.ck = .control) (fun cx s => s.takeTrap cx.k cx.e { cause := 0x0A, addr := off cx s }))

/-- R253-R256, R275: `cp.go` reads its descriptor and, where every check passes, starts the copy in the lowest free entry; a failing check traps
with the descriptor's address. R257, R258, R291: a copy in flight starts in order, lands its elements, and ends; a ring's tiles are pushed in order.
An element lands byte by byte, in an order of free choices (the model's choice, log entry 55). -/
def Obligations.CopyEngine : Prop :=
  (∀ f : XForm,
    let b (cx : Cx) (s : State) : Nat := (s.group cx.k).block
    let p (cx : Cx) (s : State) : Nat := (s.opS cx.k cx.e f.xb).toNat
    let d (cx : Cx) (s : State) : List Byte := (List.range 256).map (fun i => (s.ownBytes cx.k (s.spmAt (b cx s) (p cx s + i)) 1).headD 0)
    let src (cx : Cx) (s : State) : HandleReg := s.opH cx.k cx.e (dSrcReg (d cx s))
    let dst (cx : Cx) (s : State) : HandleReg := s.opH cx.k cx.e (dDstReg (d cx s))
    let spans (cx : Cx) (s : State) : List Place := copySpans (d cx s) (src cx s) (dst cx s) (s.ring (b cx s) (dRnum (d cx s)))
    let free (cx : Cx) (s : State) (n : Nat) : Prop := ∀ c ∈ s.copies, ¬ (c.block = b cx s ∧ c.entry = n)
    let read (cx : Cx) (s : State) (n : Nat) : Prop :=
      s.checkSpm (b cx s) 256 16 true [(0, (p cx s : Int))] = none ∧ s.rangeHold (b cx s) [(none, (p cx s : Int), (p cx s : Int) + 256)] = none ∧
        (n < 16 ∧ free cx s n ∧ ∀ i, i < n → ¬ free cx s i) ∧ s.wakeFor (b cx s) [p cx s, p cx s + 255] = none ∧
        ∀ i, i < 16 → s.ownBusy cx.k (s.spmAt (b cx s) (p cx s + 16 * i)) 16 = false
    let regsOk (cx : Cx) (s : State) : Prop :=
      (dSrcKind (d cx s) = 0 → s.descRegTrap cx.k cx.e (dSrcReg (d cx s)) = none) ∧
        (dDstKind (d cx s) = 0 → s.descRegTrap cx.k cx.e (dDstReg (d cx s)) = none)
    let handlesOk (cx : Cx) (s : State) : Prop :=
      (dSrcKind (d cx s) = 0 → s.descHandleTrap cx.k (dSrcReg (d cx s)) (src cx s) (rR + rC) = none) ∧
        (dDstKind (d cx s) = 0 → s.descHandleTrap cx.k (dDstReg (d cx s)) (dst cx s) (rW + rC) = none)
    let clash (cx : Cx) (s : State) : Prop := ∃ x y : Place, spans cx s = [x, y] ∧ x.1 = y.1 ∧ x.2.1 < y.2.2 ∧ y.2.1 < x.2.2
    (∀ n, CompletesIf (.cpGo f) .any
      (fun cx s => read cx s n ∧ s.descReason (b cx s) (d cx s) = none ∧ regsOk cx s ∧ handlesOk cx s ∧ ¬ clash cx s ∧ dCount (d cx s) ≠ 0)
      (fun cx s =>
        let t := s.fresh.2
        let y : Copy := {
          id := s.nextId, block := b cx s, ctx := s.ctxOf cx.k, desc := d cx s, srcH := src cx s, dstH := dst cx s, srcReg := dSrcReg (d cx s)
          dstReg := dDstReg (d cx s), entry := n, spans := spans cx s, after := s.earlier cx.k (fun a => a.kind.inLoads || a.kind.inStores) }
        s.retiredTo ({ t with copies := t.copies ++ [y] }.post .copyStart { a := s.nextId }) cx [] 1)) ∧
    (∀ n, CompletesIf (.cpGo f) .any
      (fun cx s => read cx s n ∧ s.descReason (b cx s) (d cx s) = none ∧ regsOk cx s ∧ handlesOk cx s ∧ ¬ clash cx s ∧ dCount (d cx s) = 0)
      (fun cx s => s.retired cx [] 1)) ∧
    (∀ n r, CompletesIf (.cpGo f) .any (fun cx s => read cx s n ∧ s.descReason (b cx s) (d cx s) = some r)
      (fun cx s => s.takeTrap cx.k cx.e { cause := 0x13, addr := p cx s, info := r * 2 ^ 24 })) ∧
    ∀ n, CompletesIf (.cpGo f) .any
      (fun cx s => read cx s n ∧ s.descReason (b cx s) (d cx s) = none ∧ regsOk cx s ∧ handlesOk cx s ∧ clash cx s)
      (fun cx s => s.takeTrap cx.k cx.e { cause := 0x13, addr := p cx s, info := 7 * 2 ^ 24 })) ∧
  -- copies in flight
  (∀ (s : State) (y : Copy), s.copy s.arg.a = some y →
    let inOrder : Prop := (∀ c ∈ s.copies, unitOfBlock c.block = unitOfBlock y.block → c.id < y.id → c.started = true) ∧
      ∀ a ∈ s.accesses, a.id ∉ y.after
    (inOrder → dRing y.desc = false →
      exec .copyStart s = .next ((s.setCopy { y with started := true, left := List.range (dCount y.desc) }).post .copyLineLanded { a := y.id })) ∧
    (inOrder → dRing y.desc = true → (s.ring y.block (dRnum y.desc)).usable = false →
      exec .copyStart s = .next ((s.setCopy { y with started := true, failed := some (0, 0x17) }).post .copyFault { a := y.id })) ∧
    -- one byte of an element lands, in an order of free choices; the barrier counts an element once its last byte has landed
    (y.paused = false → ∀ x t,
      let i := (s.choose y.left.length).1
      let s' := (s.choose y.left.length).2
      let offs := s'.copyOffs y x
      let todo := (tfind y.part x).getD (List.range (2 ^ dEsize y.desc))
      let c := s'.choose todo.length
      let rest := todo.filter (· != todo.getD c.1 0)
      let left := y.left.filter (· != x)
      y.left[i]? = some x → (∀ w ∈ y.left, ¬ (w < x ∧ sameBytes y.desc w x = true)) →
      (∀ o ∈ offs, s'.bankHeld s'.nextId (s'.spmAt y.block o) = false) → s'.wakeFor y.block offs = none →
      c.2.copyByte y x (todo.getD c.1 0) rest.isEmpty = .ok t →
      (rest ≠ [] → exec .copyLineLanded s = .next ((t.setCopy { y with part := tput y.part x rest }).post .copyLineLanded { a := y.id })) ∧
      (rest = [] → exec .copyLineLanded s = .next (((t.barUpdate y.block (dBar y.desc) (.landing (2 ^ dEsize y.desc))).setCopy
        { y with left := left, part := tdel y.part x }).post
        (if !left.isEmpty then .copyLineLanded else if y.failed.isSome then .copyFault else .copyComplete) { a := y.id }))) ∧
    (y.tile = none → exec .copyComplete s = .next { s with copies := s.copies.filter (fun c => c.id != y.id) }) ∧
    (∀ x r, y.failed = some (x, r) → (s.block y.block).copyFault = none →
      let t := { s with copies := s.copies.filter (fun c => c.id != y.id) }
      exec .copyFault s = .next ((t.setBlock y.block { s.block y.block with copyFault := some ⟨dSa y.desc x, dDa y.desc x, r, 0⟩ }).barUpdate
        y.block (dBar y.desc) (.fault 1)))) ∧
  ∀ (s : State) (t who : Nat), s.arg.flag = false →
    let r := s.ring s.arg.a s.arg.b
    who ≠ 1 → r.taken = [(t, who, true)] →
    exec .ringPush s = .next (s.setRing s.arg.a s.arg.b { r with taken := [], rsv := r.rsv - 1, full := r.full + 1 })

/-- R373-R378: the fabric instructions. A memory form waits until its group's loads and stores are done and fewer than 32 fabric operations are
outstanding; a signal to a legal chip and semaphore leaves; `ffence` waits for them all and delivers the pending error. -/
def Obligations.FabricWords : Prop :=
  ∀ (f : XForm) (w : Bool),
    let n := 4 * wn (f.mod.getLsbD 0)
    let m := 4 * wn w
    let op := mf f.mod 2 4
    let wide (cx : Cx) : Bool := cx.ck == .control
    FabricWord (.fst f) .any f 0 (rW + rF) n wide (fun cx s => s.atomData cx f.xa (wn (f.mod.getLsbD 0))) ∧
    FabricWord (.fld f) .slot f 1 (rR + rF) n wide (fun _ _ _ => []) ∧
    FabricWord (.ffadd w f) .slot f (if w then 17 else 16) (rR + rW + rA + rF) m (fun _ => true)
      (fun cx s _ => leBytes m (s.opN cx.k cx.e f.xd w)) ∧
    FabricWord (.fred f) .any f (32 + op) (rR + rW + rA + rF) (atomSize op) wide (fun cx s => s.atomData cx f.xa (atomSrcRegs op)) ∧
    let quiet (cx : Cx) (s : State) : Prop := s.fabricReady cx.k = true ∧ s.fabricBusy cx.k = false
    CompletesIf (.ffence f) .any (fun cx s => ¬ quiet cx s) (fun cx s => s.waitFor cx.k cx.e 8 cx.op 0) ∧
    CompletesIf (.ffence f) .any (fun cx s => quiet cx s ∧ (s.group cx.k).pend = none)
      (fun cx s => s.retiredTo (s.setGroup cx.k { s.group cx.k with pend := none }) cx [] 1) ∧
    (∀ p, CompletesIf (.ffence f) .any (fun cx s => quiet cx s ∧ (s.group cx.k).pend = some p)
      (fun cx s => (s.setGroup cx.k { s.group cx.k with pend := none }).takeTrap cx.k cx.e
        { cause := 0x18, src := 6, addr := p.addr, addr2 := p.addr2, info := p.status % 256 * 2 ^ 24 + p.chip % 4096 * 4096 + p.count % 4096 })) ∧
    let chip (cx : Cx) (s : State) : Nat := (s.opS cx.k cx.e f.xa).toNat
    let v (cx : Cx) (s : State) : Nat := (s.opS cx.k cx.e f.xb).toNat
    let ready (cx : Cx) (s : State) : Prop := s.fabricReady cx.k = true ∧ (chip cx s < 4096 → s.routeHeld (chip cx s) 0 = false)
    let bad (st : Nat) (cx : Cx) (s : State) : State :=
      s.takeTrap cx.k cx.e { cause := 0x18, src := 6, addr := chip cx s, addr2 := v cx s, info := st * 2 ^ 24 + chip cx s % 4096 * 4096 }
    (∀ i, i = .fsig f ∨ i = .ffenceF f →
      CompletesIf i .any (fun cx s => ¬ ready cx s) (fun cx s => s.waitFor cx.k cx.e 8 cx.op 0) ∧
      CompletesIf i .any (fun cx s => ready cx s ∧ 4096 ≤ chip cx s) (bad 0x02) ∧
      CompletesIf i .any (fun cx s => ready cx s ∧ chip cx s < 4096 ∧ 4096 ≤ v cx s) (bad 0x08) ∧
      CompletesIf i .any (fun cx s => ready cx s ∧ chip cx s < 4096 ∧ v cx s < 4096 ∧ (s.context (s.ctxOf cx.k)).fen = false) (bad 0x03)) ∧
    CompletesIf (.fsig f) .any
      (fun cx s => ready cx s ∧ chip cx s < 4096 ∧ v cx s < 4096 ∧ (s.context (s.ctxOf cx.k)).fen = true)
      (fun cx s => s.retiredAccess cx { Access.start (.fsig false (chip cx s) (v cx s) (s.opS64 cx.k cx.e f.xc)) [] with
        accepted := true, after := [], errChip := chip cx s, errAddr := v cx s, error := 0 }) ∧
    CompletesIf (.ffenceF f) .any
      (fun cx s => ready cx s ∧ chip cx s < 4096 ∧ v cx s < 4096 ∧ (s.context (s.ctxOf cx.k)).fen = true)
      (fun cx s => s.retiredAccess cx { Access.start (.fsig true (chip cx s) (v cx s) (s.opS64 cx.k cx.e f.xc)) [] with
        accepted := true, errChip := chip cx s, errAddr := v cx s
        error := if (s.group cx.k).failed.contains (chip cx s) then 0x0B else 0
        after := s.earlier cx.k (fun a => match a.kind with
          | .fsig _ c _ _ => c == chip cx s
          | .clean => false
          | _ => true) })

/-- R392, R404: a return from a trap clears the handler flag, gives the sub-group back the lanes of tr.amask and goes on at (tr.clause, tr.pc), past the
word for `tret.n`; outside a handler it is illegal, and where the mask does not fit it is a double trap. A clause offset beyond 2^40 - 1 fails
at the fetch (R98). `tesc` records its word and escalates; the group takes a mark where it goes on (R394). -/
def Obligations.TrapReturnAndEscalation : Prop :=
  ∀ (f : XForm) (skip : Bool),
    let i : Instr := if skip then .tretN f else .tret f
    let g (cx : Cx) (s : State) : Group := s.group cx.k
    CompletesIf i .any (fun cx s => (g cx s).handler = false) (fun cx s => s.takeTrap cx.k cx.e { cause := 0x01, info := 0x10 * 2 ^ 24 }) ∧
    CompletesIf i .any (fun cx s => (g cx s).handler = true ∧ ((g cx s).tr.amask = 0 ∨ (g cx s).tr.amask &&& (g cx s).otherLanes cx.e ≠ 0))
      (fun cx s => s.takeDouble cx.k cx.e 0x1C (s.sub cx.k cx.e).here) ∧
    (∀ (s s' : State) (cx : Cx), s.readyFor i .any = some (cx, s') → cx.act ≠ 0 → (g cx s').handler = true → (g cx s').tr.amask ≠ 0 →
      (g cx s').tr.amask &&& (g cx s').otherLanes cx.e = 0 →
      ∃ t, exec i s = .next t ∧ (t.group cx.k).handler = false ∧ (t.sub cx.k cx.e).lanes = (g cx s').tr.amask ∧
        (t.sub cx.k cx.e).pc = (g cx s').tr.clause.toNat % 2 ^ 40 ∧ (t.sub cx.k cx.e).clause = none ∧ (t.sub cx.k cx.e).resumeSkip = skip ∧
        (t.sub cx.k cx.e).badPc = decide (2 ^ 40 ≤ (g cx s').tr.clause.toNat) ∧
        (t.sub cx.k cx.e).resumeAt = (if (g cx s').tr.pc = (g cx s').tr.clause ∧ skip = false then none else some (g cx s').tr.pc.toNat) ∧
        (t.group cx.k).tr = (g cx s').tr ∧ (∀ e, (t.sub cx.k e).stopped = false) ∧ t.mem = s'.mem ∧ otherGroups s' t cx.k) ∧
    CompletesAs (.tesc f) .any (fun cx s =>
      let r := s.record (s.ringOf cx.k) 1 { s.groupRec cx.k with word := (s.opS cx.k cx.e f.xb).toNat }
      let r := r.setSub cx.k cx.e { r.sub cx.k cx.e with resumeMark := true }
      s.retiredJump (r.setGroup cx.k { r.group cx.k with escalated := true }) cx [] (r.sub cx.k cx.e).nextClause false)

/-- R209, R210, R435-R439: `launch` reads its descriptor through its handle; the other words on launches and blocks answer in a scalar.
A `cterm` of a context also ends its double-trapped control groups (the model's choice, log entry 80). -/
def Obligations.LaunchAndContextWords : Prop :=
  ∀ f : XForm,
    let n (cx : Cx) (s : State) : Nat := (s.opS cx.k cx.e f.xb).toNat
    let idx (cx : Cx) (s : State) : Nat := (s.opS cx.k cx.e f.xc).toNat
    let answers (w : Nat) (t : Cx → State → State) (v : Cx → State → Nat) (cx : Cx) (s : State) : State :=
      s.retiredTo ((t cx s).slotBusy cx.k cx.e cx.slot cx.op (wrS f.xa.toNat w (v cx s))) cx [] 1
    let held (cx : Cx) (s : State) (l : Launch) : Prop := tfind s.launches (n cx s) = some l ∧ l.ctx = s.ctxOf cx.k
    let unheld (cx : Cx) (s : State) : Prop := ∀ l, ¬ held cx s l
    let same (_ : Cx) (s : State) : State := s
    let named (cx : Cx) (s : State) (l : Launch) : Tab Block :=
      s.blocks.filter (fun b => b.2.present && b.2.launch == n cx s && l.named (idx cx s) b.2.idx)
    let frames (cx : Cx) (s : State) (l : Launch) : Tab Frame := s.frames.filter (fun p => p.2.launch == n cx s && l.named (idx cx s) p.2.block)
    HandleWord (.launch f) .slot f.xb.toNat rR 256 16 (fun cx s => [(0, ((s.opS64 cx.k cx.e f.xc).toNat : Int))])
      (fun cx s => ((s.opS64 cx.k cx.e f.xc).toNat : Int)) (fun cx s h =>
      let o := (s.opS64 cx.k cx.e f.xc).toNat
      { Access.start .launch ((List.range 16).map (fun i =>
          { lane := 0, part := i, off := o + 16 * i, obj := h.base + o + 16 * i, n := 16 })) with size := 16, dst := f.xa.toNat, scalar := true }) ∧
    CompletesIf (.lquery f) .slot unheld (answers 2 same (fun _ _ => 0)) ∧
    (∀ l, CompletesIf (.lquery f) .slot (fun cx s => held cx s l)
      (answers 2 same (fun _ _ => l.st + (if 3 ≤ l.st then l.retired else 0) * 2 ^ 32))) ∧
    CompletesIf (.cpreempt f) .slot unheld (answers 1 same (fun _ _ => 1)) ∧
    (∀ l, CompletesIf (.cpreempt f) .slot (fun cx s => held cx s l ∧ s.hub.pool.en = false) (answers 1 same (fun _ _ => 5))) ∧
    (∀ l, CompletesIf (.cpreempt f) .slot (fun cx s => held cx s l ∧ s.hub.pool.en = true ∧ named cx s l = []) (answers 1 same (fun _ _ => 2))) ∧
    -- one running block of a progressive launch on a lattice core, not held: it is saved in the lowest free frame
    (∀ l b x fr, CompletesIf (.cpreempt f) .slot
      (fun cx s => held cx s l ∧ s.hub.pool.en = true ∧ named cx s l = [(b, x)] ∧ kindOfUnit (unitOfBlock b) = .lattice ∧
        (s.freeFrames .lattice).head? = some fr ∧ x.saving = none ∧ x.idx = idx cx s ∧
        (∃ k ∈ x.groups, (s.group k).present = true ∧ (s.group k).block = b ∧ (s.group k).exited = false) ∧ ¬ (f.mod.getLsbD 0 = true ∧ l.pclass = 1))
      (fun cx s =>
        let t := s.fresh.2.beginSave b fr (f.mod.getLsbD 0) s.nextId
        s.retiredTo (t.setSub cx.k cx.e ((t.sub cx.k cx.e).setSlot cx.slot
          { st := .busy, seq := s.nextId, opcode := cx.op, wrs := wrS f.xa.toNat 1 0 })) cx [] 1)) ∧
    CompletesIf (.cresume f) .slot unheld (answers 1 same (fun _ _ => 1)) ∧
    (∀ l, CompletesIf (.cresume f) .slot (fun cx s => held cx s l ∧ frames cx s l = []) (answers 1 same (fun _ _ => 2))) ∧
    (∀ l, CompletesIf (.cresume f) .slot
      (fun cx s => held cx s l ∧ frames cx s l ≠ [] ∧ (∀ p ∈ frames cx s l, p.2.queued = none) ∧ named cx s l = [] ∧
        (idx cx s = 0xFFFFFFFF ∨ ∃ fr, s.frameOf (n cx s) (idx cx s) = some fr))
      (answers 1 (fun cx s => { s with frames := s.frames.map (fun (p : Nat × Frame) =>
          if (frames cx s l).any (fun q => q.1 == p.1) then (p.1, { p.2 with queued := some s.time }) else p) }.postOnce .schedulerPass) (fun _ _ => 0))) ∧
    CompletesIf (.cresumeEsc f) .slot unheld (answers 1 same (fun _ _ => 1)) ∧
    (∀ l, CompletesIf (.cresumeEsc f) .slot (fun cx s => held cx s l ∧ idx cx s = 0xFFFFFFFF) (answers 1 same (fun _ _ => 2))) ∧
    (∀ l b k, CompletesIf (.cresumeEsc f) .slot
      (fun cx s => held cx s l ∧ idx cx s ≠ 0xFFFFFFFF ∧ s.findBlock (n cx s) (idx cx s) = some b ∧ (s.block b).groups = [k] ∧
        (s.group k).present = true ∧ (s.group k).block = b ∧ (s.group k).gidx = ((s.sub cx.k cx.e).sreg f.xd.toNat).toNat ∧
        (s.group k).escalated = true ∧ (s.group k).doubleTrap = false ∧ (s.group k).escRelease = false)
      (answers 1 (fun _ s => s.setGroup k { s.group k with escalated := false }) (fun _ _ => 0))) ∧
    CompletesIf (.cterm f) .slot (fun cx s => (s.context (s.ctxOf cx.k)).rtCount ≤ n cx s) (answers 1 same (fun _ _ => 1)) ∧
    (∀ rv, CompletesIf (.cterm f) .slot
      (fun cx s => n cx s < (s.context (s.ctxOf cx.k)).rtCount ∧ s.resolveRegion (s.context (s.ctxOf cx.k)) (n cx s) = some rv)
      (fun cx s => s.retiredTo ((s.endDoubles (s.ctxOf cx.k)).terminateAll cx f.xa.toNat ((s.launches.filter (fun l =>
        l.2.ctx == s.ctxOf cx.k && l.2.rv.path.contains (rv.roots.headD 0))).map (·.1))) cx [] 1)) ∧
    CompletesIf (.ctermL f) .slot unheld (answers 1 same (fun _ _ => 1)) ∧
    (∀ l, CompletesIf (.ctermL f) .slot (fun cx s => held cx s l) (fun cx s => s.retiredTo (s.terminateAll cx f.xa.toNat [n cx s]) cx [] 1)) ∧
    CompletesIf (.cquery f) .slot unheld (answers 4 same (fun _ _ => 0xFFFFFFFF * 2 ^ 32)) ∧
    (∀ l, CompletesIf (.cquery f) .slot (fun cx s => held cx s l) (answers 4 same (fun cx s =>
      let q := s.queryBlock (n cx s) (idx cx s)
      q.1 + q.2.1 * 2 ^ 32 + q.2.2.1 * 2 ^ 64 + q.2.2.2 * 2 ^ 96))) ∧
    CompletesIf (.cqueryU f) .slot (fun cx s => n cx s ∉ unitsOf .lattice ++ unitsOf .stream) (answers 4 same (fun _ _ => 0xFFFFFFFF)) ∧
    CompletesIf (.cqueryU f) .slot (fun cx s => n cx s ∈ unitsOf .lattice ++ unitsOf .stream) (answers 4 same (fun cx s =>
      let u := n cx s
      (s.residents u).length + s.coreGroups u * 2 ^ 8 + (s.pins u).length * 2 ^ 16 +
        2 ^ 32 * ((if kindOfUnit u = .stream then 0 else (s.freeBlocks u).length) + (s.freeGranules u).length * 2 ^ 16 + (s.freeMslots u).length * 2 ^ 24) +
        2 ^ 64 * (s.occLimit (powerIndex u) % 256 + (s.core u).waiters.length * 2 ^ 8) + 2 ^ 96 * (if s.healthy u then 1 else 0)))

/-- R68, R94: binding, unbinding and tearing down a context. R69-R73: queues, their doorbells and the fetch of their entries.
The order of `pop` with `en` or `dis`, and `dis` after a teardown, are the model's choices (log entries 72 and 73). -/
def Obligations.ContextsAndQueues : Prop :=
  (∀ (s : State) (c : Nat), (regAt s.arg.a).1 = .context c →
    let x := s.context c
    let one := bitAt (wroteBits (regAt s.arg.a).2 s.arg.data) 1
    exec .contextBind s = .next ((s.setContext c { x with bound := true, tdack := false, torn := false, urefused := false }).devDone s.arg.d) ∧
    (one = false → x.bound = true → s.holdsNothing c = true →
      exec .contextUnbind s = .next ((s.setContext c { x with bound := false, urefused := false }).devDone s.arg.d)) ∧
    (one = false → x.bound = true → s.holdsNothing c = false →
      exec .contextUnbind s = .next ((s.setContext c { x with urefused := true }).devDone s.arg.d)) ∧
    (one = true ∨ x.bound = false → exec .contextUnbind s = .next ((s.setContext c { x with urefused := false }).devDone s.arg.d)) ∧
    ∃ t, exec .contextTeardown s = .next t ∧ (t.context c).torn = true ∧
      (∀ q, (s.queue q).ctx = c → (s.queue q).st = 1 ∨ (s.queue q).st = 2 ∨ (s.queue q).st = 3 → (t.queue q).st = 4 ∧ (t.queue q).pend = 0 ∧ (t.queue q).inbox = []) ∧
      ∃ i, (i = .contextBind ∨ i = .contextUnbind) ∧ ({ step := i, arg := s.arg } : Event) ∈ t.agenda) ∧
  (∀ (s : State) (q : Nat), (regAt s.arg.a).1 = .queue q →
    let x := s.queue q
    let n := min (field (wroteBits (regAt s.arg.a).2 s.arg.data) 8 8) x.pend
    let gone := (List.range n).map (fun i => (x.head + 65536 - x.pend + i) % 8)
    (x.st = 0 → 4 ≤ x.log2n → x.loc % 2 ≠ 1 → (x.loc = 0 → s.inHbm x.base (64 * 2 ^ x.log2n) = true) → (s.context x.ctx).torn = false →
      exec .queueEnable s = .next (((s.setQueue q { x with st := 1, head := 0, pend := 0, inbox := [] }).askFetch q).thenPop)) ∧
    (x.st = 2 → exec .queueEnable s = .next (((s.setQueue q { x with st := 1, tail := x.head }).askFetch q).thenPop)) ∧
    (x.st = 3 → exec .queueEnable s = .next (((s.setQueue q { x with st := 1 }).askFetch q).thenPop)) ∧
    (x.st = 1 ∨ x.st = 2 ∨ x.st = 3 → exec .queueDisable s = .next ((s.setQueue q { x with st := 0 }).thenPop)) ∧
    exec .queuePop s = .next (((s.setQueue q { x with pend := x.pend - n, inbox := x.inbox.filter (fun e => !gone.contains e.1) }).askFetch q).devDone
      s.arg.d)) ∧
  (∀ (s : State) (q : Nat), regAt s.arg.a = (.doorbell q, 0) → s.arg.data.length = 4 → (s.queue q).st = 1 →
    let x := s.queue q
    let v := leNat s.arg.data % 65536
    exec .doorbellWrite s = .next (((s.setQueue q { x with tail := v, st := if 2 ^ x.log2n < (v + 65536 - x.head) % 65536 then 2 else 1 }).askFetch
      q).devDone s.arg.d)) ∧
  ∀ (s : State),
    let q := s.arg.a
    let x := s.queue q
    let place := x.base + 64 * (x.head % 2 ^ x.log2n)
    let e := leNat (s.bytes (if x.loc = 2 then hostKey (s.context x.ctx).pasid place else place) 64)
    (x.st = 1 → x.head ≠ x.tail → x.pend < 8 → x.fetching = false → x.paging = false → x.loc ≠ 2 →
      exec .queueEntryFetch s = .next ((s.setQueue q { x with fetching := true }).post .queueFetchComplete { a := q })) ∧
    (x.fetching = true → x.st = 1 → exec .queueFetchComplete s = .next (((s.setQueue q { x with
      fetching := false, pend := x.pend + 1, head := (x.head + 1) % 65536
      inbox := tput x.inbox (x.head % 8) (leBytes 64 (putField e 504 8 (if field e 128 384 = 0 then 0 else 1))) }).semAdd x.ssem 1).askFetch q)) ∧
    (x.paging = true → x.st = 1 →
      let t := s.coin.2
      exec .pageRequestComplete s = .next (t.setQueue q { x with paging := false, st := 3 }) ∨
        exec .pageRequestComplete s = .next ((t.setQueue q { x with paging := false, fetching := true }).post .queueFetchComplete { a := q })) ∧
    (x.st = 4 → x.fetching = false → x.paging = false → exec .queueTornDown s = .next ((s.setQueue q { x with st := 5 }).ackTeardown x.ctx))

/-- R85-R88: the claim checker's work, one check at a time: a scan's waiters first, then the oldest request; a refused `.w` request waits. R65, R75-R81: the decision of a launch whose edges have come, the edges, the scheduler's pass, reservation and kickoff. R131: a start of a control group. -/
def Obligations.CheckerWorkAndLaunching : Prop :=
  (∀ s : State, s.relocking s.arg.a = false →
     let u := s.arg.a
     let c := s.core u
     (∀ q rest, c.check = none → c.scan = [] → c.requests = q :: rest → exec .checkerNextCheck s = .next (
       let t := s.setCore u { c with requests := rest }
       (t.setCore u { c with requests := rest, check := some (q, s.judge q.block (Res.of q.kind q.n)), released := false }).post .claimCheckResult { a := u })) ∧
     (∀ id rest q, c.check = none → c.scan = id :: rest → c.waiters.find? (fun w => w.id == id) = some q → exec .checkerNextCheck s = .next (
       let t := s.setCore u { c with scan := rest }
       (t.setCore u { c with scan := rest, check := some (q, s.judge q.block (Res.of q.kind q.n)), released := false }).post .claimCheckResult { a := u })) ∧
     (∀ q r, c.check = some (q, r) → q.id ≠ 0 → q.slot = none → ∃ t, exec .claimCheckResult s = .next t ∧ (t.core u).check = none ∧
       tfind (t.core u).answers (8 * q.group + q.entry) = some (r + 4 * q.kind + 16 * q.n) ∧
       (t.block q.block).held = (if r = 0 then (s.block q.block).held.add (Res.of q.kind q.n) else (s.block q.block).held)) ∧
     (∀ q r j, c.check = some (q, r) → q.id ≠ 0 → q.slot = some j → r ≠ 0 → (∀ w ∈ c.waiters, w.id ≠ q.id) →
       ∃ t, exec .claimCheckResult s = .next t ∧ (t.core u).waiters = c.waiters ++ [q] ∧ (t.core u).check = none ∧
         -- a release that came during the check re-checks it (R95)
         (t.core u).scan = (if c.released = true then c.scan ++ [q.id] else c.scan) ∧
         ∀ b, t.block b = s.block b) ∧
     (∀ q j, c.check = some (q, 0) → q.id ≠ 0 → q.slot = some j → ∃ t, exec .claimCheckResult s = .next t ∧
       t = (((s.setCore u { c with check := none }).postOnce .checkerNextCheck { a := u }).setBlock q.block { s.block q.block with
           asked := (s.block q.block).asked.sub (Res.of q.kind q.n), held := (s.block q.block).held.add (Res.of q.kind q.n) }
         |>.setCore u { c with check := none, waiters := c.waiters.filter (fun w => w.id != q.id) }).grantSlot q j)) ∧
  ((∀ (s : State) (p : PendingLaunch), s.pendingLaunches.find? (fun p => p.seq == s.arg.a) = some p →
     let r := { s with pendingLaunches := s.pendingLaunches.filter (fun q => q.seq != p.seq) }.judgeLaunch p
     (∀ rv e, r.1 = .accept rv e → exec .edgeReadResume s = .next (r.2.acceptLaunch p rv e)) ∧
     (∀ st, r.1 = .status st → 0x0C ≤ st → exec .edgeReadResume s = .next (r.2.answerLaunch p 0 st)) ∧
     (∀ st, r.1 = .status st → st < 0x0C → exec .edgeReadResume s = .next ((r.2.refusedRecord p st).answerLaunch p 0 st)) ∧
     (r.1 = .wait → exec .edgeReadResume s = .next { r.2 with pendingLaunches := r.2.pendingLaunches ++ [p] })) ∧
   (∀ (s : State) (l : Launch), tfind s.launches s.arg.a = some l →
     (l.st = 1 → l.edgesIn ≤ l.satisfied.length → l.total ≠ 0 →
       let t := (s.invalidateEdges l).setLaunch l.num { l with st := 2, age := s.time }
       exec .edgeSatisfied s = .next ({ t with ready := t.ready ++ [l.num] }.postOnce .schedulerPass)) ∧
     (l.st = 1 → l.edgesIn ≤ l.satisfied.length → l.total = 0 →
       exec .edgeSatisfied s = .next ((s.setLaunch l.num { l with st := 4 }).finishLaunch l.num)) ∧
     (l.passed = some s.arg.b → s.arg.c ≤ s.time →
       exec .reservationTimeout s = .next ((s.setLaunch s.arg.a { l with reserving := true }).postOnce .schedulerPass)) ∧
     (l.passed = some s.arg.b → s.time < s.arg.c → exec .reservationTimeout s = .next (s.again .reservationTimeout)) ∧
     (dsKickoff l.desc ≤ s.time → (∀ b ∈ s.blocks, b.2.present = true → b.2.launch = s.arg.a → s.relocking (unitOfBlock b.1) = false) →
       s.hub.sync = true → exec .kickoffFire s = .next (s.startGang s.arg.a)) ∧
     (s.time < dsKickoff l.desc → exec .kickoffFire s = .next (s.again .kickoffFire))) ∧
   (∀ (s : State) (n : Nat), s.frames = [] → s.ready = [n] →
     let l := s.launchOf n
     l.rv.prio < 16 → l.st = 2 → l.next < l.total →
     (l.pclass = 0 → ∀ t bs, s.placeGang l 4096 0 = .ok t bs → exec .schedulerPass s = .next ((t.admitted n l.total).gangReady n l)) ∧
     (l.pclass = 0 → s.placeGang l 4096 0 = .no → exec .schedulerPass s = .next (s.passOver n l)) ∧
     (l.pclass ≠ 0 → s.placeNext l l.next false = .no → exec .schedulerPass s = .next (s.passOver n l)) ∧
     (l.pclass ≠ 0 → ∀ t b, s.placeNext l l.next false = .ok t [b] → l.next + 1 = l.total →
       exec .schedulerPass s = .next (t.admitted n l.total))) ∧
   ∀ (s : State) (c g : Nat), (regAt s.arg.a).1 = .start c g →
     let x := s.group (groupKey (12288 + c) g)
     let y := s.core (12288 + c)
     (x.present = true → x.exited = false → exec .groupStart s = .next (s.devDone s.arg.d)) ∧
     (x.present = false ∨ x.exited = true → exec .groupStart s =
       .next ((s.startGroup c g (tget 0 y.startObj g) (tget 0 y.startEntry g) (tget 0 y.startArg g).toNat).devDone s.arg.d)))

/-- R431, R432, R417-R429: the end of a block, and its save and resume. -/
def Obligations.BlocksEndAndResume : Prop :=
  (∀ s : State,
    let b := s.arg.a
    let x := s.block b
    x.present = true → x.terminated = false → (∀ k ∈ x.groups, (s.group k).present = false ∨ (s.group k).block ≠ b ∨ (s.group k).exited = true) →
    (s.blockBusy b = true → exec .blockRetire s = .next (s.again .blockRetire)) ∧
    (s.blockBusy b = false →
      let r := (({ s with bindings := s.bindings.filter (fun y => !(y.launch == x.launch && y.idx == x.idx)) } : State).removeBlock b).lapseEngine
        (unitOfBlock b)
      let l := r.launchOf x.launch
      exec .blockRetire s = .next ((r.setLaunch x.launch { l with retired := l.retired + 1, discards := l.discards + x.discards }).endLaunch x.launch))) ∧
  (∀ (s : State) (b : Nat), tfind (s.removeBlock b).blocks b = none ∧
    ∀ k ∈ (s.block b).groups, (s.group k).present = true → (s.group k).block = b → ((s.removeBlock b).group k).present = false) ∧
  (∀ (s : State) (frame q : Nat) (hold : Bool),
    let b := s.arg.a
    let x := s.block b
    let ks := x.groups.filter (fun k => (s.group k).present && (s.group k).block == b)
    x.saving = some (frame, hold, q) →
    (s.blockBusy b = true ∨ (∃ k ∈ ks, s.groupStopped k = false) → exec .saveComplete s = .next (s.again .saveComplete)) ∧
    (s.blockBusy b = false → (∀ k ∈ ks, s.groupStopped k = true) → ∃ t f, exec .saveComplete s = .next t ∧ tfind t.frames frame = some f ∧
      tfind t.blocks b = none ∧ f.launch = x.launch ∧ f.block = x.idx ∧ f.ctx = x.ctx ∧ f.unit = unitOfBlock b ∧ f.claim = x.claim ∧
      f.hold = hold ∧ f.queued = (if hold then none else some s.time))) ∧
  ∀ (s : State) (f : Frame), tfind s.frames s.arg.a = some f → s.withFrame f = [f] → f.queued.isSome = true →
    (∀ g ∈ s.frames, ¬ (g.2.goesBefore f = true ∧ s.resumeFits g.2 = true)) → s.resumeFits f = true →
    (s.headerOk f = true → exec .resume s = .next ((s.resumeBlock f).postOnce .schedulerPass)) ∧
    (s.headerOk f = false → exec .resume s = .next ((s.terminate f.launch 0x13).postOnce .schedulerPass))

/-- R98-R100, R160, R205, R388, R396, R399-R402: what events do to groups. -/
def Obligations.GroupEvents : Prop :=
  (∀ (s : State) (k e : Nat), s.cur = .group k e →
    let x := s.sub k e
    let h := s.codeHandle k e
    (∀ p, s.boundaryTrap k e = some p → exec .clauseFetch s = .next (
      (s.setSub k e { x with portTraps := x.portTraps.filter (fun q => q.2.2 != p.2.2) }).takeTrap k e
        { p.2.1 with stop := 3, clause := some x.pc, pc := some x.pc })) ∧
    (s.boundaryTrap k e = none → x.badPc = false →
      (∀ step off t, s.codeCheck k h x.pc 8 = (.fail step off, t) → step ≠ 8 → exec .clauseFetch s = .next (
        t.takeTrap k e { cause := 0x10, src := if step ≤ 5 then 0 else 1, addr := off, info := step * 2 ^ 24, stop := 1, clause := some x.pc, pc := some x.pc })) ∧
      (∀ exts t, s.codeCheck k h x.pc 8 = (.ok exts, t) →
        let c := x.pc
        let w := (t.codeWord (t.codeCtx k) h.obj exts c).1
        let r := (t.codeWord (t.codeCtx k) h.obj exts c).2
        let n := field w.toNat 8 4 + 1
        let l := field w.toNat 12 2
        (∀ j, headerFail (kindOf k) w.toNat = some j → exec .clauseFetch s =
          .next (r.takeTrap k e { cause := 0x02, info := j * 2 ^ 24, stop := 1, clause := some c, pc := some c })) ∧
        (headerFail (kindOf k) w.toNat = none → kindOf k = .lattice → field w.toNat 24 4 = 0 → x.resumeAt = none →
          ∀ exts' u, r.codeCheck k (r.codeHandle k e) (c + 8) (8 * (n + l)) = (.ok exts', u) →
          let ws := (u.codeWords (u.codeCtx k) (r.codeHandle k e).obj exts' (c + 8) (n + l)).1
          let v := (u.codeWords (u.codeCtx k) (r.codeHandle k e).obj exts' (c + 8) (n + l)).2
          (v.sub k e).resumeAt = none → (v.sub k e).resumeMark = false → bodyFail (kindOf k) c l (ws.take n) = none →
          exec .clauseFetch s = .next (v.setSub k e { v.sub k e with
            clause := some ⟨c, w, ws.take n, ws.drop n⟩, idx := 0, headerMet := false, tokensOnly := false, clauseSeq := v.nextId, resumeMark := false }))))) ∧
  (∀ (s : State) (m : Nat) (ids : List Nat) (rest : List (Nat × List Nat)),
    let k := s.arg.a
    let g := s.group k
    g.sigs = (m, ids) :: rest →
    (s.signalReady ids = false → exec .tokenSignal s = .next (s.again .tokenSignal)) ∧
    (s.signalReady ids = true → s.signalHeld k = none → exec .tokenSignal s = .next (
      let b := s.block g.block
      ((s.setBlock g.block { b with tokens := (maskSlots (m % 16)).foldl (fun t c => tput t c (tget 0 t c + 1)) b.tokens }).setGroup k
        { g with sigs := rest } |>.postOnce .blockRetire { a := g.block }).vacate k))) ∧
  (∀ (s : State) (w : WaitRec),
    let k := s.arg.a
    let e := s.arg.b
    let x := s.sub k e
    x.wait = some w →
    (s.lastPoll ≠ some (k, e) ∨ s.time < w.since + w.limit → exec .umpireExpire s = .next (s.again .umpireExpire)) ∧
    (s.lastPoll = some (k, e) → w.since + w.limit ≤ s.time → w.kind ≠ 3 → w.kind ≠ 5 → exec .umpireExpire s = .next (
      (s.setSub k e { x with st := if x.st = 2 then 1 else x.st }).takeTrap k e
        { cause := 0x0D, src := 5, addr := w.item, addr2 := w.addr2, info := w.kind * 2 ^ 24 + min ((s.time - w.since) / 1000) 0xFFFFFF }))) ∧
  (∀ s : State,
    let k := s.arg.a
    (s.relocking (unitOfGroup k) = false → exec .rsleepExpire s = .next ((s.setGroup k { s.group k with sleeping := none }).wakeOwned k)) ∧
    (∀ e t, s.arg.flag = true → (s.group k).trapping = some (e, t) → s.canEnter k = true → exec .commit s = .next (s.enterHandler k e t)) ∧
    (∀ e t, s.arg.flag = true → (s.group k).trapping = some (e, t) → s.canEnter k = false → exec .commit s = .next (s.again .commit)) ∧
    (let x := s.sub k s.arg.b
     s.arg.flag = false → x.live = true → s.regionAccepted k s.arg.b = true →
      exec .commit s = .next (s.commitSub k s.arg.b x.clauseStart x.here x.atHeader))) ∧
  ∀ (s : State) (a : Access) (t : TrapInfo), s.access s.arg.a = some a → a.fail = some t →
    let k := a.group
    let e := a.entry
    let m := (s.sub k e).mark
    let r := s.rollbackSub k e
    (kindOf k ≠ .lattice → a.suspends = true → exec .portFailureReport s = .next (
      (s.setAccess { a with paused := true, fail := none, suspends := false }).pausedRec k e (field a.hbits.toNat 104 24) t.addr2 a.hreg 0 0
        t.fmask.toNat t.addr)) ∧
    (kindOf k ≠ .lattice → a.suspends = false → exec .portFailureReport s = .next (
      let u := s.complete a.id []
      u.setSub k e { u.sub k e with portTraps := (u.sub k e).portTraps ++ [(a.slot, if a.kind.inLoads then t else { t with addr2 := a.pc }, a.id)] })) ∧
    (kindOf k = .lattice → (r.group k).trapping = none → a.suspends = false → exec .portFailureReport s = .next (
      r.takeTrap k e { t with stop := 2, clause := some ((m.map (·.clause)).getD 0), pc := some ((m.map (·.pc)).getD 0), addr2 := a.pc })) ∧
    (kindOf k = .lattice → (r.group k).trapping = none → a.suspends = true → exec .portFailureReport s = .next (
      r.suspend k e 0 (field a.hbits.toNat 104 24) t.addr2 a.hreg ((m.map (·.clause)).getD 0) ((m.map (·.pc)).getD 0) t.fmask.toNat t.addr))

/-- R264-R270, R281, R344, R396: an access that meets R57 steps 6 to 8 is accepted; a store of one element writes exactly its bytes, where its acceptance
placed it, and nothing else of memory; an atomic leaves `new` of R333 there; a load changes no memory and completes its slot with what it read. -/
def Obligations.AccessPerformance : Prop :=
  (∀ (s : State) (a : Access), s.access s.arg.a = some a → a.accepted = false → a.paused = false → a.fail = none → a.member = none →
    (a.kind = .load ∨ a.kind = .store) → ∀ el x t, a.elems = [el] → s.portElem a el = (x, t) →
    (∀ l f, x = .ok (l, f) → exec .accessAccepted s = .next (t.setAccess { a with accepted := true, elems := splitHost a.kind { el with loc := l, flags := f } })) ∧
    (∀ st, x = .error st → st ≠ 0 → st ≠ 8 → exec .accessAccepted s = .next (t.portFails { a with elems := [{ el with flags := 0 }] }
      { cause := stepCause st, src := 1, fmask := maskOf (fun l => [el].any (fun y => y.lane == l)), addr := el.off, info := st * 2 ^ 24 + a.hreg } false)) ∧
    -- an access that waits for residence keeps its place among the strongly ordered (R349)
    (x = .error 8 →
      let o := t.extentOrd a.ctx (field a.hbits.toNat 104 24) (field a.hbits.toNat 96 8) el.obj
      exec .accessAccepted s = .next (o.2.portFails { a with elems := [{ el with flags := if o.1 then 1 else 0 }] }
        { cause := stepCause 8, src := 1, fmask := maskOf (fun l => [el].any (fun y => y.lane == l)), addr := el.off, addr2 := el.obj
          info := 8 * 2 ^ 24 + a.hreg } true))) ∧
  (∀ (s : State) (a : Access) (el : Elem) (key : Nat), s.access s.arg.a = some a → s.accessReady a = true → a.elems = [el] → el.loc = .mem key →
    s.elemReady a 0 el = true → s.wakeElem el = none → a.error = 0 →
    (a.kind = .store → ∃ t, exec .storePerformed s = .next t ∧ t.access a.id = none ∧ sameHub s t ∧
      (∀ x, x < key ∨ key + el.data.length ≤ x → t.byte x = s.byteAtWrite a.id key x) ∧ ∀ i, i < el.data.length → t.byte (key + i) = el.data.getD i 0) ∧
    (∀ op, a.kind = .atom op → s.arg.a ≠ 0 → s.bankLost a.id key = false → s.poisoned key (atomSize op) = false → ∃ t, exec .slotComplete s = .next t ∧ t.access a.id = none ∧
      sameMemoryBut s t key (atomSize op) ∧
      (∀ x, atomNew op (s.num key (atomSize op)) (leNat el.data) = some x → x < 256 ^ atomSize op → t.num key (atomSize op) = x) ∧
      (atomNew op (s.num key (atomSize op)) (leNat el.data) = none → sameMemory s t)) ∧
    (a.kind = .load → s.cached a = false → s.bankLost a.id key = false → s.accesses = [a] → s.arg.a ≠ 0 → ∃ t, exec .slotComplete s = .next t ∧ t.access a.id = none ∧ sameMemory s t ∧
      ∀ j, a.slot = some j → ((s.sub a.group a.entry).slot j).st = .busy → ((s.sub a.group a.entry).slot j).seq = a.seq →
        ((t.sub a.group a.entry).slot j).st = .complete ∧
        ((t.sub a.group a.entry).slot j).wrs = Access.results { a with elems := [{ el with
          done := true, result := s.bytes key el.n, pz := (List.range el.n).any (fun i => s.poisoned (key + i) 1) }] })) ∧
  ∀ (s : State) (i : Instr), i = .slotComplete ∨ i = .storePerformed → s.arg.a ≠ 0 →
    (∀ a, s.access s.arg.a = some a → s.accessReady a = false → exec i s = .next (s.again i)) ∧ (s.access s.arg.a = none → exec i s = .next s)

/-- R152-R154, R320, R335, R459, R5, R6: bank wakes and retention, barrier cycles, semaphore additions and stores, register stores. -/
def Obligations.UnitEvents : Prop :=
  (∀ s : State,
    let u := s.arg.a
    let j := s.arg.b
    let c := s.core u
    (∀ off, s.arg.flag = false → tget .off c.regBank j = .waking off → (∀ w ∈ c.wakers, w.1 ≠ j) →
      ∃ t, exec .bankWakeComplete s = .next t ∧ (t.core u).regBank = tput c.regBank j .on ∧ t.groups = s.groups ∧ sameMemory s t) ∧
    (s.arg.flag = true → tget .off c.spmBank j = .waking true → (∀ w ∈ c.wakers, w.1 ≠ 1024 + j) →
      ∃ t, exec .bankWakeComplete s = .next t ∧ (t.core u).spmBank = tput c.spmBank j .on ∧ t.groups = s.groups ∧
        ∀ a, t.byte a = if spmKey u (j * bankSize u) ≤ a ∧ a < spmKey u (j * bankSize u) + bankSize u then 0 else s.byte a) ∧
    (let gs := s.groups.filter (fun p => unitOfGroup p.1 == u && p.2.present && p.2.own.any (fun o => reach o.2 / 4 == j))
     s.arg.flag = false → tget .off c.regBank j = .on → s.bankLive u j = true → (∀ p ∈ gs, p.2.resting = true ∧ (s.block p.2.block).rv.bpol = 0) →
      exec .bankRetentionEnter s = .next (s.setCore u { c with regBank := tput c.regBank j .retention }))) ∧
  (∀ (s : State) (up : BarUpdate),
    let b := s.arg.a
    let off := s.arg.b
    let x := s.block b
    let t := s.setBlock b { x with updates := x.updates.filter (fun p => p.1 != off) }
    x.updates.filter (fun p => p.1 == off) = [(off, up)] → s.wakeFor b [off] = none → t.barLive b off = true →
      let r := t.applyUpdate b off true (t.barAt b off) up
      exec .barrierCycle s = .next (r.2.write (r.2.spmAt b off) (leBytes 16 (bComplete r.1)))) ∧
  (∀ s : State, ∃ t, exec .semaphoreAdd s = .next t ∧
    (∀ n, tget 0 t.hub.sems n = tget 0 s.hub.sems n + (if n = s.arg.a then BitVec.ofNat 64 s.arg.b else 0)) ∧ sameMemory s t ∧
      t.contexts = s.contexts ∧ t.queues = s.queues) ∧
  (∀ (s : State) (n o : Nat), regPieces s.arg.a s.arg.data = [(.sem n, o, s.arg.data)] →
    let v := setBytes (tget 0 s.hub.sems n).toNat o s.arg.data
    exec .semaphoreTableStore s = .next ((({ s with hub := { s.hub with sems := tput s.hub.sems n (BitVec.ofNat 64 v) } } : State).semChanged n).devDone s.arg.d)) ∧
  ∀ (s : State) (r : Reg) (o : Nat), regPieces s.arg.a s.arg.data = [(r, o, s.arg.data)] → s.boot.active = none →
    (s.regAction r o s.arg.data = none → exec .registerWrite s = .next ((s.regStore r o s.arg.data).devDone s.arg.d)) ∧
    ∀ i, s.regAction r o s.arg.data = some i → exec .registerWrite s = .next ((s.regStore r o s.arg.data).post i s.arg)

/-- R409, R410, R447-R450: power registers, relocks, trips, clamps and the heartbeat; isolation and reset of a die. -/
def Obligations.PowerAndDies : Prop :=
  ∀ s : State,
    let p := s.arg.a
    let x := s.powerOf p
    let temp := s.arg.b % 256
    let done (t : State) : State := t.devDone s.arg.d
    (∀ q o, regPieces s.arg.a s.arg.data = [(.power q, o, s.arg.data)] →
      let v := setBytes (s.regImage (.power q)) o s.arg.data
      exec .powerRegisterWrite s = .next (done (((s.setPower q { s.powerOf q with occ := field v 40 8, bias := field v 32 8, opp := field v 0 3 }).applyPower
        q).postOnce .schedulerPass))) ∧
    (x.relock = true → ∃ t, exec .relockComplete s = .next t ∧ t.time = s.time ∧ sameMemory s t ∧
      ∀ k e, (t.sub k e).wait = if kindOf k ≠ .control ∧ powerIndex (unitOfGroup k) = p
        then (s.sub k e).wait.map (fun w => { w with since := w.since + (s.time - x.since) }) else (s.sub k e).wait) ∧
    exec .thermalTrip s = .next ((s.setPower p { x with temp := temp, trip := x.trip || decide (105 ≤ temp) }).applyPower p) ∧
    exec .thermalTripClear s = .next ((s.setPower p { x with temp := temp, trip := x.trip && decide (100 < temp) }).applyPower p) ∧
    (∀ q, clustersOf s.arg.a = [q] → exec .currentClampStep s = .next ((s.setPower q { s.powerOf q with
      clamp := if s.arg.flag then min 7 ((s.powerOf q).clamp + 1) else (s.powerOf q).clamp - 1 }).applyPower q)) ∧
    (s.hub.lapsed = false → exec .heartbeatBeat s = .next (done { s with hub := { s.hub with lastBeat := s.time } })) ∧
    (s.hub.lapsed = true → exec .heartbeatBeat s = .next (done s)) ∧
    exec .heartbeatSignin s = .next (done ((({ s with hub := { s.hub with lapsed := false, lastBeat := s.time } } : State).applyAll.postOnce
      .heartbeatLapse).postOnce .schedulerPass)) ∧
    (s.hub.lapsed = false → s.hub.lastBeat + 1000000 ≤ s.time → exec .heartbeatLapse s =
      .next (({ s with hub := { s.hub with lapsed := true } } : State).applyAll.postOnce .schedulerPass)) ∧
    (s.hub.lapsed = false → s.time < s.hub.lastBeat + 1000000 → exec .heartbeatLapse s = .next (s.again .heartbeatLapse)) ∧
    (s.arg.flag = true → exec .isolate s = .next s.isoDone ∧ exec .dieReset s = .next s.isoDone) ∧
    (s.arg.flag = false → exec .isolate s = .next ((done (s.isoBegin.isolateDie s.hub.isoDie)).post .isolate { flag := true })) ∧
    (s.arg.flag = false → s.hub.isolated.contains s.hub.isoDie = true →
      let t := (s.isoBegin.selfTestDie s.hub.isoDie).enumerateDie s.hub.isoDie
      let t := { t with hub := { t.hub with isolated := t.hub.isolated.filter (· != s.hub.isoDie) } }
      let t := if s.hub.isoDie / 16 = 4 then t.trainPorts s.hub.isoDie else t
      exec .dieReset s = .next ((done (t.postOnce .schedulerPass)).post .dieReset { flag := true })) ∧
    (s.arg.a ≠ 48 → s.dieAt s.arg.a = true → s.hub.isolated.contains s.arg.a = false → exec .ucieLinkFailure s = .next (s.isolateDie s.arg.a)) ∧
    (s.arg.a = 48 → ∃ t, exec .ucieLinkFailure s = .next t ∧ t.boot.safe = true ∧ t.groups = [] ∧ t.launches = [] ∧ t.boot.memActive = false)

/-- R26-R38, R157, R248: power-on by its steps, the host's link and memory, interrupts, snoops, and errors that ECC cannot correct.
Vector masks at reset, boot-log details and configuration space are the model's choices (log entries 11, 75 and 76). -/
def Obligations.PowerOnAndHost : Prop :=
  ∀ s : State,
    let a := s.arg.a
    let next (t : State) (k : Nat) : State := ({ t with boot := { t.boot with step := k - 1 } }.bootLog (k - 1) 0xFFFF 0).post .powerOnReset { a := k }
    (a ≤ 1 → exec .powerOnReset s = .next (next (s.restart.post .cxlLinkTraining) 2)) ∧
    (a = 2 → s.mainStatus = 0 → exec .powerOnReset s = .next (next s 3)) ∧
    (a = 2 → s.mainStatus ≠ 0 → s.recoveryOk = true → exec .powerOnReset s = .next (
      let t := s.bootLog 2 0xFFFF (s.mainStatus * 2 ^ 24)
      next { t with boot := { t.boot with recovery := true } } 3)) ∧
    (a = 3 → exec .powerOnReset s = .next (next { s with hub := { s.hub with power := [] } } 4)) ∧
    (a = 4 → ∃ t, exec .powerOnReset s = .next t ∧ t.boot.step = 4 ∧ ({ step := .powerOnReset, arg := { a := 5 } } : Event) ∈ t.agenda) ∧
    (5 < a → s.boot.step = 5 → ∃ t, exec .powerOnReset s = .next t ∧ t.boot.step = 6 ∧ (t.group (groupKey 12288 0)).present = true ∧
      ((t.group (groupKey 12288 0)).sub 0).st = 1) ∧
    -- a unit whose test has not finished has result 4; the other units of a die whose adapter it is have result 8
    (s.boot.step = 4 → a < 65536 → a / 256 ∈ allDies → a % 256 ∈ unitBytes (a / 4096) → ∃ t, exec .selfTestTimeout s = .next t ∧
      tget (0, 0) t.boot.tests a = (4, s.freeWord.1 % 256) ∧
      (a % 256 = 0xF0 → ∀ b ∈ unitBytes (a / 4096), b ≠ 0xF0 → (tget (0, 0) t.boot.tests (a / 256 * 256 + b)).1 = 8) ∧
      (a % 256 ≠ 0xF0 → ∀ u, u ≠ a → tget (0, 0) t.boot.tests u = tget (0, 0) s.boot.tests u)) ∧
    (∃ w r t, exec .cxlLinkTraining s = .next t ∧ t.boot.linkWidth = w ∧ t.boot.linkSpeed = r ∧ w ∈ [8, 4, 2] ∧ r ∈ [64, 32, 16, 8]) ∧
    exec .cxlReset s = .next (s.restart.post .powerOnReset) ∧
    -- the host's memory range
    (let n := if s.arg.flag = true then s.arg.data.length else s.arg.b
     s.arg.c = 0 →
      (s.boot.memActive = true → s.arg.flag = true → a + n ≤ s.boot.hdmSize → exec .hostCxlMemAccess s = .next (s.write a s.arg.data)) ∧
      (s.boot.memActive = true → s.arg.flag = false → a + n ≤ s.boot.hdmSize → exec .hostCxlMemAccess s =
        .next { s with hub := { s.hub with hostReads := s.hub.hostReads ++ [(a, s.bytes a n, s.poisoned a n)] } }) ∧
      (s.boot.memActive = false ∨ s.boot.hdmSize < a + n → exec .hostCxlMemAccess s = .next s)) ∧
    -- configuration space is readable in every state; a doorbell page of BAR 0-1
    (s.arg.c = 3 → s.arg.flag = false → exec .hostCxlMemAccess s = .next { s with hub := { s.hub with
      hostReads := s.hub.hostReads ++ [(3 * 2 ^ 64 + a, (List.range s.arg.b).map (fun i => s.configRead (a + i)), false)] } }) ∧
    (s.arg.c = 1 → s.arg.flag = true → s.boot.safe = false → a < 2 ^ 20 → exec .hostCxlMemAccess s =
      .next (s.post .doorbellWrite { a := 2 ^ 41 + 0x100000 + a, data := s.arg.data, flag := true })) ∧
    (2 ^ 60 ≤ a → exec .hostSnoop s = .next (({ s with llcHost := s.llcHost.filter (· != a / 128) } : State).write (128 * (a / 128)) (s.arg.data.take 128))) ∧
    (s.arg.flag = false → ∃ t, exec .msixUnmask s = .next t ∧ bitAt t.hub.msixMask (a % 512) = false ∧
      t.hub.msixSent = (if bitAt s.hub.msixPend (a % 512) then s.hub.msixSent ++ [a % 512] else s.hub.msixSent) ∧ bitAt t.hub.msixPend (a % 512) = false) ∧
    (s.arg.flag = true → ∃ t, exec .msixUnmask s = .next t ∧ bitAt t.hub.msixMask (a % 512) = true ∧ t.hub.msixSent = s.hub.msixSent) ∧
    (∀ site, s.arg.site = some site → exec .uncorrectableError s = .next (s.poisonSite site))

/-- R32, R39, R40, R451-R453: the mailbox: which commands the hub answers and which it passes to the supervisor, and their answers.
Payload layouts and policy are the model's choices (log entries 10, 12, 15, 74 and 77). -/
def Obligations.MailboxCommands : Prop :=
  ∀ s : State,
    let m := s.hub.mailbox
    let op := s.arg.a % 65536
    let t := { s with hub := { s.hub with msixOn := s.arg.flag } }
    (m.pend = true → exec .mailboxCommand s = .next t) ∧
    (m.pend = false → 2048 < s.arg.data.length → exec .mailboxCommand s = .next (t.answer rcLength [])) ∧
    (∀ i, m.pend = false → s.arg.data.length ≤ 2048 → hubCommand op = some i → (s.boot.safe = false ∨ 0xC000 ≤ op) → exec .mailboxCommand s = .next (t.post i { data := s.arg.data })) ∧
    (m.pend = false → hubCommand op = none → s.boot.safe = true → s.arg.data.length ≤ 2048 → exec .mailboxCommand s = .next (t.answer rcUnsupported [])) ∧
    (m.pend = false → hubCommand op = none → s.boot.safe = false → s.arg.data.length ≤ 2048 → m.signed = false →
      exec .mailboxCommand s = .next (t.answer rcBusy [])) ∧
    (m.pend = false → hubCommand op = none → s.boot.safe = false → s.arg.data.length ≤ 2048 → m.signed = true → ∃ u, exec .mailboxCommand s = .next u ∧
      u.hub.mailbox.pend = true ∧ u.hub.mailbox.opcode = op ∧ u.hub.mailbox.len = s.arg.data.length ∧
      tget 0 u.hub.sems m.ssem = tget 0 s.hub.sems m.ssem + 1 ∧ u.mem = s.mem) ∧
    (∃ u : State, exec .mailboxSignin s = .next (u.devDone s.arg.d) ∧ u.hub.mailbox = { m with signed := true } ∧ u.boot.step = 7 ∧ u.boot.latch = false ∧
      u.boot.memActive = !s.boot.safe ∧ u.boot.hdmSize = if s.boot.safe then 0 else s.hbmTop) ∧
    exec .mailboxComplete s = .next ((s.completeCommand (field (wroteBits (regAt s.arg.a).2 s.arg.data) 64 16)
      ((List.range m.olen).map (mread m.payload))).devDone s.arg.d) ∧
    exec .getSelfTestTable s = .next (s.answer 0 (s.boot.tests.flatMap (fun t => leBytes 4 (t.1 * 65536 + t.2.1 * 256 + t.2.2)))) ∧
    exec .getBootLog s = .next (s.answer 0 (s.boot.log.flatMap (leBytes 16))) ∧
    exec .getIdentity s = .next (s.answer 0 (Config.identityPayload s.boot.counters)) ∧
    exec .resetDevice s = .next ((s.answer 0 []).restart.post .powerOnReset) ∧
    (∀ i o, (i, o) ∈ [(Instr.identifyMemoryDevice, 0x4000), (.getSupportedLogs, 0x0400), (.getLog, 0x0401), (.getHealthInfo, 0x4200)] →
      exec i s = .next (({ s with count := s.count + 1 } : State).answer 0 (Config.cxlPayload o s.count))) ∧
    (∀ i, i ∈ [Instr.stageImage, .commitCounter, .getVersions, .grantHostRange, .releaseHostRange, .listHostRanges] → m.pend = false → exec i s = .next s) ∧
    (m.pend = true → m.opcode = 0xC020 →
      (s.payload 8 8 % 2 ^ 28 ≠ 0 ∨ s.payload 16 8 % 2 ^ 28 ≠ 0 ∨ s.boot.hdmSize < s.payload 8 8 + s.payload 16 8 ∨ Config.policy s.count = false →
        exec .grantHostRange s = .next (({ s with count := s.count + 1 } : State).completeCommand 0 [1])) ∧
      (s.payload 8 8 % 2 ^ 28 = 0 → s.payload 16 8 % 2 ^ 28 = 0 → s.payload 8 8 + s.payload 16 8 ≤ s.boot.hdmSize → Config.policy s.count = true → exec .grantHostRange s = .next
        (({ s with count := s.count + 1, hub := { s.hub with grants := s.hub.grants ++ [(s.payload 0 1, s.payload 8 8, s.payload 16 8)] } } : State).completeCommand 0 [0]))) ∧
    (∀ g, m.pend = true → m.opcode = 0xC021 → s.hub.grants = [g] →
      exec .releaseHostRange s = .next (if g.2.1 = s.payload 8 8 ∧ g.2.2 = s.payload 16 8
        then ({ s with hub := { s.hub with grants := [] } } : State).completeCommand 0 [0] else s.completeCommand 0 [1])) ∧
    (m.pend = true → m.opcode = 0xC022 → exec .listHostRanges s = .next (s.completeCommand 0
      ((s.hub.grants.take 64).flatMap (fun g => leBytes 8 g.1 ++ leBytes 8 g.2.1 ++ leBytes 8 g.2.2)))) ∧
    (let kind := s.payload 0 1 % 4
     let image := (List.range (m.len - 1)).map (fun i => mread m.payload (i + 1))
     m.pend = true → m.opcode = 0xC010 →
      (s.imageStatus kind image ≠ 0 → exec .stageImage s = .next (s.completeCommand 0 [BitVec.ofNat 8 (s.imageStatus kind image)])) ∧
      ∀ o, s.imageStatus kind image = 0 → s.stagePlaces kind image.length = [o] → exec .stageImage s = .next
        (((s.write (2 ^ 42 + o) image).write (2 ^ 42 + 16 * kind) (leBytes 16 (o + image.length * 2 ^ 40))).completeCommand 0 [0])) ∧
    (let kind := s.payload 0 1 % 4
     let unit := s.payload 2 2
     let st := s.activateStatus kind unit ((s.imageBytes 0 kind).getD [])
     s.arg.flag = false → m.pend = true → m.opcode = 0xC011 →
      (st ≠ 0 → exec .activate s = .next (s.completeCommand 0 [BitVec.ofNat 8 st])) ∧
      (st = 0 → exec .activate s = .next (((s.completeCommand (if kind = 0 then rcAborted else 0) (if kind = 0 then [] else [0])).beginActivation kind
        unit).post .activate { flag := true }))) ∧
    (m.pend = true → m.opcode = 0xC012 → ∃ v, exec .commitCounter s = .next
      (({ s with boot := { s.boot with counters := tput s.boot.counters (s.payload 0 1 % 4) (max (tget 0 s.boot.counters (s.payload 0 1 % 4)) v) } } : State).completeCommand 0 [0])) ∧
    (m.pend = true → m.opcode = 0xC013 → exec .getVersions s = .next (s.completeCommand 0 (Config.versionsPayload s.boot.versions)))

/-- R361-R371: requests, replies, ports and fabric time at this chip.
What a lock leaves open of fabric time is a free value (log entry 38). -/
def Obligations.FabricPackets : Prop :=
  (∀ (s : State) (p : Packet) (i : Instr), s.arg.pkt = some p → recvStep p.opcode = some i → p.opcode ≤ 6 → s.packetWaits p s.arg.b = false →
    (packetOk p = false → exec i s = .next (s.discardPacket s.arg.a p)) ∧
    (packetOk p = true → p.dst ≠ s.hub.chip → exec i s = .next (s.forward p)) ∧
    (∀ st, packetOk p = true → p.dst = s.hub.chip → s.arg.c = 0 → s.judgePacket p = .error st → exec i s = .next (s.replyTo p 0x23 st 0 [])) ∧
    (∀ c v, packetOk p = true → p.dst = s.hub.chip → s.arg.c = 0 → s.judgePacket p = .ok c → 5 ≤ p.opcode → s.semOf c p.vsem = some v →
      exec i s = .next ((s.semAdd v p.value.toNat).replyTo p 0x20 0 0 [])) ∧
    (∀ c l h, packetOk p = true → p.dst = s.hub.chip → s.arg.c = 0 → s.judgePacket p = .ok c → packetPieces p = [(l, h)] →
      let r := s.packetLane p l h
      (p.opcode = 1 ∨ p.opcode = 4 → exec i s = .next (r.2.2.replyTo p 0x20 0 0 [])) ∧
      (p.opcode = 2 ∨ p.opcode = 3 → s.arg.d = 0 → ∃ bad data, exec i s = .next (r.2.2.replyTo (if p.opcode = 3 then { p with esize := Nat.log2 (packetElem p) } else p)
        (if p.opcode = 2 then 0x21 else 0x22) 0 bad data) ∧ bad = BitVec.ofNat 32 (if r.2.1 then 2 ^ l else 0)))) ∧
  (∀ (s : State) (p : Packet) (i : Instr), s.arg.pkt = some p → i ∈ [Instr.ack, .loadr, .atomr, .err] → s.packetWaits p s.arg.b = false → packetOk p = true →
    (p.dst ≠ s.hub.chip → exec i s = .next (s.forward p)) ∧
    (p.dst = s.hub.chip → (∀ o ∈ s.outstanding, ¬ (o.tag = p.tag ∧ o.req.dst = p.src)) → exec i s = .next s) ∧
    (∀ o a, p.dst = s.hub.chip → s.outstanding.find? (fun o => o.tag == p.tag && o.req.dst == p.src) = some o → s.access o.access = some a →
      let t := { s with outstanding := s.outstanding.filter (fun q => q.tag != o.tag) }
      (p.status ≠ 0 → exec i s = .next (t.settleAccess (a.failElems o.elems p.status o.req.dst (if 5 ≤ o.req.opcode then o.req.vsem else o.req.addr)))) ∧
      (p.status = 0 → (∀ q, a.kind ≠ .mfill q) → exec i s = .next (t.settleAccess (a.takeReply o.elems p false))))) ∧
  (∀ (s : State) (o : Outstanding), s.outstanding.find? (fun o => o.tag == s.arg.a) = some o →
    (o.sent + o.limit ≤ s.time → exec .responseLimitExpire s = .next (s.failOutstanding (fun q => q.tag == s.arg.a) 0x09)) ∧
    (s.time < o.sent + o.limit → exec .responseLimitExpire s = .next (s.again .responseLimitExpire))) ∧
  (∀ (s : State) (p : Packet), s.arg.pkt = some p → packetOk p = true → s.arg.a < 64 →
    (exec .link s = .next (s.setPort s.arg.a { s.port s.arg.a with peer := p.src % 4096, asks := [] })) ∧
    (s.hub.ten = true → p.src < s.hub.chip → s.hub.sync = false → ∃ t, exec .time s = .next t ∧ t.hub.sync = true ∧ t.hub.gm = false ∧
      t.hub.locked = true ∧ t.time = (if s.hub.locked = true then s.time else Config.freeWord s.count)) ∧
    (s.hub.ten = false ∨ s.hub.chip ≤ p.src → exec .time s = .next (s.setPort s.arg.a { s.port s.arg.a with asks := [] }))) ∧
  ∀ s : State,
    let a := s.arg.a
    let x := s.port a
    -- the requests of the last millisecond without progress, with this one
    (let asks := x.asks.filter (fun t => decide (s.time ≤ t + 1000000)) ++ [s.time]
     let t := s.setPort a { x with replays := min (x.replays + 1) 0xFFFF, asks := asks }
     exec .replayRequest s = .next (if 16 ≤ asks.length then t.postOnce .portRetrain { a := a } else t)) ∧
    exec .vcPause s = .next ((s.setPort a { x with pause := putField x.pause (s.arg.b % 4) 1 (if s.arg.flag then 1 else 0) }).flushPort a) ∧
    (x.st = 2 → bitAt s.boot.linkRun (a / 8) = true → exec .portRetrain s =
      .next ((s.setPort a { x with st := 3, asks := [] }).post .portDown { a := a, c := s.time })) ∧
    (x.st = 2 → bitAt s.boot.linkRun (a / 8) = false → exec .portRetrain s = .next (s.lowerPort a)) ∧
    (x.st = 3 → s.time < s.arg.c + 10000000 → exec .portDown s = .next (s.again .portDown)) ∧
    (x.st = 3 → s.arg.c + 10000000 ≤ s.time →
      let t := (({ s with held := s.held.filter (fun q => q.1 != a) } : State).setPort a { x with st := 0 }).failOutstanding (fun o => o.port == a) 0x0A
      exec .portDown s = .next (if t.hub.ports.any (fun q => q.2.st == 2) then t else t.postOnce .grandmasterPathLoss { c := t.time })) ∧
    (x.st = 1 ∨ x.st = 3 → exec .portUp s =
      .next (((s.setPort a { x with st := 2, peer := s.arg.b % 4096, pport := s.arg.c % 8, asks := [] }).flushPort a).startTimer)) ∧
    (s.time < s.arg.c → exec .timeExchangeTimer s = .next (s.again .timeExchangeTimer)) ∧
    (s.hub.ten = false → s.arg.c ≤ s.time → exec .timeExchangeTimer s =
      .next (({ s with hub := { s.hub with sync := false, gm := false, heard := false } } : State).post .timeExchangeTimer { c := s.time + 10000 })) ∧
    -- a chip that hears no lower-numbered one may take itself for the grandmaster; one that has heard one runs free
    (s.hub.ten = true → s.arg.c ≤ s.time → s.hub.ports = [] → s.hub.sync = false →
      let c := s.coin
      exec .timeExchangeTimer s = .next ((if s.hub.heard = true then s
        else if c.1 = true then { c.2 with hub := { s.hub with sync := true, gm := true, locked := true } } else c.2).post .timeExchangeTimer
          { c := s.time + 10000 })) ∧
    (s.hub.gm = false → (∀ q ∈ s.hub.ports, q.2.st ≠ 2) → s.arg.c + 1000000 ≤ s.time →
      exec .grandmasterPathLoss s = .next { s with hub := { s.hub with sync := false } })

/-- R169-R173, R198, R5 and the reset columns of the register tables: what reset leaves of the values the spec gives. -/
def Obligations.ResetLeaves : Prop :=
  let r := State.reset
  (∀ n, r.regImage (.context n) = 0 ∧ r.regImage (.ring n) = 0 ∧ r.regImage (.queue n) = 0 ∧ r.regImage (.inbox n) = 0 ∧ r.regImage (.place n) = 0 ∧
    r.regImage (.fabContext n) = 0 ∧ r.regImage (.subst n) = 0 ∧ r.regImage (.interrupt n) = 0 ∧ r.regImage (.route n) = 0 ∧
    r.regImage (.trapVector n) = 0 ∧ r.regImage (.sem n) = 0 ∧ r.regImage (.port n) = 0 ∧
    ∀ m, r.regImage (.window n m) = 0 ∧ r.regImage (.start n m) = 0) ∧
  r.regImage .fabStatus = 0 ∧ r.regImage .fabControl = 0 ∧ r.regImage .isolation = 0 ∧ r.regImage .pool = 0 ∧ r.regImage .scheduler = 100000 ∧
  r.regImage .generation = 0x57070101 ∧ r.regImage .identity = 0 ∧
  (∀ p, r.regImage (.power p) = (if p < 32 then 8 else 1) * 2 ^ 40 + 7) ∧
  r.groups = [] ∧ r.blocks = [] ∧ r.launches = [] ∧ r.accesses = [] ∧ r.boot.memActive = false ∧ r.hub.mailbox.signed = false ∧
  r.hub.nextLaunch = 1 ∧ r.agenda = [{ step := .powerOnReset }]

/-- The memory, and the mailbox's payload, have their canonical form at reset. -/
def Obligations.InvariantAtReset : Prop :=
 Inv State.reset

/-- Every step keeps the canonical form of the memory and of the mailbox's payload: of every state that has it, every next state has it. -/
def Obligations.StepKeepsInvariant : Prop :=
  (∀ s t : State, Inv s → step s = .next t → Inv t) ∧ ∀ (s t : State) (i : Instr), Inv s → exec i s = .next t → Inv t

/-- R101-R116, R296: decoding the encoding of a well-formed instruction gives it back, with every operand field at every value; and every instruction has an
encoding. -/
def Obligations.EncodingRoundTrip : Prop :=
  ∀ i : Instr, i.wf = true →
    (∀ w, encode i = some w → (if isMicro i then decodeMu w else decodeWord w) = some i) ∧
    ((guardingOf i).isSome = true ∨ isMicro i = true → (encode i).isSome = true) ∧
    (guardingOf i = none → isMicro i = false → encode i = none)

/-- R116, R296: a word is refused exactly where its opcode is reserved; otherwise it decodes to a well-formed instruction whose encoding it is. -/
def Obligations.DecodingIsExact : Prop :=
  ∀ w : W64,
    (decodeWord w = none ↔ 0x1E0 ≤ w.toNat % 512) ∧ (decodeMu w = none ↔ 12 ≤ w.toNat / 2 ^ 58) ∧
    (∀ i, decodeWord w = some i → i.wf = true ∧ isMicro i = false ∧ encode i = some w) ∧
    ∀ i, decodeMu w = some i → i.wf = true ∧ isMicro i = true ∧ encode i = some w

/-- R102-R106, R112-R116: words of every family, their fields placed by hand, decode to the instructions they stand for. -/
def Obligations.DecodeWords : Prop :=
  let c : Common := { gneg := 1, guard := 5, idle := 2 }
  let tF : TForm := { c := c, mod := 0x0A5, lu2 := 1, src2 := 14, lu1 := 0, src1 := 13, lu0 := 1, src0 := 12, dst := 11 }
  let iF : IForm := { c := c, mod := 0x3C5, imm := 0xBEEF, lu0 := 1, src0 := 12, dst := 11 }
  let bF : BForm := { c := c, off := -3, bmod := 0x2A, luc := 1, cond := 21 }
  let mF : MForm := { c := c, mod := 0x2D, lud := 0, sb := 5, imm := 0xABC, luo := 1, off := 13, h := 7, d := 11 }
  let xF : XForm := { c := c, mod := 0x2C, sb := 5, xd := 14, luc := 0, xc := 13, lub := 1, xb := 12, xa := 11 }
  ∀ p ∈ ([
(0x52C381B0C0B8540B, .srem (.t true tF)), (0x78B7DDF0C0B8542E, .smul (.i false iF)), (0xFFFFFFED5158544E, .bnz true bF),
       (0x78B7DDF0C0B85465, .pmov (.i iF)), (0x594381B0C0B8546D, .acqSpmT xF), (0x52C381B0C0B85489, .vmad true tF),
       (0x52C381B0C0B854C3, .vfmax .f64 tF), (0x52C381B0C0B854F7, .vcvt .i8 true tF), (0xB56AF21A70B85549, .stG .b128 mF),
       (0xB56AF21A70B8557C, .hld mF), (0x594381B0C0B8558A, .rset .geom xF), (0xB56AF21A70B855AB, .redL mF), (0x594381B0C0B855AE, .semBind xF),
       (0x594381B0C0B855B3, .ffadd true xF), (0x594381B0C0B855BB, .cpreempt xF), (0x52C381B0C0B855DF, .hintX 29 tF)] : List (W64 × Instr)), decodeWord p.1 = some p.2

/-- What a step does: it makes one of the moves open to it; a sub-group whose clause is fetched issues the word it stands at, an event pending or of the
device's own is performed, a routine runs its next microinstruction; then time passes. A fault or refusal is the step's.
Which peer a pipe takes is judged as log entry 84 says. -/
def Obligations.StepRuns : Prop :=
  ∀ (s : State) (m : Turn),
    let r := s.choose s.choices.length
    s.choices[r.1]? = some m →
    (∀ k e c i, m = .sub k e → kindOf k ≠ .stream → (r.2.sub k e).clause = some c → decodeWord (c.words.getD (r.2.sub k e).idx 0) = some i →
      step s = after (exec i { r.2 with cur := .group k e, lastPoll := none })) ∧
    (∀ k e c i t, m = .sub k e → kindOf k = .stream → ({ r.2 with cur := .group k e, lastPoll := none } : State).signalGate k = .met t →
      (t.sub k e).clause = some c → decodeWord (c.words.getD (t.sub k e).idx 0) = some i → step s = after (exec i t)) ∧
    (∀ k e, m = .sub k e → kindOf k ≠ .stream → (r.2.sub k e).clause = none →
      step s = after (exec .clauseFetch { r.2 with cur := .group k e, lastPoll := none })) ∧
    (∀ u p i, m = .engine u p → ({ r.2 with cur := .engine u p, lastPoll := none } : State).engineNext u p = .inl i →
      step s = after (exec i { r.2 with cur := .engine u p, lastPoll := none })) ∧
    (∀ n ev, m = .pending n → r.2.agenda[n]? = some ev → ev.step ≠ .umpireExpire →
      step s = after (exec ev.step { r.2 with agenda := r.2.agenda.eraseIdx n, cur := .none, arg := ev.arg, lastPoll := none })) ∧
    (∀ ev, m = .own ev → ev.step ≠ .umpireExpire → step s = after (exec ev.step { r.2 with cur := .none, arg := ev.arg, lastPoll := none })) ∧
    ∀ (t : State) (f : Fault) (q : Refusal), after (.next t) = .next { t.lookAll with time := t.time + Config.elapse t.count, count := t.count + 1 } ∧
      after (.fault f) = .fault f ∧ after (.refused q) = .refused q

/-- R121, R129, R151, R264: the outcomes that every instruction word has in common. What its header waits for, what it must commit or order itself
behind, and a failing check decide before its effect; a privileged word outside a control core traps; a word whose guard leaves no lane has none. -/
def Obligations.IssueOutcomes : Prop :=
  ∀ (i : Instr) (gd : Guarding), guardingOf i = some gd →
    (∀ (s : State) (k e : Nat), s.cur = .group k e →
      (∀ t, s.headerGate k e = .blocked t → exec i s = .next t) ∧
      ∀ t, s.headerGate k e = .met t →
        let sh := shape (kindOf k) i
        let ucode := (t.blockOf k).rv.permUcode
        (∀ x, t.decodeTrap (kindOf k) ucode i = some x → exec i s = .next (t.takeTrap k e x)) ∧
        (inProfile (kindOf k) (opcodeOf i) = false → exec i s = .next (t.takeTrap k e { cause := 0x01, info := 2 * 2 ^ 24 + opcodeOf i })) ∧
        (inProfile (kindOf k) (opcodeOf i) = true → kindOf k ≠ .control → isPrivileged ucode (opcodeOf i) = true →
          exec i s = .next (t.takeTrap k e { cause := 0x0F, info := opcodeOf i })) ∧
        (t.decodeTrap (kindOf k) ucode i = none →
          (∀ u, t.issueGate k e i sh gd = .blocked u → exec i s = .next u) ∧
          ∀ u x, t.issueGate k e i sh gd = .met u → u.operandTrap k e i sh (u.active k e (commonOf i)) = some x →
            exec i s = .next (u.takeTrap k e x))) ∧
    (∀ s : State, (∀ k e, s.cur ≠ .group k e) → exec i s = .fault .noIssuer) ∧
    ∀ (s s' : State) (cx : Cx), s.readyFor i gd = some (cx, s') → cx.act = 0 → gd ≠ .always → exec i s = .next (s'.retiredIdle cx gd)

/-- R138-R141, R149, R150: the frame of the words that write registers only. What comes before a word's effect, its retirement and the landing of a
result leave memory, the hub, every other group and every other register as they were; and so does the whole word (in a handler a trap of its own would
write a record). -/
def Obligations.RegisterWordsFrame : Prop :=
  (∀ (s s' : State) (i : Instr) (gd : Guarding) (cx : Cx), s.readyFor i gd = some (cx, s') → s'.mem = s.mem ∧ sameHub s s' ∧ otherGroups s s' cx.k) ∧
  (∀ (s t : State) (cx : Cx) (wrs : List Wr) (lat : Nat),
    let u := s.retiredTo t cx wrs lat
    let g := t.group cx.k
    let h := u.group cx.k
    u.mem = t.mem ∧ sameHub t u ∧ otherGroups t u cx.k ∧ (∀ e, e ≠ cx.e → h.sub e = g.sub e) ∧
      (h.sub cx.e).s = (g.sub cx.e).s ∧ (h.sub cx.e).h = (g.sub cx.e).h ∧ (h.sub cx.e).lanes = (g.sub cx.e).lanes ∧ h.v = g.v ∧ h.p = g.p ∧ h.m = g.m ∧
      h.fpcsr = g.fpcsr ∧ h.lfsr = g.lfsr ∧ h.lpBase = g.lpBase ∧ h.umpLim = g.umpLim ∧ h.ctx = g.ctx ∧ h.tr = g.tr ∧ h.handler = g.handler ∧
      h.reg = g.reg ∧ h.own = g.own) ∧
  (∀ (s : State) (k e : Nat) (w : Wr),
    let t := s.land k e w
    t.mem = s.mem ∧ sameHub s t ∧ otherGroups s t k ∧ (∀ i, i ≠ e → t.sub k i = s.sub k i) ∧
      (∀ r, w.key ≠ r → (t.sub k e).sreg r = (s.sub k e).sreg r) ∧
      (∀ r l, l < 32 → w.key ≠ 256 + r → (t.group k).vreg r l = (s.group k).vreg r l) ∧
      (∀ r, w.key ≠ 512 + r → (t.group k).pred r = (s.group k).pred r) ∧ (∀ r, w.key ≠ 1024 + r → (t.sub k e).hreg r = (s.sub k e).hreg r) ∧
      (∀ r, w.key ≠ 1280 + r → tget 0 (t.group k).m r = tget 0 (s.group k).m r) ∧
      (w.key < 1536 → (t.group k).fpcsr = (s.group k).fpcsr ∧ (t.group k).tr = (s.group k).tr ∧ (t.group k).lpBase = (s.group k).lpBase)) ∧
  ∀ (s s' t : State) (i : Instr) (gd : Guarding) (cx : Cx), registerWord i = true → guardingOf i = some gd → s.readyFor i gd = some (cx, s') →
    (s'.group cx.k).handler = false → exec i s = .next t → t.mem = s.mem ∧ sameHub s t ∧ otherGroups s t cx.k

/-- R386-R391: a trap stops every sub-group of its group; once their accesses are accepted the handler is entered with the trap registers written, the
handler flag set and the pc at the handler's entry; a trap in a handler is a double trap. -/
def Obligations.TrapEntry : Prop :=
  ∀ (s : State) (k e : Nat) (x : TrapInfo),
    let g := s.group k
    let t := s.takeTrap k e x
    let pc := x.pc.getD (g.sub e).here
    let clause := x.clause.getD (g.sub e).clauseStart
    let who := if kindOf k = .lattice then e else k % 32
    (g.handler = false → s.canEnter k = true →
      (t.group k).handler = true ∧ (t.group k).trapping = none ∧
      (t.group k).tr = { cause := BitVec.ofNat 32 (x.stop % 16 * 2 ^ 28 + who % 8 * 2 ^ 25 + x.src % 256 * 2 ^ 16 + x.cause % 256)
                         pc := BitVec.ofNat 64 pc, clause := BitVec.ofNat 64 clause, amask := (g.sub e).lanes, fmask := x.fmask
                         addr := BitVec.ofNat 64 x.addr, addr2 := BitVec.ofNat 64 x.addr2, info := BitVec.ofNat 32 x.info } ∧
      (t.sub k e).st = 1 ∧ (t.sub k e).lanes = (if kindOf k = .control then 1 else 0xFFFFFFFF) ∧ (t.sub k e).pc = s.handlerPc k ∧
      (t.sub k e).clause = none ∧ (t.sub k e).win = [] ∧ (t.sub k e).stopped = false ∧
      (∀ p ∈ g.subs, p.1 ≠ e → (t.sub k p.1).stopped = true) ∧ t.mem = s.mem ∧ sameHub s t ∧ otherGroups s t k) ∧
    (g.handler = false → s.canEnter k = false →
      (t.group k).handler = false ∧ (t.group k).trapping = some (e, { x with pc := some pc, clause := some clause }) ∧
      (∀ p ∈ g.subs, (t.sub k p.1).stopped = true) ∧ (t.group k).tr = g.tr ∧ t.mem = s.mem ∧ sameHub s t ∧ otherGroups s t k ∧
      ({ step := .commit, arg := { a := k, flag := true } } : Event) ∈ t.agenda) ∧
    (g.handler = true → (t.group k).doubleTrap = true ∧ (t.group k).trapping = none ∧ (t.group k).tr = g.tr)

/-- R84: the claim checker's decision. A state of at most 16 blocks is safe exactly where they can finish in some order; and so a grant leaves an order in
which every block, the asking one among them, gets its whole claim. -/
def Obligations.ClaimCheckIsBankers : Prop :=
  (∀ (t : Res) (bs : List (Res × Res)), bs.length ≤ 16 → (isSafe t bs = true ↔ ∃ order, order.Perm bs ∧ canFinish (avail t bs) order)) ∧
  ∀ (t : Res) (bs : List (Res × Res)) (c h q : Res), bs.length ≤ 15 →
    (claimCheck t bs c h q = 0 → q.gt (c.sub h) = false ∧ q.gt (avail t ((c, h) :: bs)) = false ∧
      ∃ order, order.Perm ((c, h.add q) :: bs) ∧ canFinish (avail t ((c, h.add q) :: bs)) order) ∧
    (claimCheck t bs c h q = 3 ↔ q.gt (c.sub h) = true) ∧
    (claimCheck t bs c h q = 2 → ¬ ∃ order, order.Perm ((c, h.add q) :: bs) ∧ canFinish (avail t ((c, h.add q) :: bs)) order)
end

