-- ==== Sys2Proof/Laws/Issue.lean ====
section
/-! SUPPORT. What `issue` can do: the gates of a word that is ready are all met, and its effect alone decides what follows. -/

namespace Sys2Proof.Laws

open Sys2Proof.Machine

/-- A ready word performs its effect: everything `issue` does is in `perform`. -/
theorem issue_ready {s s' : State} {i : Instr} {gd : Guarding} {cx : Cx} (f : Cx → State → Eff) (h : s.readyFor i gd = some (cx, s')) :
    issue i gd f s = .next (s'.perform cx (shape (kindOf cx.k) cx.i) gd f) := by
  unfold State.readyFor at h
  unfold issue State.issueBy
  split at h
  · next k e hc =>
    cases h1 : s.headerGate k e with
    | blocked s1 => simp [h1] at h
    | met s1 =>
      simp only [hc, h1] at h ⊢
      cases hd : s1.decodeTrap (kindOf k) ((s1.blockOf k).rv.permUcode) i with
      | some t => simp [hd] at h
      | none =>
        cases h2 : s1.issueGate k e i (shape (kindOf k) i) gd with
        | blocked s2 => simp [hd, h2] at h
        | met s2 =>
          cases ho : s2.operandTrap k e i (shape (kindOf k) i) (s2.active k e (commonOf i)) with
          | some t => simp [hd, h2, ho] at h
          | none =>
            simp [hd, h2, ho] at h
            obtain ⟨rfl, rfl⟩ := h
            simp [ho]
  · simp at h

/-- The word and the sub-group of a ready word. -/
theorem ready_cx {s s' : State} {i : Instr} {gd : Guarding} {cx : Cx} (h : s.readyFor i gd = some (cx, s')) :
    cx.i = i ∧ s.cur = .group cx.k cx.e := by
  unfold State.readyFor at h
  split at h
  · next k e hc =>
    cases h1 : s.headerGate k e with
    | blocked s1 => simp [h1] at h
    | met s1 =>
      simp only [h1] at h
      cases hd : s1.decodeTrap (kindOf k) ((s1.blockOf k).rv.permUcode) i with
      | some t => simp [hd] at h
      | none =>
        cases h2 : s1.issueGate k e i (shape (kindOf k) i) gd with
        | blocked s2 => simp [hd, h2] at h
        | met s2 =>
          cases ho : s2.operandTrap k e i (shape (kindOf k) i) (s2.active k e (commonOf i)) with
          | some t => simp [hd, h2, ho] at h
          | none =>
            simp [hd, h2, ho] at h
            obtain ⟨rfl, rfl⟩ := h
            exact ⟨rfl, hc⟩
  · simp at h

/-- A word with an active lane, or whose effect judges its lanes itself, performs that effect. -/
theorem issue_effect {s s' : State} {i : Instr} {gd : Guarding} {cx : Cx} (f : Cx → State → Eff)
    (h : s.readyFor i gd = some (cx, s')) (ha : cx.act ≠ 0 ∨ gd = .always) :
    issue i gd f s = .next (match f cx s' with
      | .ok t wrs lat => s'.retiredTo t cx wrs lat
      | .jump t wrs x bad =>
        let t := (t.retire cx.k cx.e (commonOf cx.i).idle.toNat ((shape (kindOf cx.k) cx.i).lastUses (s'.group cx.k).isSplit)
          (writeKeys cx.i (shape (kindOf cx.k) cx.i)) wrs 1).leaveClause cx.k cx.e x
        if bad then t.setSub cx.k cx.e { t.sub cx.k cx.e with badPc := true } else t
      | .gone t => t
      | .trap t x => t.takeTrap cx.k cx.e x
      | .wait t kind item addr2 => t.waitFor cx.k cx.e kind item addr2
      | .stall t => t) := by
  rw [issue_ready f h]
  have hc : (cx.act = 0 && gd != Guarding.always) = false := by
    rcases ha with ha | rfl
    · simpa using fun h => absurd h ha
    · simp
  simp only [State.perform, hc]
  cases f cx s' <;> rfl

/-- A word whose guard leaves no lane has no effect; a long-latency one completes its slot at once (R129, R264). -/
theorem issue_unguarded {s s' : State} {i : Instr} {gd : Guarding} {cx : Cx} (f : Cx → State → Eff)
    (h : s.readyFor i gd = some (cx, s')) (ha : cx.act = 0) (hg : gd ≠ .always) :
    issue i gd f s =
      .next (((if gd == Guarding.slot && (shape (kindOf cx.k) cx.i).slot.isSome then s'.slotDone cx.k cx.e cx.slot cx.op [] else s').retire
        cx.k cx.e (commonOf cx.i).idle.toNat ((shape (kindOf cx.k) cx.i).lastUses (s'.group cx.k).isSplit) [] [] 0).advance cx.k cx.e) := by
  rw [issue_ready f h]
  have hc : (cx.act = 0 && gd != Guarding.always) = true := by simp [ha, hg]
  simp only [State.perform, hc]
  rfl

end Sys2Proof.Laws
end

