-- ==== Sys2Proof/Laws/Memory.lean ====
section
/-! SUPPORT. Tables and the one memory: what is read after a write, and that every operation that writes memory keeps its canonical form. -/

namespace Sys2Proof.Laws

open Sys2Proof.Machine

/-! ### Tables -/

@[simp] theorem tget_tput {α : Type} (d : α) (t : Tab α) (i j : Nat) (x : α) : tget d (tput t i x) j = if i = j then x else tget d t j := by
  induction t with
  | nil => rfl
  | cons e t ih =>
    obtain ⟨k, v⟩ := e
    simp only [tput]
    split
    · next h => subst h; simp only [tget]; split <;> rfl
    · next h =>
      split
      · simp only [tget]
      · simp only [tget, ih]
        split
        · next hk => subst hk; simp [Ne.symm h]
        · rfl
@[simp] theorem tfind_tput {α : Type} (t : Tab α) (i j : Nat) (x : α) : tfind (tput t i x) j = if i = j then some x else tfind t j := by
  induction t with
  | nil => rfl
  | cons e t ih =>
    obtain ⟨k, v⟩ := e
    simp only [tput]
    split
    · next h => subst h; simp only [tfind]; split <;> rfl
    · next h =>
      split
      · simp only [tfind]
      · simp only [tfind, ih]
        split
        · next hk => subst hk; simp [Ne.symm h]
        · rfl
/-- `tget` is `tfind` with a default. -/
theorem tget_eq_tfind {α : Type} (d : α) (t : Tab α) (i : Nat) : tget d t i = (tfind t i).getD d := by
  induction t with
  | nil => rfl
  | cons e t ih => simp only [tget, tfind]; split <;> simp [ih]
@[simp] theorem tfind_tdel {α : Type} (t : Tab α) (i j : Nat) : tfind (tdel t i) j = if i = j then none else tfind t j := by
  induction t with
  | nil => simp [tdel, tfind]
  | cons e t ih =>
    obtain ⟨k, v⟩ := e
    simp only [tdel, List.filter_cons] at ih ⊢
    by_cases hk : k = i
    · subst hk; simp only [bne_self_eq_false, Bool.false_eq_true, if_false, ih, tfind]; split <;> rfl
    · simp only [bne_iff_ne, ne_eq, hk, not_false_eq_true, if_true, tfind, ih]
      split
      · next h => subst h; simp [Ne.symm hk]
      · rfl

/-! ### Reading after a write -/

theorem mread_minsert (m : Memory) (i j : Nat) (x : Byte) : mread (minsert m i x) j = if i = j then x else mread m j := by
  induction m with
  | nil => rfl
  | cons e t ih =>
    obtain ⟨k, v⟩ := e
    simp only [minsert]
    split
    · next h => subst h; simp only [mread]; split <;> rfl
    · next h =>
      split
      · simp only [mread]
      · simp only [mread, ih]
        split
        · next hk => subst hk; simp [Ne.symm h]
        · rfl
theorem mread_filter (m : Memory) (p : Nat → Bool) (j : Nat) : mread (m.filter (fun e => p e.1)) j = if p j then mread m j else unlisted := by
  induction m with
  | nil => simp [mread]
  | cons e t ih =>
    obtain ⟨k, v⟩ := e
    simp only [List.filter_cons]
    by_cases hp : p k
    · simp only [hp, if_true, mread, ih]
      split
      · next h => subst h; simp [hp]
      · rfl
    · simp only [hp, Bool.false_eq_true, if_false, ih, mread]
      split
      · next h =>
        have : k ≠ j := fun hk => hp (hk ▸ h)
        simp [this]
      · rfl
/-- A byte written is read back, and no other changes. -/
@[simp] theorem mread_mwrite (m : Memory) (i j : Nat) (x : Byte) : mread (mwrite m i x) j = if i = j then x else mread m j := by
  unfold mwrite
  split
  · next h =>
    rw [mread_filter m (fun k => k != i)]
    by_cases hj : i = j
    · subst hj; simp [h]
    · simp [hj, Ne.symm hj]
  · exact mread_minsert m i j x
/-- Bytes written are read back, and no others change. -/
theorem mread_mwrites (bs : List Byte) : ∀ (m : Memory) (k j : Nat),
    mread (mwrites m k bs) j = if k ≤ j ∧ j < k + bs.length then bs.getD (j - k) 0 else mread m j := by
  induction bs with
  | nil =>
    intro m k j
    simp only [mwrites, List.length_nil, Nat.add_zero]
    rw [if_neg (by omega)]
  | cons b t ih =>
    intro m k j
    simp only [mwrites, ih, mread_mwrite, List.length_cons]
    by_cases h : k = j
    · subst h; simp
    · by_cases h1 : k + 1 ≤ j ∧ j < k + 1 + t.length
      · rw [if_pos h1, if_pos (by omega)]
        have : j - k = (j - (k + 1)) + 1 := by omega
        rw [this, List.getD_cons_succ]
      · rw [if_neg h1, if_neg h, if_neg (by omega)]
theorem byte_write (s : State) (k j : Nat) (bs : List Byte) :
    (s.write k bs).byte j = if k ≤ j ∧ j < k + bs.length then bs.getD (j - k) 0 else s.byte j := mread_mwrites bs s.mem k j
theorem byte_zero (s : State) (k n j : Nat) : (s.zero k n).byte j = if k ≤ j ∧ j < k + n then 0 else s.byte j := by
  have h := mread_filter s.mem (fun i => !(decide (k ≤ i) && decide (i < k + n))) j
  unfold State.byte State.zero
  rw [h]
  by_cases hj : k ≤ j ∧ j < k + n
  · simp [hj, unlisted]
  · have : (!(decide (k ≤ j) && decide (j < k + n))) = true := by simp; omega
    rw [this, if_neg hj]; rfl

/-! ### The canonical form -/

/-- Addresses strictly rising, no entry equal to what an unlisted address reads as. -/
theorem wf_iff (m : Memory) : Memory.wf m = true ↔ m.Pairwise (fun a b => a.1 < b.1) ∧ ∀ e ∈ m, e.2 ≠ unlisted := by
  induction m with
  | nil => simp [Memory.wf]
  | cons e t ih =>
    cases t with
    | nil => simp [Memory.wf]
    | cons f t =>
      obtain ⟨k, b⟩ := e
      obtain ⟨k', b'⟩ := f
      simp only [Memory.wf, Bool.and_eq_true, bne_iff_ne, ne_eq, decide_eq_true_eq, ih, List.pairwise_cons, List.mem_cons, forall_eq_or_imp]
      constructor
      · rintro ⟨⟨h1, h2⟩, ⟨h3, h4⟩, h5, h6⟩
        exact ⟨⟨⟨h2, fun a ha => Nat.lt_trans h2 (h3 a ha)⟩, h3, h4⟩, h1, h5, h6⟩
      · rintro ⟨⟨⟨h1, _⟩, h3, h4⟩, h5, h6, h7⟩
        exact ⟨⟨h5, h1⟩, ⟨h3, h4⟩, h6, h7⟩
theorem wf_filter {m : Memory} (p : Nat × Byte → Bool) (h : Memory.wf m = true) : Memory.wf (m.filter p) = true := by
  rw [wf_iff] at h ⊢
  exact ⟨h.1.filter p, fun e he => h.2 e (List.mem_of_mem_filter he)⟩
theorem mem_minsert {m : Memory} {i : Nat} {x : Byte} {e : Nat × Byte} (h : e ∈ minsert m i x) : e = (i, x) ∨ e ∈ m := by
  induction m with
  | nil => simpa [minsert] using h
  | cons f t ih =>
    obtain ⟨k, v⟩ := f
    simp only [minsert] at h
    split at h
    · next hk => subst hk; simp at h ⊢; tauto
    · split at h
      · simpa using h
      · simp only [List.mem_cons] at h ⊢
        rcases h with h | h
        · exact .inr (.inl h)
        · rcases ih h with h | h
          · exact .inl h
          · exact .inr (.inr h)
theorem wf_minsert {m : Memory} (i : Nat) {x : Byte} (hx : x ≠ unlisted) (h : Memory.wf m = true) : Memory.wf (minsert m i x) = true := by
  rw [wf_iff] at h ⊢
  obtain ⟨h1, h2⟩ := h
  refine ⟨?_, fun e he => ?_⟩
  · induction m with
    | nil => simp [minsert]
    | cons f t ih =>
      obtain ⟨k, v⟩ := f
      simp only [List.pairwise_cons] at h1
      simp only [minsert]
      split
      · next hk => exact List.pairwise_cons.2 h1
      · next hk =>
        split
        · next hik =>
          refine List.pairwise_cons.2 ⟨fun a ha => ?_, List.pairwise_cons.2 h1⟩
          rcases List.mem_cons.1 ha with rfl | ha
          · exact hik
          · exact Nat.lt_trans hik (h1.1 a ha)
        · next hik =>
          refine List.pairwise_cons.2 ⟨fun a ha => ?_, ih h1.2 (fun e he => h2 e (List.mem_cons_of_mem _ he))⟩
          rcases mem_minsert ha with rfl | ha
          · simp only; omega
          · exact h1.1 a ha
  · rcases mem_minsert he with rfl | he
    · exact hx
    · exact h2 e he
/-- A write of one byte keeps the canonical form. -/
theorem wf_mwrite {m : Memory} (i : Nat) (x : Byte) (h : Memory.wf m = true) : Memory.wf (mwrite m i x) = true := by
  unfold mwrite
  split
  · exact wf_filter _ h
  · next hx => exact wf_minsert i hx h
theorem wf_mwrites (bs : List Byte) : ∀ {m : Memory} (k : Nat), Memory.wf m = true → Memory.wf (mwrites m k bs) = true := by
  induction bs with
  | nil => exact fun _ h => h
  | cons b t ih => exact fun k h => ih (k + 1) (wf_mwrite k b h)
theorem wf_write {s : State} (k : Nat) (bs : List Byte) (h : Memory.wf s.mem = true) : Memory.wf (s.write k bs).mem = true := wf_mwrites bs k h
theorem wf_zero {s : State} (k n : Nat) (h : Memory.wf s.mem = true) : Memory.wf (s.zero k n).mem = true := wf_filter _ h
/-- A fold of steps that each keep the canonical form keeps it. -/
theorem wf_foldl {β : Type} (f : State → β → State) (hf : ∀ s b, Memory.wf s.mem = true → Memory.wf (f s b).mem = true) :
    ∀ (l : List β) {s : State}, Memory.wf s.mem = true → Memory.wf (l.foldl f s).mem = true := by
  intro l
  induction l with
  | nil => exact fun h => h
  | cons b t ih => exact fun h => ih (hf _ b h)
/-- A drop that takes effect (R265) keeps it. -/
theorem wf_settleDrops {s : State} (id key : Nat) (h : Memory.wf s.mem = true) : Memory.wf (s.settleDrops id key).mem = true := by
  unfold State.settleDrops
  dsimp only
  split
  · exact wf_zero _ _ h
  · exact h
/-- A write through the scratchpad's banks (R154) keeps it. -/
theorem wf_storeAt {s : State} (id key : Nat) (bs : List Byte) (h : Memory.wf s.mem = true) : Memory.wf (s.storeAt id key bs).mem = true := by
  unfold State.storeAt
  dsimp only
  have hs := wf_settleDrops id key h
  split
  · exact wf_write _ _ (wf_zero _ _ hs)
  · exact wf_write _ _ hs
theorem wf_writeAt {s : State} (key : Nat) (bs : List Byte) (h : Memory.wf s.mem = true) : Memory.wf (s.writeAt key bs).mem = true := by
  unfold State.writeAt State.holdHost
  apply wf_storeAt
  split <;> exact h
/-- A copy of a range of memory (R417, the mover) keeps it. -/
theorem wf_copyRange {s : State} (src dst n : Nat) (tags : Bool) (h : Memory.wf s.mem = true) : Memory.wf (s.copyRange src dst n tags).mem = true := by
  unfold State.copyRange
  have hf : ∀ (l : List (Nat × Byte)) (m : Memory), Memory.wf m = true → Memory.wf (l.foldl (fun m e => mwrite m (dst + (e.1 - src)) e.2) m) = true := by
    intro l
    induction l with
    | nil => exact fun m hm => hm
    | cons e t ih => exact fun m hm => ih _ (wf_mwrite _ _ hm)
  exact hf _ _ (wf_zero dst n h)
theorem wf_spmWrite {s : State} (b o : Nat) (bs : List Byte) (h : Memory.wf s.mem = true) : Memory.wf (s.spmWrite b o bs).mem = true := by
  have hN : ∀ (f : Nat) (s : State) (o : Nat) (bs : List Byte), Memory.wf s.mem = true → Memory.wf (s.spmWriteN b o f bs).mem = true := by
    intro f
    induction f with
    | zero => exact fun s o bs h => h
    | succ f ih =>
      intro s o bs h
      unfold State.spmWriteN
      split
      · exact h
      · exact ih _ _ _ (wf_writeAt _ _ h)
  exact hN _ _ _ _ h
/-- A block's image written to memory (R420-R425) keeps it. -/
theorem wf_writePieces {s : State} (a : Nat) (ps : Pieces) (h : Memory.wf s.mem = true) : Memory.wf (s.writePieces a ps).mem = true :=
  wf_foldl _ (fun _ _ h => wf_write _ _ h) ps h
/-- What a reset keeps of memory (R37) keeps it. -/
theorem wf_restart {s : State} (h : Memory.wf s.mem = true) : Memory.wf s.restart.mem = true := wf_filter _ h
theorem wf_reset : Memory.wf State.reset.mem = true := rfl

end Sys2Proof.Laws
end

