-- ==== Sys2Proof/Laws/State.lean ====
section
/-! SUPPORT. What each update of the state leaves alone, field by field, and what reading an updated part gives. -/

namespace Sys2Proof.Laws

open Sys2Proof.Machine

/-! ### `setGroup` -/

@[simp] theorem setGroup_count (s : State) (k : Nat) (g : Group) : (s.setGroup k g).count = s.count := rfl
@[simp] theorem setGroup_nextId (s : State) (k : Nat) (g : Group) : (s.setGroup k g).nextId = s.nextId := rfl
@[simp] theorem setGroup_time (s : State) (k : Nat) (g : Group) : (s.setGroup k g).time = s.time := rfl
@[simp] theorem setGroup_cur (s : State) (k : Nat) (g : Group) : (s.setGroup k g).cur = s.cur := rfl
@[simp] theorem setGroup_lastPoll (s : State) (k : Nat) (g : Group) : (s.setGroup k g).lastPoll = s.lastPoll := rfl
@[simp] theorem setGroup_arg (s : State) (k : Nat) (g : Group) : (s.setGroup k g).arg = s.arg := rfl
@[simp] theorem setGroup_agenda (s : State) (k : Nat) (g : Group) : (s.setGroup k g).agenda = s.agenda := rfl
@[simp] theorem setGroup_mem (s : State) (k : Nat) (g : Group) : (s.setGroup k g).mem = s.mem := rfl
@[simp] theorem setGroup_tags (s : State) (k : Nat) (g : Group) : (s.setGroup k g).tags = s.tags := rfl
@[simp] theorem setGroup_poison (s : State) (k : Nat) (g : Group) : (s.setGroup k g).poison = s.poison := rfl
@[simp] theorem setGroup_cores (s : State) (k : Nat) (g : Group) : (s.setGroup k g).cores = s.cores := rfl
@[simp] theorem setGroup_blocks (s : State) (k : Nat) (g : Group) : (s.setGroup k g).blocks = s.blocks := rfl
@[simp] theorem setGroup_accesses (s : State) (k : Nat) (g : Group) : (s.setGroup k g).accesses = s.accesses := rfl
@[simp] theorem setGroup_copies (s : State) (k : Nat) (g : Group) : (s.setGroup k g).copies = s.copies := rfl
@[simp] theorem setGroup_contexts (s : State) (k : Nat) (g : Group) : (s.setGroup k g).contexts = s.contexts := rfl
@[simp] theorem setGroup_rings (s : State) (k : Nat) (g : Group) : (s.setGroup k g).rings = s.rings := rfl
@[simp] theorem setGroup_queues (s : State) (k : Nat) (g : Group) : (s.setGroup k g).queues = s.queues := rfl
@[simp] theorem setGroup_launches (s : State) (k : Nat) (g : Group) : (s.setGroup k g).launches = s.launches := rfl
@[simp] theorem setGroup_pendingLaunches (s : State) (k : Nat) (g : Group) : (s.setGroup k g).pendingLaunches = s.pendingLaunches := rfl
@[simp] theorem setGroup_ready (s : State) (k : Nat) (g : Group) : (s.setGroup k g).ready = s.ready := rfl
@[simp] theorem setGroup_bindings (s : State) (k : Nat) (g : Group) : (s.setGroup k g).bindings = s.bindings := rfl
@[simp] theorem setGroup_frames (s : State) (k : Nat) (g : Group) : (s.setGroup k g).frames = s.frames := rfl
@[simp] theorem setGroup_moves (s : State) (k : Nat) (g : Group) : (s.setGroup k g).moves = s.moves := rfl
@[simp] theorem setGroup_lines (s : State) (k : Nat) (g : Group) : (s.setGroup k g).lines = s.lines := rfl
@[simp] theorem setGroup_portCache (s : State) (k : Nat) (g : Group) : (s.setGroup k g).portCache = s.portCache := rfl
@[simp] theorem setGroup_codePast (s : State) (k : Nat) (g : Group) : (s.setGroup k g).codePast = s.codePast := rfl
@[simp] theorem setGroup_codeInv (s : State) (k : Nat) (g : Group) : (s.setGroup k g).codeInv = s.codeInv := rfl
@[simp] theorem setGroup_llcHost (s : State) (k : Nat) (g : Group) : (s.setGroup k g).llcHost = s.llcHost := rfl
@[simp] theorem setGroup_sentPackets (s : State) (k : Nat) (g : Group) : (s.setGroup k g).sentPackets = s.sentPackets := rfl
@[simp] theorem setGroup_held (s : State) (k : Nat) (g : Group) : (s.setGroup k g).held = s.held := rfl
@[simp] theorem setGroup_dirty (s : State) (k : Nat) (g : Group) : (s.setGroup k g).dirty = s.dirty := rfl
@[simp] theorem setGroup_outstanding (s : State) (k : Nat) (g : Group) : (s.setGroup k g).outstanding = s.outstanding := rfl
@[simp] theorem setGroup_hub (s : State) (k : Nat) (g : Group) : (s.setGroup k g).hub = s.hub := rfl
@[simp] theorem setGroup_boot (s : State) (k : Nat) (g : Group) : (s.setGroup k g).boot = s.boot := rfl

/-! ### `setSub` -/

@[simp] theorem setSub_count (s : State) (k e : Nat) (x : Sub) : (s.setSub k e x).count = s.count := rfl
@[simp] theorem setSub_nextId (s : State) (k e : Nat) (x : Sub) : (s.setSub k e x).nextId = s.nextId := rfl
@[simp] theorem setSub_time (s : State) (k e : Nat) (x : Sub) : (s.setSub k e x).time = s.time := rfl
@[simp] theorem setSub_cur (s : State) (k e : Nat) (x : Sub) : (s.setSub k e x).cur = s.cur := rfl
@[simp] theorem setSub_lastPoll (s : State) (k e : Nat) (x : Sub) : (s.setSub k e x).lastPoll = s.lastPoll := rfl
@[simp] theorem setSub_arg (s : State) (k e : Nat) (x : Sub) : (s.setSub k e x).arg = s.arg := rfl
@[simp] theorem setSub_agenda (s : State) (k e : Nat) (x : Sub) : (s.setSub k e x).agenda = s.agenda := rfl
@[simp] theorem setSub_mem (s : State) (k e : Nat) (x : Sub) : (s.setSub k e x).mem = s.mem := rfl
@[simp] theorem setSub_tags (s : State) (k e : Nat) (x : Sub) : (s.setSub k e x).tags = s.tags := rfl
@[simp] theorem setSub_poison (s : State) (k e : Nat) (x : Sub) : (s.setSub k e x).poison = s.poison := rfl
@[simp] theorem setSub_cores (s : State) (k e : Nat) (x : Sub) : (s.setSub k e x).cores = s.cores := rfl
@[simp] theorem setSub_blocks (s : State) (k e : Nat) (x : Sub) : (s.setSub k e x).blocks = s.blocks := rfl
@[simp] theorem setSub_accesses (s : State) (k e : Nat) (x : Sub) : (s.setSub k e x).accesses = s.accesses := rfl
@[simp] theorem setSub_copies (s : State) (k e : Nat) (x : Sub) : (s.setSub k e x).copies = s.copies := rfl
@[simp] theorem setSub_contexts (s : State) (k e : Nat) (x : Sub) : (s.setSub k e x).contexts = s.contexts := rfl
@[simp] theorem setSub_rings (s : State) (k e : Nat) (x : Sub) : (s.setSub k e x).rings = s.rings := rfl
@[simp] theorem setSub_queues (s : State) (k e : Nat) (x : Sub) : (s.setSub k e x).queues = s.queues := rfl
@[simp] theorem setSub_launches (s : State) (k e : Nat) (x : Sub) : (s.setSub k e x).launches = s.launches := rfl
@[simp] theorem setSub_pendingLaunches (s : State) (k e : Nat) (x : Sub) : (s.setSub k e x).pendingLaunches = s.pendingLaunches := rfl
@[simp] theorem setSub_ready (s : State) (k e : Nat) (x : Sub) : (s.setSub k e x).ready = s.ready := rfl
@[simp] theorem setSub_bindings (s : State) (k e : Nat) (x : Sub) : (s.setSub k e x).bindings = s.bindings := rfl
@[simp] theorem setSub_frames (s : State) (k e : Nat) (x : Sub) : (s.setSub k e x).frames = s.frames := rfl
@[simp] theorem setSub_moves (s : State) (k e : Nat) (x : Sub) : (s.setSub k e x).moves = s.moves := rfl
@[simp] theorem setSub_lines (s : State) (k e : Nat) (x : Sub) : (s.setSub k e x).lines = s.lines := rfl
@[simp] theorem setSub_portCache (s : State) (k e : Nat) (x : Sub) : (s.setSub k e x).portCache = s.portCache := rfl
@[simp] theorem setSub_codePast (s : State) (k e : Nat) (x : Sub) : (s.setSub k e x).codePast = s.codePast := rfl
@[simp] theorem setSub_codeInv (s : State) (k e : Nat) (x : Sub) : (s.setSub k e x).codeInv = s.codeInv := rfl
@[simp] theorem setSub_llcHost (s : State) (k e : Nat) (x : Sub) : (s.setSub k e x).llcHost = s.llcHost := rfl
@[simp] theorem setSub_sentPackets (s : State) (k e : Nat) (x : Sub) : (s.setSub k e x).sentPackets = s.sentPackets := rfl
@[simp] theorem setSub_held (s : State) (k e : Nat) (x : Sub) : (s.setSub k e x).held = s.held := rfl
@[simp] theorem setSub_dirty (s : State) (k e : Nat) (x : Sub) : (s.setSub k e x).dirty = s.dirty := rfl
@[simp] theorem setSub_outstanding (s : State) (k e : Nat) (x : Sub) : (s.setSub k e x).outstanding = s.outstanding := rfl
@[simp] theorem setSub_hub (s : State) (k e : Nat) (x : Sub) : (s.setSub k e x).hub = s.hub := rfl
@[simp] theorem setSub_boot (s : State) (k e : Nat) (x : Sub) : (s.setSub k e x).boot = s.boot := rfl

/-! ### `setReg` -/

@[simp] theorem setReg_count (s : State) (k i : Nat) (x : W64) : (s.setReg k i x).count = s.count := rfl
@[simp] theorem setReg_nextId (s : State) (k i : Nat) (x : W64) : (s.setReg k i x).nextId = s.nextId := rfl
@[simp] theorem setReg_time (s : State) (k i : Nat) (x : W64) : (s.setReg k i x).time = s.time := rfl
@[simp] theorem setReg_cur (s : State) (k i : Nat) (x : W64) : (s.setReg k i x).cur = s.cur := rfl
@[simp] theorem setReg_lastPoll (s : State) (k i : Nat) (x : W64) : (s.setReg k i x).lastPoll = s.lastPoll := rfl
@[simp] theorem setReg_arg (s : State) (k i : Nat) (x : W64) : (s.setReg k i x).arg = s.arg := rfl
@[simp] theorem setReg_agenda (s : State) (k i : Nat) (x : W64) : (s.setReg k i x).agenda = s.agenda := rfl
@[simp] theorem setReg_mem (s : State) (k i : Nat) (x : W64) : (s.setReg k i x).mem = s.mem := rfl
@[simp] theorem setReg_tags (s : State) (k i : Nat) (x : W64) : (s.setReg k i x).tags = s.tags := rfl
@[simp] theorem setReg_poison (s : State) (k i : Nat) (x : W64) : (s.setReg k i x).poison = s.poison := rfl
@[simp] theorem setReg_cores (s : State) (k i : Nat) (x : W64) : (s.setReg k i x).cores = s.cores := rfl
@[simp] theorem setReg_blocks (s : State) (k i : Nat) (x : W64) : (s.setReg k i x).blocks = s.blocks := rfl
@[simp] theorem setReg_accesses (s : State) (k i : Nat) (x : W64) : (s.setReg k i x).accesses = s.accesses := rfl
@[simp] theorem setReg_copies (s : State) (k i : Nat) (x : W64) : (s.setReg k i x).copies = s.copies := rfl
@[simp] theorem setReg_contexts (s : State) (k i : Nat) (x : W64) : (s.setReg k i x).contexts = s.contexts := rfl
@[simp] theorem setReg_rings (s : State) (k i : Nat) (x : W64) : (s.setReg k i x).rings = s.rings := rfl
@[simp] theorem setReg_queues (s : State) (k i : Nat) (x : W64) : (s.setReg k i x).queues = s.queues := rfl
@[simp] theorem setReg_launches (s : State) (k i : Nat) (x : W64) : (s.setReg k i x).launches = s.launches := rfl
@[simp] theorem setReg_pendingLaunches (s : State) (k i : Nat) (x : W64) : (s.setReg k i x).pendingLaunches = s.pendingLaunches := rfl
@[simp] theorem setReg_ready (s : State) (k i : Nat) (x : W64) : (s.setReg k i x).ready = s.ready := rfl
@[simp] theorem setReg_bindings (s : State) (k i : Nat) (x : W64) : (s.setReg k i x).bindings = s.bindings := rfl
@[simp] theorem setReg_frames (s : State) (k i : Nat) (x : W64) : (s.setReg k i x).frames = s.frames := rfl
@[simp] theorem setReg_moves (s : State) (k i : Nat) (x : W64) : (s.setReg k i x).moves = s.moves := rfl
@[simp] theorem setReg_lines (s : State) (k i : Nat) (x : W64) : (s.setReg k i x).lines = s.lines := rfl
@[simp] theorem setReg_portCache (s : State) (k i : Nat) (x : W64) : (s.setReg k i x).portCache = s.portCache := rfl
@[simp] theorem setReg_codePast (s : State) (k i : Nat) (x : W64) : (s.setReg k i x).codePast = s.codePast := rfl
@[simp] theorem setReg_codeInv (s : State) (k i : Nat) (x : W64) : (s.setReg k i x).codeInv = s.codeInv := rfl
@[simp] theorem setReg_llcHost (s : State) (k i : Nat) (x : W64) : (s.setReg k i x).llcHost = s.llcHost := rfl
@[simp] theorem setReg_sentPackets (s : State) (k i : Nat) (x : W64) : (s.setReg k i x).sentPackets = s.sentPackets := rfl
@[simp] theorem setReg_held (s : State) (k i : Nat) (x : W64) : (s.setReg k i x).held = s.held := rfl
@[simp] theorem setReg_dirty (s : State) (k i : Nat) (x : W64) : (s.setReg k i x).dirty = s.dirty := rfl
@[simp] theorem setReg_outstanding (s : State) (k i : Nat) (x : W64) : (s.setReg k i x).outstanding = s.outstanding := rfl
@[simp] theorem setReg_hub (s : State) (k i : Nat) (x : W64) : (s.setReg k i x).hub = s.hub := rfl
@[simp] theorem setReg_boot (s : State) (k i : Nat) (x : W64) : (s.setReg k i x).boot = s.boot := rfl

/-! ### `setCore` -/

@[simp] theorem setCore_count (s : State) (u : Nat) (c : Core) : (s.setCore u c).count = s.count := rfl
@[simp] theorem setCore_nextId (s : State) (u : Nat) (c : Core) : (s.setCore u c).nextId = s.nextId := rfl
@[simp] theorem setCore_time (s : State) (u : Nat) (c : Core) : (s.setCore u c).time = s.time := rfl
@[simp] theorem setCore_cur (s : State) (u : Nat) (c : Core) : (s.setCore u c).cur = s.cur := rfl
@[simp] theorem setCore_lastPoll (s : State) (u : Nat) (c : Core) : (s.setCore u c).lastPoll = s.lastPoll := rfl
@[simp] theorem setCore_arg (s : State) (u : Nat) (c : Core) : (s.setCore u c).arg = s.arg := rfl
@[simp] theorem setCore_agenda (s : State) (u : Nat) (c : Core) : (s.setCore u c).agenda = s.agenda := rfl
@[simp] theorem setCore_mem (s : State) (u : Nat) (c : Core) : (s.setCore u c).mem = s.mem := rfl
@[simp] theorem setCore_tags (s : State) (u : Nat) (c : Core) : (s.setCore u c).tags = s.tags := rfl
@[simp] theorem setCore_poison (s : State) (u : Nat) (c : Core) : (s.setCore u c).poison = s.poison := rfl
@[simp] theorem setCore_groups (s : State) (u : Nat) (c : Core) : (s.setCore u c).groups = s.groups := rfl
@[simp] theorem setCore_blocks (s : State) (u : Nat) (c : Core) : (s.setCore u c).blocks = s.blocks := rfl
@[simp] theorem setCore_accesses (s : State) (u : Nat) (c : Core) : (s.setCore u c).accesses = s.accesses := rfl
@[simp] theorem setCore_copies (s : State) (u : Nat) (c : Core) : (s.setCore u c).copies = s.copies := rfl
@[simp] theorem setCore_contexts (s : State) (u : Nat) (c : Core) : (s.setCore u c).contexts = s.contexts := rfl
@[simp] theorem setCore_rings (s : State) (u : Nat) (c : Core) : (s.setCore u c).rings = s.rings := rfl
@[simp] theorem setCore_queues (s : State) (u : Nat) (c : Core) : (s.setCore u c).queues = s.queues := rfl
@[simp] theorem setCore_launches (s : State) (u : Nat) (c : Core) : (s.setCore u c).launches = s.launches := rfl
@[simp] theorem setCore_pendingLaunches (s : State) (u : Nat) (c : Core) : (s.setCore u c).pendingLaunches = s.pendingLaunches := rfl
@[simp] theorem setCore_ready (s : State) (u : Nat) (c : Core) : (s.setCore u c).ready = s.ready := rfl
@[simp] theorem setCore_bindings (s : State) (u : Nat) (c : Core) : (s.setCore u c).bindings = s.bindings := rfl
@[simp] theorem setCore_frames (s : State) (u : Nat) (c : Core) : (s.setCore u c).frames = s.frames := rfl
@[simp] theorem setCore_moves (s : State) (u : Nat) (c : Core) : (s.setCore u c).moves = s.moves := rfl
@[simp] theorem setCore_lines (s : State) (u : Nat) (c : Core) : (s.setCore u c).lines = s.lines := rfl
@[simp] theorem setCore_portCache (s : State) (u : Nat) (c : Core) : (s.setCore u c).portCache = s.portCache := rfl
@[simp] theorem setCore_codePast (s : State) (u : Nat) (c : Core) : (s.setCore u c).codePast = s.codePast := rfl
@[simp] theorem setCore_codeInv (s : State) (u : Nat) (c : Core) : (s.setCore u c).codeInv = s.codeInv := rfl
@[simp] theorem setCore_llcHost (s : State) (u : Nat) (c : Core) : (s.setCore u c).llcHost = s.llcHost := rfl
@[simp] theorem setCore_sentPackets (s : State) (u : Nat) (c : Core) : (s.setCore u c).sentPackets = s.sentPackets := rfl
@[simp] theorem setCore_held (s : State) (u : Nat) (c : Core) : (s.setCore u c).held = s.held := rfl
@[simp] theorem setCore_dirty (s : State) (u : Nat) (c : Core) : (s.setCore u c).dirty = s.dirty := rfl
@[simp] theorem setCore_outstanding (s : State) (u : Nat) (c : Core) : (s.setCore u c).outstanding = s.outstanding := rfl
@[simp] theorem setCore_hub (s : State) (u : Nat) (c : Core) : (s.setCore u c).hub = s.hub := rfl
@[simp] theorem setCore_boot (s : State) (u : Nat) (c : Core) : (s.setCore u c).boot = s.boot := rfl

/-! ### `setMslot` -/

@[simp] theorem setMslot_count (s : State) (u p : Nat) (m : MSlot) : (s.setMslot u p m).count = s.count := rfl
@[simp] theorem setMslot_nextId (s : State) (u p : Nat) (m : MSlot) : (s.setMslot u p m).nextId = s.nextId := rfl
@[simp] theorem setMslot_time (s : State) (u p : Nat) (m : MSlot) : (s.setMslot u p m).time = s.time := rfl
@[simp] theorem setMslot_cur (s : State) (u p : Nat) (m : MSlot) : (s.setMslot u p m).cur = s.cur := rfl
@[simp] theorem setMslot_lastPoll (s : State) (u p : Nat) (m : MSlot) : (s.setMslot u p m).lastPoll = s.lastPoll := rfl
@[simp] theorem setMslot_arg (s : State) (u p : Nat) (m : MSlot) : (s.setMslot u p m).arg = s.arg := rfl
@[simp] theorem setMslot_agenda (s : State) (u p : Nat) (m : MSlot) : (s.setMslot u p m).agenda = s.agenda := rfl
@[simp] theorem setMslot_mem (s : State) (u p : Nat) (m : MSlot) : (s.setMslot u p m).mem = s.mem := rfl
@[simp] theorem setMslot_tags (s : State) (u p : Nat) (m : MSlot) : (s.setMslot u p m).tags = s.tags := rfl
@[simp] theorem setMslot_poison (s : State) (u p : Nat) (m : MSlot) : (s.setMslot u p m).poison = s.poison := rfl
@[simp] theorem setMslot_groups (s : State) (u p : Nat) (m : MSlot) : (s.setMslot u p m).groups = s.groups := rfl
@[simp] theorem setMslot_blocks (s : State) (u p : Nat) (m : MSlot) : (s.setMslot u p m).blocks = s.blocks := rfl
@[simp] theorem setMslot_accesses (s : State) (u p : Nat) (m : MSlot) : (s.setMslot u p m).accesses = s.accesses := rfl
@[simp] theorem setMslot_copies (s : State) (u p : Nat) (m : MSlot) : (s.setMslot u p m).copies = s.copies := rfl
@[simp] theorem setMslot_contexts (s : State) (u p : Nat) (m : MSlot) : (s.setMslot u p m).contexts = s.contexts := rfl
@[simp] theorem setMslot_rings (s : State) (u p : Nat) (m : MSlot) : (s.setMslot u p m).rings = s.rings := rfl
@[simp] theorem setMslot_queues (s : State) (u p : Nat) (m : MSlot) : (s.setMslot u p m).queues = s.queues := rfl
@[simp] theorem setMslot_launches (s : State) (u p : Nat) (m : MSlot) : (s.setMslot u p m).launches = s.launches := rfl
@[simp] theorem setMslot_pendingLaunches (s : State) (u p : Nat) (m : MSlot) : (s.setMslot u p m).pendingLaunches = s.pendingLaunches := rfl
@[simp] theorem setMslot_ready (s : State) (u p : Nat) (m : MSlot) : (s.setMslot u p m).ready = s.ready := rfl
@[simp] theorem setMslot_bindings (s : State) (u p : Nat) (m : MSlot) : (s.setMslot u p m).bindings = s.bindings := rfl
@[simp] theorem setMslot_frames (s : State) (u p : Nat) (m : MSlot) : (s.setMslot u p m).frames = s.frames := rfl
@[simp] theorem setMslot_moves (s : State) (u p : Nat) (m : MSlot) : (s.setMslot u p m).moves = s.moves := rfl
@[simp] theorem setMslot_lines (s : State) (u p : Nat) (m : MSlot) : (s.setMslot u p m).lines = s.lines := rfl
@[simp] theorem setMslot_portCache (s : State) (u p : Nat) (m : MSlot) : (s.setMslot u p m).portCache = s.portCache := rfl
@[simp] theorem setMslot_codePast (s : State) (u p : Nat) (m : MSlot) : (s.setMslot u p m).codePast = s.codePast := rfl
@[simp] theorem setMslot_codeInv (s : State) (u p : Nat) (m : MSlot) : (s.setMslot u p m).codeInv = s.codeInv := rfl
@[simp] theorem setMslot_llcHost (s : State) (u p : Nat) (m : MSlot) : (s.setMslot u p m).llcHost = s.llcHost := rfl
@[simp] theorem setMslot_sentPackets (s : State) (u p : Nat) (m : MSlot) : (s.setMslot u p m).sentPackets = s.sentPackets := rfl
@[simp] theorem setMslot_held (s : State) (u p : Nat) (m : MSlot) : (s.setMslot u p m).held = s.held := rfl
@[simp] theorem setMslot_dirty (s : State) (u p : Nat) (m : MSlot) : (s.setMslot u p m).dirty = s.dirty := rfl
@[simp] theorem setMslot_outstanding (s : State) (u p : Nat) (m : MSlot) : (s.setMslot u p m).outstanding = s.outstanding := rfl
@[simp] theorem setMslot_hub (s : State) (u p : Nat) (m : MSlot) : (s.setMslot u p m).hub = s.hub := rfl
@[simp] theorem setMslot_boot (s : State) (u p : Nat) (m : MSlot) : (s.setMslot u p m).boot = s.boot := rfl

/-! ### `setBlock` -/

@[simp] theorem setBlock_count (s : State) (b : Nat) (x : Block) : (s.setBlock b x).count = s.count := rfl
@[simp] theorem setBlock_nextId (s : State) (b : Nat) (x : Block) : (s.setBlock b x).nextId = s.nextId := rfl
@[simp] theorem setBlock_time (s : State) (b : Nat) (x : Block) : (s.setBlock b x).time = s.time := rfl
@[simp] theorem setBlock_cur (s : State) (b : Nat) (x : Block) : (s.setBlock b x).cur = s.cur := rfl
@[simp] theorem setBlock_lastPoll (s : State) (b : Nat) (x : Block) : (s.setBlock b x).lastPoll = s.lastPoll := rfl
@[simp] theorem setBlock_arg (s : State) (b : Nat) (x : Block) : (s.setBlock b x).arg = s.arg := rfl
@[simp] theorem setBlock_agenda (s : State) (b : Nat) (x : Block) : (s.setBlock b x).agenda = s.agenda := rfl
@[simp] theorem setBlock_mem (s : State) (b : Nat) (x : Block) : (s.setBlock b x).mem = s.mem := rfl
@[simp] theorem setBlock_tags (s : State) (b : Nat) (x : Block) : (s.setBlock b x).tags = s.tags := rfl
@[simp] theorem setBlock_poison (s : State) (b : Nat) (x : Block) : (s.setBlock b x).poison = s.poison := rfl
@[simp] theorem setBlock_cores (s : State) (b : Nat) (x : Block) : (s.setBlock b x).cores = s.cores := rfl
@[simp] theorem setBlock_groups (s : State) (b : Nat) (x : Block) : (s.setBlock b x).groups = s.groups := rfl
@[simp] theorem setBlock_accesses (s : State) (b : Nat) (x : Block) : (s.setBlock b x).accesses = s.accesses := rfl
@[simp] theorem setBlock_copies (s : State) (b : Nat) (x : Block) : (s.setBlock b x).copies = s.copies := rfl
@[simp] theorem setBlock_contexts (s : State) (b : Nat) (x : Block) : (s.setBlock b x).contexts = s.contexts := rfl
@[simp] theorem setBlock_rings (s : State) (b : Nat) (x : Block) : (s.setBlock b x).rings = s.rings := rfl
@[simp] theorem setBlock_queues (s : State) (b : Nat) (x : Block) : (s.setBlock b x).queues = s.queues := rfl
@[simp] theorem setBlock_launches (s : State) (b : Nat) (x : Block) : (s.setBlock b x).launches = s.launches := rfl
@[simp] theorem setBlock_pendingLaunches (s : State) (b : Nat) (x : Block) : (s.setBlock b x).pendingLaunches = s.pendingLaunches := rfl
@[simp] theorem setBlock_ready (s : State) (b : Nat) (x : Block) : (s.setBlock b x).ready = s.ready := rfl
@[simp] theorem setBlock_bindings (s : State) (b : Nat) (x : Block) : (s.setBlock b x).bindings = s.bindings := rfl
@[simp] theorem setBlock_frames (s : State) (b : Nat) (x : Block) : (s.setBlock b x).frames = s.frames := rfl
@[simp] theorem setBlock_moves (s : State) (b : Nat) (x : Block) : (s.setBlock b x).moves = s.moves := rfl
@[simp] theorem setBlock_lines (s : State) (b : Nat) (x : Block) : (s.setBlock b x).lines = s.lines := rfl
@[simp] theorem setBlock_portCache (s : State) (b : Nat) (x : Block) : (s.setBlock b x).portCache = s.portCache := rfl
@[simp] theorem setBlock_codePast (s : State) (b : Nat) (x : Block) : (s.setBlock b x).codePast = s.codePast := rfl
@[simp] theorem setBlock_codeInv (s : State) (b : Nat) (x : Block) : (s.setBlock b x).codeInv = s.codeInv := rfl
@[simp] theorem setBlock_llcHost (s : State) (b : Nat) (x : Block) : (s.setBlock b x).llcHost = s.llcHost := rfl
@[simp] theorem setBlock_sentPackets (s : State) (b : Nat) (x : Block) : (s.setBlock b x).sentPackets = s.sentPackets := rfl
@[simp] theorem setBlock_held (s : State) (b : Nat) (x : Block) : (s.setBlock b x).held = s.held := rfl
@[simp] theorem setBlock_dirty (s : State) (b : Nat) (x : Block) : (s.setBlock b x).dirty = s.dirty := rfl
@[simp] theorem setBlock_outstanding (s : State) (b : Nat) (x : Block) : (s.setBlock b x).outstanding = s.outstanding := rfl
@[simp] theorem setBlock_hub (s : State) (b : Nat) (x : Block) : (s.setBlock b x).hub = s.hub := rfl
@[simp] theorem setBlock_boot (s : State) (b : Nat) (x : Block) : (s.setBlock b x).boot = s.boot := rfl

/-! ### `setRing` -/

@[simp] theorem setRing_count (s : State) (b r : Nat) (x : Ring) : (s.setRing b r x).count = s.count := rfl
@[simp] theorem setRing_nextId (s : State) (b r : Nat) (x : Ring) : (s.setRing b r x).nextId = s.nextId := rfl
@[simp] theorem setRing_time (s : State) (b r : Nat) (x : Ring) : (s.setRing b r x).time = s.time := rfl
@[simp] theorem setRing_cur (s : State) (b r : Nat) (x : Ring) : (s.setRing b r x).cur = s.cur := rfl
@[simp] theorem setRing_lastPoll (s : State) (b r : Nat) (x : Ring) : (s.setRing b r x).lastPoll = s.lastPoll := rfl
@[simp] theorem setRing_arg (s : State) (b r : Nat) (x : Ring) : (s.setRing b r x).arg = s.arg := rfl
@[simp] theorem setRing_agenda (s : State) (b r : Nat) (x : Ring) : (s.setRing b r x).agenda = s.agenda := rfl
@[simp] theorem setRing_mem (s : State) (b r : Nat) (x : Ring) : (s.setRing b r x).mem = s.mem := rfl
@[simp] theorem setRing_tags (s : State) (b r : Nat) (x : Ring) : (s.setRing b r x).tags = s.tags := rfl
@[simp] theorem setRing_poison (s : State) (b r : Nat) (x : Ring) : (s.setRing b r x).poison = s.poison := rfl
@[simp] theorem setRing_cores (s : State) (b r : Nat) (x : Ring) : (s.setRing b r x).cores = s.cores := rfl
@[simp] theorem setRing_groups (s : State) (b r : Nat) (x : Ring) : (s.setRing b r x).groups = s.groups := rfl
@[simp] theorem setRing_accesses (s : State) (b r : Nat) (x : Ring) : (s.setRing b r x).accesses = s.accesses := rfl
@[simp] theorem setRing_copies (s : State) (b r : Nat) (x : Ring) : (s.setRing b r x).copies = s.copies := rfl
@[simp] theorem setRing_contexts (s : State) (b r : Nat) (x : Ring) : (s.setRing b r x).contexts = s.contexts := rfl
@[simp] theorem setRing_rings (s : State) (b r : Nat) (x : Ring) : (s.setRing b r x).rings = s.rings := rfl
@[simp] theorem setRing_queues (s : State) (b r : Nat) (x : Ring) : (s.setRing b r x).queues = s.queues := rfl
@[simp] theorem setRing_launches (s : State) (b r : Nat) (x : Ring) : (s.setRing b r x).launches = s.launches := rfl
@[simp] theorem setRing_pendingLaunches (s : State) (b r : Nat) (x : Ring) : (s.setRing b r x).pendingLaunches = s.pendingLaunches := rfl
@[simp] theorem setRing_ready (s : State) (b r : Nat) (x : Ring) : (s.setRing b r x).ready = s.ready := rfl
@[simp] theorem setRing_bindings (s : State) (b r : Nat) (x : Ring) : (s.setRing b r x).bindings = s.bindings := rfl
@[simp] theorem setRing_frames (s : State) (b r : Nat) (x : Ring) : (s.setRing b r x).frames = s.frames := rfl
@[simp] theorem setRing_moves (s : State) (b r : Nat) (x : Ring) : (s.setRing b r x).moves = s.moves := rfl
@[simp] theorem setRing_lines (s : State) (b r : Nat) (x : Ring) : (s.setRing b r x).lines = s.lines := rfl
@[simp] theorem setRing_portCache (s : State) (b r : Nat) (x : Ring) : (s.setRing b r x).portCache = s.portCache := rfl
@[simp] theorem setRing_codePast (s : State) (b r : Nat) (x : Ring) : (s.setRing b r x).codePast = s.codePast := rfl
@[simp] theorem setRing_codeInv (s : State) (b r : Nat) (x : Ring) : (s.setRing b r x).codeInv = s.codeInv := rfl
@[simp] theorem setRing_llcHost (s : State) (b r : Nat) (x : Ring) : (s.setRing b r x).llcHost = s.llcHost := rfl
@[simp] theorem setRing_sentPackets (s : State) (b r : Nat) (x : Ring) : (s.setRing b r x).sentPackets = s.sentPackets := rfl
@[simp] theorem setRing_held (s : State) (b r : Nat) (x : Ring) : (s.setRing b r x).held = s.held := rfl
@[simp] theorem setRing_dirty (s : State) (b r : Nat) (x : Ring) : (s.setRing b r x).dirty = s.dirty := rfl
@[simp] theorem setRing_outstanding (s : State) (b r : Nat) (x : Ring) : (s.setRing b r x).outstanding = s.outstanding := rfl
@[simp] theorem setRing_hub (s : State) (b r : Nat) (x : Ring) : (s.setRing b r x).hub = s.hub := rfl
@[simp] theorem setRing_boot (s : State) (b r : Nat) (x : Ring) : (s.setRing b r x).boot = s.boot := rfl

/-! ### `setContext` -/

@[simp] theorem setContext_count (s : State) (c : Nat) (x : Context) : (s.setContext c x).count = s.count := rfl
@[simp] theorem setContext_nextId (s : State) (c : Nat) (x : Context) : (s.setContext c x).nextId = s.nextId := rfl
@[simp] theorem setContext_time (s : State) (c : Nat) (x : Context) : (s.setContext c x).time = s.time := rfl
@[simp] theorem setContext_cur (s : State) (c : Nat) (x : Context) : (s.setContext c x).cur = s.cur := rfl
@[simp] theorem setContext_lastPoll (s : State) (c : Nat) (x : Context) : (s.setContext c x).lastPoll = s.lastPoll := rfl
@[simp] theorem setContext_arg (s : State) (c : Nat) (x : Context) : (s.setContext c x).arg = s.arg := rfl
@[simp] theorem setContext_agenda (s : State) (c : Nat) (x : Context) : (s.setContext c x).agenda = s.agenda := rfl
@[simp] theorem setContext_mem (s : State) (c : Nat) (x : Context) : (s.setContext c x).mem = s.mem := rfl
@[simp] theorem setContext_tags (s : State) (c : Nat) (x : Context) : (s.setContext c x).tags = s.tags := rfl
@[simp] theorem setContext_poison (s : State) (c : Nat) (x : Context) : (s.setContext c x).poison = s.poison := rfl
@[simp] theorem setContext_cores (s : State) (c : Nat) (x : Context) : (s.setContext c x).cores = s.cores := rfl
@[simp] theorem setContext_groups (s : State) (c : Nat) (x : Context) : (s.setContext c x).groups = s.groups := rfl
@[simp] theorem setContext_blocks (s : State) (c : Nat) (x : Context) : (s.setContext c x).blocks = s.blocks := rfl
@[simp] theorem setContext_accesses (s : State) (c : Nat) (x : Context) : (s.setContext c x).accesses = s.accesses := rfl
@[simp] theorem setContext_copies (s : State) (c : Nat) (x : Context) : (s.setContext c x).copies = s.copies := rfl
@[simp] theorem setContext_rings (s : State) (c : Nat) (x : Context) : (s.setContext c x).rings = s.rings := rfl
@[simp] theorem setContext_queues (s : State) (c : Nat) (x : Context) : (s.setContext c x).queues = s.queues := rfl
@[simp] theorem setContext_launches (s : State) (c : Nat) (x : Context) : (s.setContext c x).launches = s.launches := rfl
@[simp] theorem setContext_pendingLaunches (s : State) (c : Nat) (x : Context) : (s.setContext c x).pendingLaunches = s.pendingLaunches := rfl
@[simp] theorem setContext_ready (s : State) (c : Nat) (x : Context) : (s.setContext c x).ready = s.ready := rfl
@[simp] theorem setContext_bindings (s : State) (c : Nat) (x : Context) : (s.setContext c x).bindings = s.bindings := rfl
@[simp] theorem setContext_frames (s : State) (c : Nat) (x : Context) : (s.setContext c x).frames = s.frames := rfl
@[simp] theorem setContext_moves (s : State) (c : Nat) (x : Context) : (s.setContext c x).moves = s.moves := rfl
@[simp] theorem setContext_lines (s : State) (c : Nat) (x : Context) : (s.setContext c x).lines = s.lines := rfl
@[simp] theorem setContext_portCache (s : State) (c : Nat) (x : Context) : (s.setContext c x).portCache = s.portCache := rfl
@[simp] theorem setContext_codePast (s : State) (c : Nat) (x : Context) : (s.setContext c x).codePast = s.codePast := rfl
@[simp] theorem setContext_codeInv (s : State) (c : Nat) (x : Context) : (s.setContext c x).codeInv = s.codeInv := rfl
@[simp] theorem setContext_llcHost (s : State) (c : Nat) (x : Context) : (s.setContext c x).llcHost = s.llcHost := rfl
@[simp] theorem setContext_sentPackets (s : State) (c : Nat) (x : Context) : (s.setContext c x).sentPackets = s.sentPackets := rfl
@[simp] theorem setContext_held (s : State) (c : Nat) (x : Context) : (s.setContext c x).held = s.held := rfl
@[simp] theorem setContext_dirty (s : State) (c : Nat) (x : Context) : (s.setContext c x).dirty = s.dirty := rfl
@[simp] theorem setContext_outstanding (s : State) (c : Nat) (x : Context) : (s.setContext c x).outstanding = s.outstanding := rfl
@[simp] theorem setContext_hub (s : State) (c : Nat) (x : Context) : (s.setContext c x).hub = s.hub := rfl
@[simp] theorem setContext_boot (s : State) (c : Nat) (x : Context) : (s.setContext c x).boot = s.boot := rfl

/-! ### `setLaunch` -/

@[simp] theorem setLaunch_count (s : State) (n : Nat) (l : Launch) : (s.setLaunch n l).count = s.count := rfl
@[simp] theorem setLaunch_nextId (s : State) (n : Nat) (l : Launch) : (s.setLaunch n l).nextId = s.nextId := rfl
@[simp] theorem setLaunch_time (s : State) (n : Nat) (l : Launch) : (s.setLaunch n l).time = s.time := rfl
@[simp] theorem setLaunch_cur (s : State) (n : Nat) (l : Launch) : (s.setLaunch n l).cur = s.cur := rfl
@[simp] theorem setLaunch_lastPoll (s : State) (n : Nat) (l : Launch) : (s.setLaunch n l).lastPoll = s.lastPoll := rfl
@[simp] theorem setLaunch_arg (s : State) (n : Nat) (l : Launch) : (s.setLaunch n l).arg = s.arg := rfl
@[simp] theorem setLaunch_agenda (s : State) (n : Nat) (l : Launch) : (s.setLaunch n l).agenda = s.agenda := rfl
@[simp] theorem setLaunch_mem (s : State) (n : Nat) (l : Launch) : (s.setLaunch n l).mem = s.mem := rfl
@[simp] theorem setLaunch_tags (s : State) (n : Nat) (l : Launch) : (s.setLaunch n l).tags = s.tags := rfl
@[simp] theorem setLaunch_poison (s : State) (n : Nat) (l : Launch) : (s.setLaunch n l).poison = s.poison := rfl
@[simp] theorem setLaunch_cores (s : State) (n : Nat) (l : Launch) : (s.setLaunch n l).cores = s.cores := rfl
@[simp] theorem setLaunch_groups (s : State) (n : Nat) (l : Launch) : (s.setLaunch n l).groups = s.groups := rfl
@[simp] theorem setLaunch_blocks (s : State) (n : Nat) (l : Launch) : (s.setLaunch n l).blocks = s.blocks := rfl
@[simp] theorem setLaunch_accesses (s : State) (n : Nat) (l : Launch) : (s.setLaunch n l).accesses = s.accesses := rfl
@[simp] theorem setLaunch_copies (s : State) (n : Nat) (l : Launch) : (s.setLaunch n l).copies = s.copies := rfl
@[simp] theorem setLaunch_contexts (s : State) (n : Nat) (l : Launch) : (s.setLaunch n l).contexts = s.contexts := rfl
@[simp] theorem setLaunch_rings (s : State) (n : Nat) (l : Launch) : (s.setLaunch n l).rings = s.rings := rfl
@[simp] theorem setLaunch_queues (s : State) (n : Nat) (l : Launch) : (s.setLaunch n l).queues = s.queues := rfl
@[simp] theorem setLaunch_pendingLaunches (s : State) (n : Nat) (l : Launch) : (s.setLaunch n l).pendingLaunches = s.pendingLaunches := rfl
@[simp] theorem setLaunch_ready (s : State) (n : Nat) (l : Launch) : (s.setLaunch n l).ready = s.ready := rfl
@[simp] theorem setLaunch_bindings (s : State) (n : Nat) (l : Launch) : (s.setLaunch n l).bindings = s.bindings := rfl
@[simp] theorem setLaunch_frames (s : State) (n : Nat) (l : Launch) : (s.setLaunch n l).frames = s.frames := rfl
@[simp] theorem setLaunch_moves (s : State) (n : Nat) (l : Launch) : (s.setLaunch n l).moves = s.moves := rfl
@[simp] theorem setLaunch_lines (s : State) (n : Nat) (l : Launch) : (s.setLaunch n l).lines = s.lines := rfl
@[simp] theorem setLaunch_portCache (s : State) (n : Nat) (l : Launch) : (s.setLaunch n l).portCache = s.portCache := rfl
@[simp] theorem setLaunch_codePast (s : State) (n : Nat) (l : Launch) : (s.setLaunch n l).codePast = s.codePast := rfl
@[simp] theorem setLaunch_codeInv (s : State) (n : Nat) (l : Launch) : (s.setLaunch n l).codeInv = s.codeInv := rfl
@[simp] theorem setLaunch_llcHost (s : State) (n : Nat) (l : Launch) : (s.setLaunch n l).llcHost = s.llcHost := rfl
@[simp] theorem setLaunch_sentPackets (s : State) (n : Nat) (l : Launch) : (s.setLaunch n l).sentPackets = s.sentPackets := rfl
@[simp] theorem setLaunch_held (s : State) (n : Nat) (l : Launch) : (s.setLaunch n l).held = s.held := rfl
@[simp] theorem setLaunch_dirty (s : State) (n : Nat) (l : Launch) : (s.setLaunch n l).dirty = s.dirty := rfl
@[simp] theorem setLaunch_outstanding (s : State) (n : Nat) (l : Launch) : (s.setLaunch n l).outstanding = s.outstanding := rfl
@[simp] theorem setLaunch_hub (s : State) (n : Nat) (l : Launch) : (s.setLaunch n l).hub = s.hub := rfl
@[simp] theorem setLaunch_boot (s : State) (n : Nat) (l : Launch) : (s.setLaunch n l).boot = s.boot := rfl

/-! ### `setQueue` -/

@[simp] theorem setQueue_count (s : State) (q : Nat) (x : Queue) : (s.setQueue q x).count = s.count := rfl
@[simp] theorem setQueue_nextId (s : State) (q : Nat) (x : Queue) : (s.setQueue q x).nextId = s.nextId := rfl
@[simp] theorem setQueue_time (s : State) (q : Nat) (x : Queue) : (s.setQueue q x).time = s.time := rfl
@[simp] theorem setQueue_cur (s : State) (q : Nat) (x : Queue) : (s.setQueue q x).cur = s.cur := rfl
@[simp] theorem setQueue_lastPoll (s : State) (q : Nat) (x : Queue) : (s.setQueue q x).lastPoll = s.lastPoll := rfl
@[simp] theorem setQueue_arg (s : State) (q : Nat) (x : Queue) : (s.setQueue q x).arg = s.arg := rfl
@[simp] theorem setQueue_agenda (s : State) (q : Nat) (x : Queue) : (s.setQueue q x).agenda = s.agenda := rfl
@[simp] theorem setQueue_mem (s : State) (q : Nat) (x : Queue) : (s.setQueue q x).mem = s.mem := rfl
@[simp] theorem setQueue_tags (s : State) (q : Nat) (x : Queue) : (s.setQueue q x).tags = s.tags := rfl
@[simp] theorem setQueue_poison (s : State) (q : Nat) (x : Queue) : (s.setQueue q x).poison = s.poison := rfl
@[simp] theorem setQueue_cores (s : State) (q : Nat) (x : Queue) : (s.setQueue q x).cores = s.cores := rfl
@[simp] theorem setQueue_groups (s : State) (q : Nat) (x : Queue) : (s.setQueue q x).groups = s.groups := rfl
@[simp] theorem setQueue_blocks (s : State) (q : Nat) (x : Queue) : (s.setQueue q x).blocks = s.blocks := rfl
@[simp] theorem setQueue_accesses (s : State) (q : Nat) (x : Queue) : (s.setQueue q x).accesses = s.accesses := rfl
@[simp] theorem setQueue_copies (s : State) (q : Nat) (x : Queue) : (s.setQueue q x).copies = s.copies := rfl
@[simp] theorem setQueue_contexts (s : State) (q : Nat) (x : Queue) : (s.setQueue q x).contexts = s.contexts := rfl
@[simp] theorem setQueue_rings (s : State) (q : Nat) (x : Queue) : (s.setQueue q x).rings = s.rings := rfl
@[simp] theorem setQueue_launches (s : State) (q : Nat) (x : Queue) : (s.setQueue q x).launches = s.launches := rfl
@[simp] theorem setQueue_pendingLaunches (s : State) (q : Nat) (x : Queue) : (s.setQueue q x).pendingLaunches = s.pendingLaunches := rfl
@[simp] theorem setQueue_ready (s : State) (q : Nat) (x : Queue) : (s.setQueue q x).ready = s.ready := rfl
@[simp] theorem setQueue_bindings (s : State) (q : Nat) (x : Queue) : (s.setQueue q x).bindings = s.bindings := rfl
@[simp] theorem setQueue_frames (s : State) (q : Nat) (x : Queue) : (s.setQueue q x).frames = s.frames := rfl
@[simp] theorem setQueue_moves (s : State) (q : Nat) (x : Queue) : (s.setQueue q x).moves = s.moves := rfl
@[simp] theorem setQueue_lines (s : State) (q : Nat) (x : Queue) : (s.setQueue q x).lines = s.lines := rfl
@[simp] theorem setQueue_portCache (s : State) (q : Nat) (x : Queue) : (s.setQueue q x).portCache = s.portCache := rfl
@[simp] theorem setQueue_codePast (s : State) (q : Nat) (x : Queue) : (s.setQueue q x).codePast = s.codePast := rfl
@[simp] theorem setQueue_codeInv (s : State) (q : Nat) (x : Queue) : (s.setQueue q x).codeInv = s.codeInv := rfl
@[simp] theorem setQueue_llcHost (s : State) (q : Nat) (x : Queue) : (s.setQueue q x).llcHost = s.llcHost := rfl
@[simp] theorem setQueue_sentPackets (s : State) (q : Nat) (x : Queue) : (s.setQueue q x).sentPackets = s.sentPackets := rfl
@[simp] theorem setQueue_held (s : State) (q : Nat) (x : Queue) : (s.setQueue q x).held = s.held := rfl
@[simp] theorem setQueue_dirty (s : State) (q : Nat) (x : Queue) : (s.setQueue q x).dirty = s.dirty := rfl
@[simp] theorem setQueue_outstanding (s : State) (q : Nat) (x : Queue) : (s.setQueue q x).outstanding = s.outstanding := rfl
@[simp] theorem setQueue_hub (s : State) (q : Nat) (x : Queue) : (s.setQueue q x).hub = s.hub := rfl
@[simp] theorem setQueue_boot (s : State) (q : Nat) (x : Queue) : (s.setQueue q x).boot = s.boot := rfl

/-! ### `setAccess` -/

@[simp] theorem setAccess_count (s : State) (a : Access) : (s.setAccess a).count = s.count := rfl
@[simp] theorem setAccess_nextId (s : State) (a : Access) : (s.setAccess a).nextId = s.nextId := rfl
@[simp] theorem setAccess_time (s : State) (a : Access) : (s.setAccess a).time = s.time := rfl
@[simp] theorem setAccess_cur (s : State) (a : Access) : (s.setAccess a).cur = s.cur := rfl
@[simp] theorem setAccess_lastPoll (s : State) (a : Access) : (s.setAccess a).lastPoll = s.lastPoll := rfl
@[simp] theorem setAccess_arg (s : State) (a : Access) : (s.setAccess a).arg = s.arg := rfl
@[simp] theorem setAccess_agenda (s : State) (a : Access) : (s.setAccess a).agenda = s.agenda := rfl
@[simp] theorem setAccess_mem (s : State) (a : Access) : (s.setAccess a).mem = s.mem := rfl
@[simp] theorem setAccess_tags (s : State) (a : Access) : (s.setAccess a).tags = s.tags := rfl
@[simp] theorem setAccess_poison (s : State) (a : Access) : (s.setAccess a).poison = s.poison := rfl
@[simp] theorem setAccess_cores (s : State) (a : Access) : (s.setAccess a).cores = s.cores := rfl
@[simp] theorem setAccess_groups (s : State) (a : Access) : (s.setAccess a).groups = s.groups := rfl
@[simp] theorem setAccess_blocks (s : State) (a : Access) : (s.setAccess a).blocks = s.blocks := rfl
@[simp] theorem setAccess_copies (s : State) (a : Access) : (s.setAccess a).copies = s.copies := rfl
@[simp] theorem setAccess_contexts (s : State) (a : Access) : (s.setAccess a).contexts = s.contexts := rfl
@[simp] theorem setAccess_rings (s : State) (a : Access) : (s.setAccess a).rings = s.rings := rfl
@[simp] theorem setAccess_queues (s : State) (a : Access) : (s.setAccess a).queues = s.queues := rfl
@[simp] theorem setAccess_launches (s : State) (a : Access) : (s.setAccess a).launches = s.launches := rfl
@[simp] theorem setAccess_pendingLaunches (s : State) (a : Access) : (s.setAccess a).pendingLaunches = s.pendingLaunches := rfl
@[simp] theorem setAccess_ready (s : State) (a : Access) : (s.setAccess a).ready = s.ready := rfl
@[simp] theorem setAccess_bindings (s : State) (a : Access) : (s.setAccess a).bindings = s.bindings := rfl
@[simp] theorem setAccess_frames (s : State) (a : Access) : (s.setAccess a).frames = s.frames := rfl
@[simp] theorem setAccess_moves (s : State) (a : Access) : (s.setAccess a).moves = s.moves := rfl
@[simp] theorem setAccess_lines (s : State) (a : Access) : (s.setAccess a).lines = s.lines := rfl
@[simp] theorem setAccess_portCache (s : State) (a : Access) : (s.setAccess a).portCache = s.portCache := rfl
@[simp] theorem setAccess_codePast (s : State) (a : Access) : (s.setAccess a).codePast = s.codePast := rfl
@[simp] theorem setAccess_codeInv (s : State) (a : Access) : (s.setAccess a).codeInv = s.codeInv := rfl
@[simp] theorem setAccess_llcHost (s : State) (a : Access) : (s.setAccess a).llcHost = s.llcHost := rfl
@[simp] theorem setAccess_sentPackets (s : State) (a : Access) : (s.setAccess a).sentPackets = s.sentPackets := rfl
@[simp] theorem setAccess_held (s : State) (a : Access) : (s.setAccess a).held = s.held := rfl
@[simp] theorem setAccess_dirty (s : State) (a : Access) : (s.setAccess a).dirty = s.dirty := rfl
@[simp] theorem setAccess_outstanding (s : State) (a : Access) : (s.setAccess a).outstanding = s.outstanding := rfl
@[simp] theorem setAccess_hub (s : State) (a : Access) : (s.setAccess a).hub = s.hub := rfl
@[simp] theorem setAccess_boot (s : State) (a : Access) : (s.setAccess a).boot = s.boot := rfl

/-! ### `dropAccess` -/

@[simp] theorem dropAccess_count (s : State) (id : Nat) : (s.dropAccess id).count = s.count := rfl
@[simp] theorem dropAccess_nextId (s : State) (id : Nat) : (s.dropAccess id).nextId = s.nextId := rfl
@[simp] theorem dropAccess_time (s : State) (id : Nat) : (s.dropAccess id).time = s.time := rfl
@[simp] theorem dropAccess_cur (s : State) (id : Nat) : (s.dropAccess id).cur = s.cur := rfl
@[simp] theorem dropAccess_lastPoll (s : State) (id : Nat) : (s.dropAccess id).lastPoll = s.lastPoll := rfl
@[simp] theorem dropAccess_arg (s : State) (id : Nat) : (s.dropAccess id).arg = s.arg := rfl
@[simp] theorem dropAccess_agenda (s : State) (id : Nat) : (s.dropAccess id).agenda = s.agenda := rfl
@[simp] theorem dropAccess_mem (s : State) (id : Nat) : (s.dropAccess id).mem = s.mem := rfl
@[simp] theorem dropAccess_tags (s : State) (id : Nat) : (s.dropAccess id).tags = s.tags := rfl
@[simp] theorem dropAccess_poison (s : State) (id : Nat) : (s.dropAccess id).poison = s.poison := rfl
@[simp] theorem dropAccess_cores (s : State) (id : Nat) : (s.dropAccess id).cores = s.cores := rfl
@[simp] theorem dropAccess_groups (s : State) (id : Nat) : (s.dropAccess id).groups = s.groups := rfl
@[simp] theorem dropAccess_blocks (s : State) (id : Nat) : (s.dropAccess id).blocks = s.blocks := rfl
@[simp] theorem dropAccess_copies (s : State) (id : Nat) : (s.dropAccess id).copies = s.copies := rfl
@[simp] theorem dropAccess_contexts (s : State) (id : Nat) : (s.dropAccess id).contexts = s.contexts := rfl
@[simp] theorem dropAccess_rings (s : State) (id : Nat) : (s.dropAccess id).rings = s.rings := rfl
@[simp] theorem dropAccess_queues (s : State) (id : Nat) : (s.dropAccess id).queues = s.queues := rfl
@[simp] theorem dropAccess_launches (s : State) (id : Nat) : (s.dropAccess id).launches = s.launches := rfl
@[simp] theorem dropAccess_pendingLaunches (s : State) (id : Nat) : (s.dropAccess id).pendingLaunches = s.pendingLaunches := rfl
@[simp] theorem dropAccess_ready (s : State) (id : Nat) : (s.dropAccess id).ready = s.ready := rfl
@[simp] theorem dropAccess_bindings (s : State) (id : Nat) : (s.dropAccess id).bindings = s.bindings := rfl
@[simp] theorem dropAccess_frames (s : State) (id : Nat) : (s.dropAccess id).frames = s.frames := rfl
@[simp] theorem dropAccess_moves (s : State) (id : Nat) : (s.dropAccess id).moves = s.moves := rfl
@[simp] theorem dropAccess_lines (s : State) (id : Nat) : (s.dropAccess id).lines = s.lines := rfl
@[simp] theorem dropAccess_portCache (s : State) (id : Nat) : (s.dropAccess id).portCache = s.portCache := rfl
@[simp] theorem dropAccess_codePast (s : State) (id : Nat) : (s.dropAccess id).codePast = s.codePast := rfl
@[simp] theorem dropAccess_codeInv (s : State) (id : Nat) : (s.dropAccess id).codeInv = s.codeInv := rfl
@[simp] theorem dropAccess_llcHost (s : State) (id : Nat) : (s.dropAccess id).llcHost = s.llcHost := rfl
@[simp] theorem dropAccess_sentPackets (s : State) (id : Nat) : (s.dropAccess id).sentPackets = s.sentPackets := rfl
@[simp] theorem dropAccess_held (s : State) (id : Nat) : (s.dropAccess id).held = s.held := rfl
@[simp] theorem dropAccess_dirty (s : State) (id : Nat) : (s.dropAccess id).dirty = s.dirty := rfl
@[simp] theorem dropAccess_outstanding (s : State) (id : Nat) : (s.dropAccess id).outstanding = s.outstanding := rfl
@[simp] theorem dropAccess_hub (s : State) (id : Nat) : (s.dropAccess id).hub = s.hub := rfl
@[simp] theorem dropAccess_boot (s : State) (id : Nat) : (s.dropAccess id).boot = s.boot := rfl

/-! ### `setCopy` -/

@[simp] theorem setCopy_count (s : State) (y : Copy) : (s.setCopy y).count = s.count := rfl
@[simp] theorem setCopy_nextId (s : State) (y : Copy) : (s.setCopy y).nextId = s.nextId := rfl
@[simp] theorem setCopy_time (s : State) (y : Copy) : (s.setCopy y).time = s.time := rfl
@[simp] theorem setCopy_cur (s : State) (y : Copy) : (s.setCopy y).cur = s.cur := rfl
@[simp] theorem setCopy_lastPoll (s : State) (y : Copy) : (s.setCopy y).lastPoll = s.lastPoll := rfl
@[simp] theorem setCopy_arg (s : State) (y : Copy) : (s.setCopy y).arg = s.arg := rfl
@[simp] theorem setCopy_agenda (s : State) (y : Copy) : (s.setCopy y).agenda = s.agenda := rfl
@[simp] theorem setCopy_mem (s : State) (y : Copy) : (s.setCopy y).mem = s.mem := rfl
@[simp] theorem setCopy_tags (s : State) (y : Copy) : (s.setCopy y).tags = s.tags := rfl
@[simp] theorem setCopy_poison (s : State) (y : Copy) : (s.setCopy y).poison = s.poison := rfl
@[simp] theorem setCopy_cores (s : State) (y : Copy) : (s.setCopy y).cores = s.cores := rfl
@[simp] theorem setCopy_groups (s : State) (y : Copy) : (s.setCopy y).groups = s.groups := rfl
@[simp] theorem setCopy_blocks (s : State) (y : Copy) : (s.setCopy y).blocks = s.blocks := rfl
@[simp] theorem setCopy_accesses (s : State) (y : Copy) : (s.setCopy y).accesses = s.accesses := rfl
@[simp] theorem setCopy_contexts (s : State) (y : Copy) : (s.setCopy y).contexts = s.contexts := rfl
@[simp] theorem setCopy_rings (s : State) (y : Copy) : (s.setCopy y).rings = s.rings := rfl
@[simp] theorem setCopy_queues (s : State) (y : Copy) : (s.setCopy y).queues = s.queues := rfl
@[simp] theorem setCopy_launches (s : State) (y : Copy) : (s.setCopy y).launches = s.launches := rfl
@[simp] theorem setCopy_pendingLaunches (s : State) (y : Copy) : (s.setCopy y).pendingLaunches = s.pendingLaunches := rfl
@[simp] theorem setCopy_ready (s : State) (y : Copy) : (s.setCopy y).ready = s.ready := rfl
@[simp] theorem setCopy_bindings (s : State) (y : Copy) : (s.setCopy y).bindings = s.bindings := rfl
@[simp] theorem setCopy_frames (s : State) (y : Copy) : (s.setCopy y).frames = s.frames := rfl
@[simp] theorem setCopy_moves (s : State) (y : Copy) : (s.setCopy y).moves = s.moves := rfl
@[simp] theorem setCopy_lines (s : State) (y : Copy) : (s.setCopy y).lines = s.lines := rfl
@[simp] theorem setCopy_portCache (s : State) (y : Copy) : (s.setCopy y).portCache = s.portCache := rfl
@[simp] theorem setCopy_codePast (s : State) (y : Copy) : (s.setCopy y).codePast = s.codePast := rfl
@[simp] theorem setCopy_codeInv (s : State) (y : Copy) : (s.setCopy y).codeInv = s.codeInv := rfl
@[simp] theorem setCopy_llcHost (s : State) (y : Copy) : (s.setCopy y).llcHost = s.llcHost := rfl
@[simp] theorem setCopy_sentPackets (s : State) (y : Copy) : (s.setCopy y).sentPackets = s.sentPackets := rfl
@[simp] theorem setCopy_held (s : State) (y : Copy) : (s.setCopy y).held = s.held := rfl
@[simp] theorem setCopy_dirty (s : State) (y : Copy) : (s.setCopy y).dirty = s.dirty := rfl
@[simp] theorem setCopy_outstanding (s : State) (y : Copy) : (s.setCopy y).outstanding = s.outstanding := rfl
@[simp] theorem setCopy_hub (s : State) (y : Copy) : (s.setCopy y).hub = s.hub := rfl
@[simp] theorem setCopy_boot (s : State) (y : Copy) : (s.setCopy y).boot = s.boot := rfl

/-! ### `setPort` -/

@[simp] theorem setPort_count (s : State) (p : Nat) (x : Port) : (s.setPort p x).count = s.count := rfl
@[simp] theorem setPort_nextId (s : State) (p : Nat) (x : Port) : (s.setPort p x).nextId = s.nextId := rfl
@[simp] theorem setPort_time (s : State) (p : Nat) (x : Port) : (s.setPort p x).time = s.time := rfl
@[simp] theorem setPort_cur (s : State) (p : Nat) (x : Port) : (s.setPort p x).cur = s.cur := rfl
@[simp] theorem setPort_lastPoll (s : State) (p : Nat) (x : Port) : (s.setPort p x).lastPoll = s.lastPoll := rfl
@[simp] theorem setPort_arg (s : State) (p : Nat) (x : Port) : (s.setPort p x).arg = s.arg := rfl
@[simp] theorem setPort_agenda (s : State) (p : Nat) (x : Port) : (s.setPort p x).agenda = s.agenda := rfl
@[simp] theorem setPort_mem (s : State) (p : Nat) (x : Port) : (s.setPort p x).mem = s.mem := rfl
@[simp] theorem setPort_tags (s : State) (p : Nat) (x : Port) : (s.setPort p x).tags = s.tags := rfl
@[simp] theorem setPort_poison (s : State) (p : Nat) (x : Port) : (s.setPort p x).poison = s.poison := rfl
@[simp] theorem setPort_cores (s : State) (p : Nat) (x : Port) : (s.setPort p x).cores = s.cores := rfl
@[simp] theorem setPort_groups (s : State) (p : Nat) (x : Port) : (s.setPort p x).groups = s.groups := rfl
@[simp] theorem setPort_blocks (s : State) (p : Nat) (x : Port) : (s.setPort p x).blocks = s.blocks := rfl
@[simp] theorem setPort_accesses (s : State) (p : Nat) (x : Port) : (s.setPort p x).accesses = s.accesses := rfl
@[simp] theorem setPort_copies (s : State) (p : Nat) (x : Port) : (s.setPort p x).copies = s.copies := rfl
@[simp] theorem setPort_contexts (s : State) (p : Nat) (x : Port) : (s.setPort p x).contexts = s.contexts := rfl
@[simp] theorem setPort_rings (s : State) (p : Nat) (x : Port) : (s.setPort p x).rings = s.rings := rfl
@[simp] theorem setPort_queues (s : State) (p : Nat) (x : Port) : (s.setPort p x).queues = s.queues := rfl
@[simp] theorem setPort_launches (s : State) (p : Nat) (x : Port) : (s.setPort p x).launches = s.launches := rfl
@[simp] theorem setPort_pendingLaunches (s : State) (p : Nat) (x : Port) : (s.setPort p x).pendingLaunches = s.pendingLaunches := rfl
@[simp] theorem setPort_ready (s : State) (p : Nat) (x : Port) : (s.setPort p x).ready = s.ready := rfl
@[simp] theorem setPort_bindings (s : State) (p : Nat) (x : Port) : (s.setPort p x).bindings = s.bindings := rfl
@[simp] theorem setPort_frames (s : State) (p : Nat) (x : Port) : (s.setPort p x).frames = s.frames := rfl
@[simp] theorem setPort_moves (s : State) (p : Nat) (x : Port) : (s.setPort p x).moves = s.moves := rfl
@[simp] theorem setPort_lines (s : State) (p : Nat) (x : Port) : (s.setPort p x).lines = s.lines := rfl
@[simp] theorem setPort_portCache (s : State) (p : Nat) (x : Port) : (s.setPort p x).portCache = s.portCache := rfl
@[simp] theorem setPort_codePast (s : State) (p : Nat) (x : Port) : (s.setPort p x).codePast = s.codePast := rfl
@[simp] theorem setPort_codeInv (s : State) (p : Nat) (x : Port) : (s.setPort p x).codeInv = s.codeInv := rfl
@[simp] theorem setPort_llcHost (s : State) (p : Nat) (x : Port) : (s.setPort p x).llcHost = s.llcHost := rfl
@[simp] theorem setPort_sentPackets (s : State) (p : Nat) (x : Port) : (s.setPort p x).sentPackets = s.sentPackets := rfl
@[simp] theorem setPort_held (s : State) (p : Nat) (x : Port) : (s.setPort p x).held = s.held := rfl
@[simp] theorem setPort_dirty (s : State) (p : Nat) (x : Port) : (s.setPort p x).dirty = s.dirty := rfl
@[simp] theorem setPort_outstanding (s : State) (p : Nat) (x : Port) : (s.setPort p x).outstanding = s.outstanding := rfl
@[simp] theorem setPort_boot (s : State) (p : Nat) (x : Port) : (s.setPort p x).boot = s.boot := rfl

/-! ### `setPower` -/

@[simp] theorem setPower_count (s : State) (p : Nat) (x : Power) : (s.setPower p x).count = s.count := rfl
@[simp] theorem setPower_nextId (s : State) (p : Nat) (x : Power) : (s.setPower p x).nextId = s.nextId := rfl
@[simp] theorem setPower_time (s : State) (p : Nat) (x : Power) : (s.setPower p x).time = s.time := rfl
@[simp] theorem setPower_cur (s : State) (p : Nat) (x : Power) : (s.setPower p x).cur = s.cur := rfl
@[simp] theorem setPower_lastPoll (s : State) (p : Nat) (x : Power) : (s.setPower p x).lastPoll = s.lastPoll := rfl
@[simp] theorem setPower_arg (s : State) (p : Nat) (x : Power) : (s.setPower p x).arg = s.arg := rfl
@[simp] theorem setPower_agenda (s : State) (p : Nat) (x : Power) : (s.setPower p x).agenda = s.agenda := rfl
@[simp] theorem setPower_mem (s : State) (p : Nat) (x : Power) : (s.setPower p x).mem = s.mem := rfl
@[simp] theorem setPower_tags (s : State) (p : Nat) (x : Power) : (s.setPower p x).tags = s.tags := rfl
@[simp] theorem setPower_poison (s : State) (p : Nat) (x : Power) : (s.setPower p x).poison = s.poison := rfl
@[simp] theorem setPower_cores (s : State) (p : Nat) (x : Power) : (s.setPower p x).cores = s.cores := rfl
@[simp] theorem setPower_groups (s : State) (p : Nat) (x : Power) : (s.setPower p x).groups = s.groups := rfl
@[simp] theorem setPower_blocks (s : State) (p : Nat) (x : Power) : (s.setPower p x).blocks = s.blocks := rfl
@[simp] theorem setPower_accesses (s : State) (p : Nat) (x : Power) : (s.setPower p x).accesses = s.accesses := rfl
@[simp] theorem setPower_copies (s : State) (p : Nat) (x : Power) : (s.setPower p x).copies = s.copies := rfl
@[simp] theorem setPower_contexts (s : State) (p : Nat) (x : Power) : (s.setPower p x).contexts = s.contexts := rfl
@[simp] theorem setPower_rings (s : State) (p : Nat) (x : Power) : (s.setPower p x).rings = s.rings := rfl
@[simp] theorem setPower_queues (s : State) (p : Nat) (x : Power) : (s.setPower p x).queues = s.queues := rfl
@[simp] theorem setPower_launches (s : State) (p : Nat) (x : Power) : (s.setPower p x).launches = s.launches := rfl
@[simp] theorem setPower_pendingLaunches (s : State) (p : Nat) (x : Power) : (s.setPower p x).pendingLaunches = s.pendingLaunches := rfl
@[simp] theorem setPower_ready (s : State) (p : Nat) (x : Power) : (s.setPower p x).ready = s.ready := rfl
@[simp] theorem setPower_bindings (s : State) (p : Nat) (x : Power) : (s.setPower p x).bindings = s.bindings := rfl
@[simp] theorem setPower_frames (s : State) (p : Nat) (x : Power) : (s.setPower p x).frames = s.frames := rfl
@[simp] theorem setPower_moves (s : State) (p : Nat) (x : Power) : (s.setPower p x).moves = s.moves := rfl
@[simp] theorem setPower_lines (s : State) (p : Nat) (x : Power) : (s.setPower p x).lines = s.lines := rfl
@[simp] theorem setPower_portCache (s : State) (p : Nat) (x : Power) : (s.setPower p x).portCache = s.portCache := rfl
@[simp] theorem setPower_codePast (s : State) (p : Nat) (x : Power) : (s.setPower p x).codePast = s.codePast := rfl
@[simp] theorem setPower_codeInv (s : State) (p : Nat) (x : Power) : (s.setPower p x).codeInv = s.codeInv := rfl
@[simp] theorem setPower_llcHost (s : State) (p : Nat) (x : Power) : (s.setPower p x).llcHost = s.llcHost := rfl
@[simp] theorem setPower_sentPackets (s : State) (p : Nat) (x : Power) : (s.setPower p x).sentPackets = s.sentPackets := rfl
@[simp] theorem setPower_held (s : State) (p : Nat) (x : Power) : (s.setPower p x).held = s.held := rfl
@[simp] theorem setPower_dirty (s : State) (p : Nat) (x : Power) : (s.setPower p x).dirty = s.dirty := rfl
@[simp] theorem setPower_outstanding (s : State) (p : Nat) (x : Power) : (s.setPower p x).outstanding = s.outstanding := rfl
@[simp] theorem setPower_boot (s : State) (p : Nat) (x : Power) : (s.setPower p x).boot = s.boot := rfl

/-! ### `post` -/

@[simp] theorem post_count (s : State) (i : Instr) (arg : EventArg) : (s.post i arg).count = s.count := rfl
@[simp] theorem post_nextId (s : State) (i : Instr) (arg : EventArg) : (s.post i arg).nextId = s.nextId := rfl
@[simp] theorem post_time (s : State) (i : Instr) (arg : EventArg) : (s.post i arg).time = s.time := rfl
@[simp] theorem post_cur (s : State) (i : Instr) (arg : EventArg) : (s.post i arg).cur = s.cur := rfl
@[simp] theorem post_lastPoll (s : State) (i : Instr) (arg : EventArg) : (s.post i arg).lastPoll = s.lastPoll := rfl
@[simp] theorem post_arg (s : State) (i : Instr) (arg : EventArg) : (s.post i arg).arg = s.arg := rfl
@[simp] theorem post_mem (s : State) (i : Instr) (arg : EventArg) : (s.post i arg).mem = s.mem := rfl
@[simp] theorem post_tags (s : State) (i : Instr) (arg : EventArg) : (s.post i arg).tags = s.tags := rfl
@[simp] theorem post_poison (s : State) (i : Instr) (arg : EventArg) : (s.post i arg).poison = s.poison := rfl
@[simp] theorem post_cores (s : State) (i : Instr) (arg : EventArg) : (s.post i arg).cores = s.cores := rfl
@[simp] theorem post_groups (s : State) (i : Instr) (arg : EventArg) : (s.post i arg).groups = s.groups := rfl
@[simp] theorem post_blocks (s : State) (i : Instr) (arg : EventArg) : (s.post i arg).blocks = s.blocks := rfl
@[simp] theorem post_accesses (s : State) (i : Instr) (arg : EventArg) : (s.post i arg).accesses = s.accesses := rfl
@[simp] theorem post_copies (s : State) (i : Instr) (arg : EventArg) : (s.post i arg).copies = s.copies := rfl
@[simp] theorem post_contexts (s : State) (i : Instr) (arg : EventArg) : (s.post i arg).contexts = s.contexts := rfl
@[simp] theorem post_rings (s : State) (i : Instr) (arg : EventArg) : (s.post i arg).rings = s.rings := rfl
@[simp] theorem post_queues (s : State) (i : Instr) (arg : EventArg) : (s.post i arg).queues = s.queues := rfl
@[simp] theorem post_launches (s : State) (i : Instr) (arg : EventArg) : (s.post i arg).launches = s.launches := rfl
@[simp] theorem post_pendingLaunches (s : State) (i : Instr) (arg : EventArg) : (s.post i arg).pendingLaunches = s.pendingLaunches := rfl
@[simp] theorem post_ready (s : State) (i : Instr) (arg : EventArg) : (s.post i arg).ready = s.ready := rfl
@[simp] theorem post_bindings (s : State) (i : Instr) (arg : EventArg) : (s.post i arg).bindings = s.bindings := rfl
@[simp] theorem post_frames (s : State) (i : Instr) (arg : EventArg) : (s.post i arg).frames = s.frames := rfl
@[simp] theorem post_moves (s : State) (i : Instr) (arg : EventArg) : (s.post i arg).moves = s.moves := rfl
@[simp] theorem post_lines (s : State) (i : Instr) (arg : EventArg) : (s.post i arg).lines = s.lines := rfl
@[simp] theorem post_portCache (s : State) (i : Instr) (arg : EventArg) : (s.post i arg).portCache = s.portCache := rfl
@[simp] theorem post_codePast (s : State) (i : Instr) (arg : EventArg) : (s.post i arg).codePast = s.codePast := rfl
@[simp] theorem post_codeInv (s : State) (i : Instr) (arg : EventArg) : (s.post i arg).codeInv = s.codeInv := rfl
@[simp] theorem post_llcHost (s : State) (i : Instr) (arg : EventArg) : (s.post i arg).llcHost = s.llcHost := rfl
@[simp] theorem post_sentPackets (s : State) (i : Instr) (arg : EventArg) : (s.post i arg).sentPackets = s.sentPackets := rfl
@[simp] theorem post_held (s : State) (i : Instr) (arg : EventArg) : (s.post i arg).held = s.held := rfl
@[simp] theorem post_dirty (s : State) (i : Instr) (arg : EventArg) : (s.post i arg).dirty = s.dirty := rfl
@[simp] theorem post_outstanding (s : State) (i : Instr) (arg : EventArg) : (s.post i arg).outstanding = s.outstanding := rfl
@[simp] theorem post_hub (s : State) (i : Instr) (arg : EventArg) : (s.post i arg).hub = s.hub := rfl
@[simp] theorem post_boot (s : State) (i : Instr) (arg : EventArg) : (s.post i arg).boot = s.boot := rfl

/-! ### `again` -/

@[simp] theorem again_count (s : State) (i : Instr) : (s.again i).count = s.count := rfl
@[simp] theorem again_nextId (s : State) (i : Instr) : (s.again i).nextId = s.nextId := rfl
@[simp] theorem again_time (s : State) (i : Instr) : (s.again i).time = s.time := rfl
@[simp] theorem again_cur (s : State) (i : Instr) : (s.again i).cur = s.cur := rfl
@[simp] theorem again_lastPoll (s : State) (i : Instr) : (s.again i).lastPoll = s.lastPoll := rfl
@[simp] theorem again_arg (s : State) (i : Instr) : (s.again i).arg = s.arg := rfl
@[simp] theorem again_mem (s : State) (i : Instr) : (s.again i).mem = s.mem := rfl
@[simp] theorem again_tags (s : State) (i : Instr) : (s.again i).tags = s.tags := rfl
@[simp] theorem again_poison (s : State) (i : Instr) : (s.again i).poison = s.poison := rfl
@[simp] theorem again_cores (s : State) (i : Instr) : (s.again i).cores = s.cores := rfl
@[simp] theorem again_groups (s : State) (i : Instr) : (s.again i).groups = s.groups := rfl
@[simp] theorem again_blocks (s : State) (i : Instr) : (s.again i).blocks = s.blocks := rfl
@[simp] theorem again_accesses (s : State) (i : Instr) : (s.again i).accesses = s.accesses := rfl
@[simp] theorem again_copies (s : State) (i : Instr) : (s.again i).copies = s.copies := rfl
@[simp] theorem again_contexts (s : State) (i : Instr) : (s.again i).contexts = s.contexts := rfl
@[simp] theorem again_rings (s : State) (i : Instr) : (s.again i).rings = s.rings := rfl
@[simp] theorem again_queues (s : State) (i : Instr) : (s.again i).queues = s.queues := rfl
@[simp] theorem again_launches (s : State) (i : Instr) : (s.again i).launches = s.launches := rfl
@[simp] theorem again_pendingLaunches (s : State) (i : Instr) : (s.again i).pendingLaunches = s.pendingLaunches := rfl
@[simp] theorem again_ready (s : State) (i : Instr) : (s.again i).ready = s.ready := rfl
@[simp] theorem again_bindings (s : State) (i : Instr) : (s.again i).bindings = s.bindings := rfl
@[simp] theorem again_frames (s : State) (i : Instr) : (s.again i).frames = s.frames := rfl
@[simp] theorem again_moves (s : State) (i : Instr) : (s.again i).moves = s.moves := rfl
@[simp] theorem again_lines (s : State) (i : Instr) : (s.again i).lines = s.lines := rfl
@[simp] theorem again_portCache (s : State) (i : Instr) : (s.again i).portCache = s.portCache := rfl
@[simp] theorem again_codePast (s : State) (i : Instr) : (s.again i).codePast = s.codePast := rfl
@[simp] theorem again_codeInv (s : State) (i : Instr) : (s.again i).codeInv = s.codeInv := rfl
@[simp] theorem again_llcHost (s : State) (i : Instr) : (s.again i).llcHost = s.llcHost := rfl
@[simp] theorem again_sentPackets (s : State) (i : Instr) : (s.again i).sentPackets = s.sentPackets := rfl
@[simp] theorem again_held (s : State) (i : Instr) : (s.again i).held = s.held := rfl
@[simp] theorem again_dirty (s : State) (i : Instr) : (s.again i).dirty = s.dirty := rfl
@[simp] theorem again_outstanding (s : State) (i : Instr) : (s.again i).outstanding = s.outstanding := rfl
@[simp] theorem again_hub (s : State) (i : Instr) : (s.again i).hub = s.hub := rfl
@[simp] theorem again_boot (s : State) (i : Instr) : (s.again i).boot = s.boot := rfl

/-! ### `write` -/

@[simp] theorem write_count (s : State) (k : Nat) (bs : List Byte) : (s.write k bs).count = s.count := rfl
@[simp] theorem write_nextId (s : State) (k : Nat) (bs : List Byte) : (s.write k bs).nextId = s.nextId := rfl
@[simp] theorem write_time (s : State) (k : Nat) (bs : List Byte) : (s.write k bs).time = s.time := rfl
@[simp] theorem write_cur (s : State) (k : Nat) (bs : List Byte) : (s.write k bs).cur = s.cur := rfl
@[simp] theorem write_lastPoll (s : State) (k : Nat) (bs : List Byte) : (s.write k bs).lastPoll = s.lastPoll := rfl
@[simp] theorem write_arg (s : State) (k : Nat) (bs : List Byte) : (s.write k bs).arg = s.arg := rfl
@[simp] theorem write_agenda (s : State) (k : Nat) (bs : List Byte) : (s.write k bs).agenda = s.agenda := rfl
@[simp] theorem write_cores (s : State) (k : Nat) (bs : List Byte) : (s.write k bs).cores = s.cores := rfl
@[simp] theorem write_groups (s : State) (k : Nat) (bs : List Byte) : (s.write k bs).groups = s.groups := rfl
@[simp] theorem write_blocks (s : State) (k : Nat) (bs : List Byte) : (s.write k bs).blocks = s.blocks := rfl
@[simp] theorem write_accesses (s : State) (k : Nat) (bs : List Byte) : (s.write k bs).accesses = s.accesses := rfl
@[simp] theorem write_copies (s : State) (k : Nat) (bs : List Byte) : (s.write k bs).copies = s.copies := rfl
@[simp] theorem write_contexts (s : State) (k : Nat) (bs : List Byte) : (s.write k bs).contexts = s.contexts := rfl
@[simp] theorem write_rings (s : State) (k : Nat) (bs : List Byte) : (s.write k bs).rings = s.rings := rfl
@[simp] theorem write_queues (s : State) (k : Nat) (bs : List Byte) : (s.write k bs).queues = s.queues := rfl
@[simp] theorem write_launches (s : State) (k : Nat) (bs : List Byte) : (s.write k bs).launches = s.launches := rfl
@[simp] theorem write_pendingLaunches (s : State) (k : Nat) (bs : List Byte) : (s.write k bs).pendingLaunches = s.pendingLaunches := rfl
@[simp] theorem write_ready (s : State) (k : Nat) (bs : List Byte) : (s.write k bs).ready = s.ready := rfl
@[simp] theorem write_bindings (s : State) (k : Nat) (bs : List Byte) : (s.write k bs).bindings = s.bindings := rfl
@[simp] theorem write_frames (s : State) (k : Nat) (bs : List Byte) : (s.write k bs).frames = s.frames := rfl
@[simp] theorem write_moves (s : State) (k : Nat) (bs : List Byte) : (s.write k bs).moves = s.moves := rfl
@[simp] theorem write_portCache (s : State) (k : Nat) (bs : List Byte) : (s.write k bs).portCache = s.portCache := rfl
@[simp] theorem write_codeInv (s : State) (k : Nat) (bs : List Byte) : (s.write k bs).codeInv = s.codeInv := rfl
@[simp] theorem write_llcHost (s : State) (k : Nat) (bs : List Byte) : (s.write k bs).llcHost = s.llcHost := rfl
@[simp] theorem write_sentPackets (s : State) (k : Nat) (bs : List Byte) : (s.write k bs).sentPackets = s.sentPackets := rfl
@[simp] theorem write_held (s : State) (k : Nat) (bs : List Byte) : (s.write k bs).held = s.held := rfl
@[simp] theorem write_dirty (s : State) (k : Nat) (bs : List Byte) : (s.write k bs).dirty = s.dirty := rfl
@[simp] theorem write_outstanding (s : State) (k : Nat) (bs : List Byte) : (s.write k bs).outstanding = s.outstanding := rfl
@[simp] theorem write_hub (s : State) (k : Nat) (bs : List Byte) : (s.write k bs).hub = s.hub := rfl
@[simp] theorem write_boot (s : State) (k : Nat) (bs : List Byte) : (s.write k bs).boot = s.boot := rfl

/-! ### `zero` -/

@[simp] theorem zero_count (s : State) (k n : Nat) : (s.zero k n).count = s.count := rfl
@[simp] theorem zero_nextId (s : State) (k n : Nat) : (s.zero k n).nextId = s.nextId := rfl
@[simp] theorem zero_time (s : State) (k n : Nat) : (s.zero k n).time = s.time := rfl
@[simp] theorem zero_cur (s : State) (k n : Nat) : (s.zero k n).cur = s.cur := rfl
@[simp] theorem zero_lastPoll (s : State) (k n : Nat) : (s.zero k n).lastPoll = s.lastPoll := rfl
@[simp] theorem zero_arg (s : State) (k n : Nat) : (s.zero k n).arg = s.arg := rfl
@[simp] theorem zero_agenda (s : State) (k n : Nat) : (s.zero k n).agenda = s.agenda := rfl
@[simp] theorem zero_cores (s : State) (k n : Nat) : (s.zero k n).cores = s.cores := rfl
@[simp] theorem zero_groups (s : State) (k n : Nat) : (s.zero k n).groups = s.groups := rfl
@[simp] theorem zero_blocks (s : State) (k n : Nat) : (s.zero k n).blocks = s.blocks := rfl
@[simp] theorem zero_accesses (s : State) (k n : Nat) : (s.zero k n).accesses = s.accesses := rfl
@[simp] theorem zero_copies (s : State) (k n : Nat) : (s.zero k n).copies = s.copies := rfl
@[simp] theorem zero_contexts (s : State) (k n : Nat) : (s.zero k n).contexts = s.contexts := rfl
@[simp] theorem zero_rings (s : State) (k n : Nat) : (s.zero k n).rings = s.rings := rfl
@[simp] theorem zero_queues (s : State) (k n : Nat) : (s.zero k n).queues = s.queues := rfl
@[simp] theorem zero_launches (s : State) (k n : Nat) : (s.zero k n).launches = s.launches := rfl
@[simp] theorem zero_pendingLaunches (s : State) (k n : Nat) : (s.zero k n).pendingLaunches = s.pendingLaunches := rfl
@[simp] theorem zero_ready (s : State) (k n : Nat) : (s.zero k n).ready = s.ready := rfl
@[simp] theorem zero_bindings (s : State) (k n : Nat) : (s.zero k n).bindings = s.bindings := rfl
@[simp] theorem zero_frames (s : State) (k n : Nat) : (s.zero k n).frames = s.frames := rfl
@[simp] theorem zero_moves (s : State) (k n : Nat) : (s.zero k n).moves = s.moves := rfl
@[simp] theorem zero_lines (s : State) (k n : Nat) : (s.zero k n).lines = s.lines := rfl
@[simp] theorem zero_portCache (s : State) (k n : Nat) : (s.zero k n).portCache = s.portCache := rfl
@[simp] theorem zero_codePast (s : State) (k n : Nat) : (s.zero k n).codePast = s.codePast := rfl
@[simp] theorem zero_codeInv (s : State) (k n : Nat) : (s.zero k n).codeInv = s.codeInv := rfl
@[simp] theorem zero_llcHost (s : State) (k n : Nat) : (s.zero k n).llcHost = s.llcHost := rfl
@[simp] theorem zero_sentPackets (s : State) (k n : Nat) : (s.zero k n).sentPackets = s.sentPackets := rfl
@[simp] theorem zero_held (s : State) (k n : Nat) : (s.zero k n).held = s.held := rfl
@[simp] theorem zero_dirty (s : State) (k n : Nat) : (s.zero k n).dirty = s.dirty := rfl
@[simp] theorem zero_outstanding (s : State) (k n : Nat) : (s.zero k n).outstanding = s.outstanding := rfl
@[simp] theorem zero_hub (s : State) (k n : Nat) : (s.zero k n).hub = s.hub := rfl
@[simp] theorem zero_boot (s : State) (k n : Nat) : (s.zero k n).boot = s.boot := rfl

/-! ### `lookAll` -/

@[simp] theorem lookAll_count (s : State) : (s.lookAll).count = s.count := rfl
@[simp] theorem lookAll_nextId (s : State) : (s.lookAll).nextId = s.nextId := rfl
@[simp] theorem lookAll_time (s : State) : (s.lookAll).time = s.time := rfl
@[simp] theorem lookAll_cur (s : State) : (s.lookAll).cur = s.cur := rfl
@[simp] theorem lookAll_lastPoll (s : State) : (s.lookAll).lastPoll = s.lastPoll := rfl
@[simp] theorem lookAll_arg (s : State) : (s.lookAll).arg = s.arg := rfl
@[simp] theorem lookAll_agenda (s : State) : (s.lookAll).agenda = s.agenda := rfl
@[simp] theorem lookAll_mem (s : State) : (s.lookAll).mem = s.mem := rfl
@[simp] theorem lookAll_tags (s : State) : (s.lookAll).tags = s.tags := rfl
@[simp] theorem lookAll_poison (s : State) : (s.lookAll).poison = s.poison := rfl
@[simp] theorem lookAll_cores (s : State) : (s.lookAll).cores = s.cores := rfl
@[simp] theorem lookAll_blocks (s : State) : (s.lookAll).blocks = s.blocks := rfl
@[simp] theorem lookAll_accesses (s : State) : (s.lookAll).accesses = s.accesses := rfl
@[simp] theorem lookAll_copies (s : State) : (s.lookAll).copies = s.copies := rfl
@[simp] theorem lookAll_contexts (s : State) : (s.lookAll).contexts = s.contexts := rfl
@[simp] theorem lookAll_rings (s : State) : (s.lookAll).rings = s.rings := rfl
@[simp] theorem lookAll_queues (s : State) : (s.lookAll).queues = s.queues := rfl
@[simp] theorem lookAll_launches (s : State) : (s.lookAll).launches = s.launches := rfl
@[simp] theorem lookAll_pendingLaunches (s : State) : (s.lookAll).pendingLaunches = s.pendingLaunches := rfl
@[simp] theorem lookAll_ready (s : State) : (s.lookAll).ready = s.ready := rfl
@[simp] theorem lookAll_bindings (s : State) : (s.lookAll).bindings = s.bindings := rfl
@[simp] theorem lookAll_frames (s : State) : (s.lookAll).frames = s.frames := rfl
@[simp] theorem lookAll_moves (s : State) : (s.lookAll).moves = s.moves := rfl
@[simp] theorem lookAll_lines (s : State) : (s.lookAll).lines = s.lines := rfl
@[simp] theorem lookAll_portCache (s : State) : (s.lookAll).portCache = s.portCache := rfl
@[simp] theorem lookAll_codePast (s : State) : (s.lookAll).codePast = s.codePast := rfl
@[simp] theorem lookAll_codeInv (s : State) : (s.lookAll).codeInv = s.codeInv := rfl
@[simp] theorem lookAll_llcHost (s : State) : (s.lookAll).llcHost = s.llcHost := rfl
@[simp] theorem lookAll_sentPackets (s : State) : (s.lookAll).sentPackets = s.sentPackets := rfl
@[simp] theorem lookAll_held (s : State) : (s.lookAll).held = s.held := rfl
@[simp] theorem lookAll_dirty (s : State) : (s.lookAll).dirty = s.dirty := rfl
@[simp] theorem lookAll_outstanding (s : State) : (s.lookAll).outstanding = s.outstanding := rfl
@[simp] theorem lookAll_hub (s : State) : (s.lookAll).hub = s.hub := rfl
@[simp] theorem lookAll_boot (s : State) : (s.lookAll).boot = s.boot := rfl

/-! ### `fresh` and `postOnce` -/

@[simp] theorem fresh_count (s : State) : s.fresh.2.count = s.count := rfl
@[simp] theorem fresh_time (s : State) : s.fresh.2.time = s.time := rfl
@[simp] theorem fresh_cur (s : State) : s.fresh.2.cur = s.cur := rfl
@[simp] theorem fresh_lastPoll (s : State) : s.fresh.2.lastPoll = s.lastPoll := rfl
@[simp] theorem fresh_arg (s : State) : s.fresh.2.arg = s.arg := rfl
@[simp] theorem fresh_agenda (s : State) : s.fresh.2.agenda = s.agenda := rfl
@[simp] theorem fresh_mem (s : State) : s.fresh.2.mem = s.mem := rfl
@[simp] theorem fresh_tags (s : State) : s.fresh.2.tags = s.tags := rfl
@[simp] theorem fresh_poison (s : State) : s.fresh.2.poison = s.poison := rfl
@[simp] theorem fresh_cores (s : State) : s.fresh.2.cores = s.cores := rfl
@[simp] theorem fresh_groups (s : State) : s.fresh.2.groups = s.groups := rfl
@[simp] theorem fresh_blocks (s : State) : s.fresh.2.blocks = s.blocks := rfl
@[simp] theorem fresh_accesses (s : State) : s.fresh.2.accesses = s.accesses := rfl
@[simp] theorem fresh_copies (s : State) : s.fresh.2.copies = s.copies := rfl
@[simp] theorem fresh_contexts (s : State) : s.fresh.2.contexts = s.contexts := rfl
@[simp] theorem fresh_rings (s : State) : s.fresh.2.rings = s.rings := rfl
@[simp] theorem fresh_queues (s : State) : s.fresh.2.queues = s.queues := rfl
@[simp] theorem fresh_launches (s : State) : s.fresh.2.launches = s.launches := rfl
@[simp] theorem fresh_pendingLaunches (s : State) : s.fresh.2.pendingLaunches = s.pendingLaunches := rfl
@[simp] theorem fresh_ready (s : State) : s.fresh.2.ready = s.ready := rfl
@[simp] theorem fresh_bindings (s : State) : s.fresh.2.bindings = s.bindings := rfl
@[simp] theorem fresh_frames (s : State) : s.fresh.2.frames = s.frames := rfl
@[simp] theorem fresh_moves (s : State) : s.fresh.2.moves = s.moves := rfl
@[simp] theorem fresh_lines (s : State) : s.fresh.2.lines = s.lines := rfl
@[simp] theorem fresh_portCache (s : State) : s.fresh.2.portCache = s.portCache := rfl
@[simp] theorem fresh_codePast (s : State) : s.fresh.2.codePast = s.codePast := rfl
@[simp] theorem fresh_codeInv (s : State) : s.fresh.2.codeInv = s.codeInv := rfl
@[simp] theorem fresh_llcHost (s : State) : s.fresh.2.llcHost = s.llcHost := rfl
@[simp] theorem fresh_sentPackets (s : State) : s.fresh.2.sentPackets = s.sentPackets := rfl
@[simp] theorem fresh_held (s : State) : s.fresh.2.held = s.held := rfl
@[simp] theorem fresh_dirty (s : State) : s.fresh.2.dirty = s.dirty := rfl
@[simp] theorem fresh_outstanding (s : State) : s.fresh.2.outstanding = s.outstanding := rfl
@[simp] theorem fresh_hub (s : State) : s.fresh.2.hub = s.hub := rfl
@[simp] theorem fresh_boot (s : State) : s.fresh.2.boot = s.boot := rfl
@[simp] theorem postOnce_count (s : State) (i : Instr) (arg : EventArg) : (s.postOnce i arg).count = s.count := by unfold State.postOnce; split <;> rfl
@[simp] theorem postOnce_nextId (s : State) (i : Instr) (arg : EventArg) : (s.postOnce i arg).nextId = s.nextId := by unfold State.postOnce; split <;> rfl
@[simp] theorem postOnce_time (s : State) (i : Instr) (arg : EventArg) : (s.postOnce i arg).time = s.time := by unfold State.postOnce; split <;> rfl
@[simp] theorem postOnce_cur (s : State) (i : Instr) (arg : EventArg) : (s.postOnce i arg).cur = s.cur := by unfold State.postOnce; split <;> rfl
@[simp] theorem postOnce_lastPoll (s : State) (i : Instr) (arg : EventArg) : (s.postOnce i arg).lastPoll = s.lastPoll := by unfold State.postOnce; split <;> rfl
@[simp] theorem postOnce_arg (s : State) (i : Instr) (arg : EventArg) : (s.postOnce i arg).arg = s.arg := by unfold State.postOnce; split <;> rfl
@[simp] theorem postOnce_mem (s : State) (i : Instr) (arg : EventArg) : (s.postOnce i arg).mem = s.mem := by unfold State.postOnce; split <;> rfl
@[simp] theorem postOnce_tags (s : State) (i : Instr) (arg : EventArg) : (s.postOnce i arg).tags = s.tags := by unfold State.postOnce; split <;> rfl
@[simp] theorem postOnce_poison (s : State) (i : Instr) (arg : EventArg) : (s.postOnce i arg).poison = s.poison := by unfold State.postOnce; split <;> rfl
@[simp] theorem postOnce_cores (s : State) (i : Instr) (arg : EventArg) : (s.postOnce i arg).cores = s.cores := by unfold State.postOnce; split <;> rfl
@[simp] theorem postOnce_groups (s : State) (i : Instr) (arg : EventArg) : (s.postOnce i arg).groups = s.groups := by unfold State.postOnce; split <;> rfl
@[simp] theorem postOnce_blocks (s : State) (i : Instr) (arg : EventArg) : (s.postOnce i arg).blocks = s.blocks := by unfold State.postOnce; split <;> rfl
@[simp] theorem postOnce_accesses (s : State) (i : Instr) (arg : EventArg) : (s.postOnce i arg).accesses = s.accesses := by unfold State.postOnce; split <;> rfl
@[simp] theorem postOnce_copies (s : State) (i : Instr) (arg : EventArg) : (s.postOnce i arg).copies = s.copies := by unfold State.postOnce; split <;> rfl
@[simp] theorem postOnce_contexts (s : State) (i : Instr) (arg : EventArg) : (s.postOnce i arg).contexts = s.contexts := by unfold State.postOnce; split <;> rfl
@[simp] theorem postOnce_rings (s : State) (i : Instr) (arg : EventArg) : (s.postOnce i arg).rings = s.rings := by unfold State.postOnce; split <;> rfl
@[simp] theorem postOnce_queues (s : State) (i : Instr) (arg : EventArg) : (s.postOnce i arg).queues = s.queues := by unfold State.postOnce; split <;> rfl
@[simp] theorem postOnce_launches (s : State) (i : Instr) (arg : EventArg) : (s.postOnce i arg).launches = s.launches := by unfold State.postOnce; split <;> rfl
@[simp] theorem postOnce_pendingLaunches (s : State) (i : Instr) (arg : EventArg) : (s.postOnce i arg).pendingLaunches = s.pendingLaunches := by unfold State.postOnce; split <;> rfl
@[simp] theorem postOnce_ready (s : State) (i : Instr) (arg : EventArg) : (s.postOnce i arg).ready = s.ready := by unfold State.postOnce; split <;> rfl
@[simp] theorem postOnce_bindings (s : State) (i : Instr) (arg : EventArg) : (s.postOnce i arg).bindings = s.bindings := by unfold State.postOnce; split <;> rfl
@[simp] theorem postOnce_frames (s : State) (i : Instr) (arg : EventArg) : (s.postOnce i arg).frames = s.frames := by unfold State.postOnce; split <;> rfl
@[simp] theorem postOnce_moves (s : State) (i : Instr) (arg : EventArg) : (s.postOnce i arg).moves = s.moves := by unfold State.postOnce; split <;> rfl
@[simp] theorem postOnce_lines (s : State) (i : Instr) (arg : EventArg) : (s.postOnce i arg).lines = s.lines := by unfold State.postOnce; split <;> rfl
@[simp] theorem postOnce_portCache (s : State) (i : Instr) (arg : EventArg) : (s.postOnce i arg).portCache = s.portCache := by unfold State.postOnce; split <;> rfl
@[simp] theorem postOnce_codePast (s : State) (i : Instr) (arg : EventArg) : (s.postOnce i arg).codePast = s.codePast := by unfold State.postOnce; split <;> rfl
@[simp] theorem postOnce_codeInv (s : State) (i : Instr) (arg : EventArg) : (s.postOnce i arg).codeInv = s.codeInv := by unfold State.postOnce; split <;> rfl
@[simp] theorem postOnce_llcHost (s : State) (i : Instr) (arg : EventArg) : (s.postOnce i arg).llcHost = s.llcHost := by unfold State.postOnce; split <;> rfl
@[simp] theorem postOnce_sentPackets (s : State) (i : Instr) (arg : EventArg) : (s.postOnce i arg).sentPackets = s.sentPackets := by unfold State.postOnce; split <;> rfl
@[simp] theorem postOnce_held (s : State) (i : Instr) (arg : EventArg) : (s.postOnce i arg).held = s.held := by unfold State.postOnce; split <;> rfl
@[simp] theorem postOnce_dirty (s : State) (i : Instr) (arg : EventArg) : (s.postOnce i arg).dirty = s.dirty := by unfold State.postOnce; split <;> rfl
@[simp] theorem postOnce_outstanding (s : State) (i : Instr) (arg : EventArg) : (s.postOnce i arg).outstanding = s.outstanding := by unfold State.postOnce; split <;> rfl
@[simp] theorem postOnce_hub (s : State) (i : Instr) (arg : EventArg) : (s.postOnce i arg).hub = s.hub := by unfold State.postOnce; split <;> rfl
@[simp] theorem postOnce_boot (s : State) (i : Instr) (arg : EventArg) : (s.postOnce i arg).boot = s.boot := by unfold State.postOnce; split <;> rfl

/-! ### What an update gives -/

/-- Reading one after updating one. -/
theorem group_setGroup (s : State) (k j : Nat) (x : Group) : (s.setGroup k x).group j = if k = j then x else s.group j := tget_tput _ s.groups k j x
@[simp] theorem group_setGroup_self (s : State) (k : Nat) (x : Group) : (s.setGroup k x).group k = x := by simp [group_setGroup]
/-- Reading one after updating one. -/
theorem core_setCore (s : State) (k j : Nat) (x : Core) : (s.setCore k x).core j = if k = j then x else s.core j := tget_tput _ s.cores k j x
@[simp] theorem core_setCore_self (s : State) (k : Nat) (x : Core) : (s.setCore k x).core k = x := by simp [core_setCore]
/-- Reading one after updating one. -/
theorem block_setBlock (s : State) (k j : Nat) (x : Block) : (s.setBlock k x).block j = if k = j then x else s.block j := tget_tput _ s.blocks k j x
@[simp] theorem block_setBlock_self (s : State) (k : Nat) (x : Block) : (s.setBlock k x).block k = x := by simp [block_setBlock]
/-- Reading one after updating one. -/
theorem context_setContext (s : State) (k j : Nat) (x : Context) : (s.setContext k x).context j = if k = j then x else s.context j := tget_tput _ s.contexts k j x
@[simp] theorem context_setContext_self (s : State) (k : Nat) (x : Context) : (s.setContext k x).context k = x := by simp [context_setContext]
/-- Reading one after updating one. -/
theorem launchOf_setLaunch (s : State) (k j : Nat) (x : Launch) : (s.setLaunch k x).launchOf j = if k = j then x else s.launchOf j := tget_tput _ s.launches k j x
@[simp] theorem launchOf_setLaunch_self (s : State) (k : Nat) (x : Launch) : (s.setLaunch k x).launchOf k = x := by simp [launchOf_setLaunch]
/-- Reading one after updating one. -/
theorem queue_setQueue (s : State) (k j : Nat) (x : Queue) : (s.setQueue k x).queue j = if k = j then x else s.queue j := tget_tput _ s.queues k j x
@[simp] theorem queue_setQueue_self (s : State) (k : Nat) (x : Queue) : (s.setQueue k x).queue k = x := by simp [queue_setQueue]
theorem sub_setGroup_sub (g : Group) (e j : Nat) (x : Sub) : (g.setSub e x).sub j = if e = j then x else g.sub j := tget_tput _ g.subs e j x
/-- Reading a sub-group after updating one. -/
theorem sub_setSub (s : State) (k e : Nat) (x : Sub) (j f : Nat) :
    (s.setSub k e x).sub j f = if k = j ∧ e = f then x else s.sub j f := by
  unfold State.setSub State.sub
  rw [group_setGroup]
  by_cases hj : k = j
  · subst hj
    simp [sub_setGroup_sub]
  · simp [hj]
@[simp] theorem sub_setSub_self (s : State) (k e : Nat) (x : Sub) : (s.setSub k e x).sub k e = x := by simp [sub_setSub]
theorem slot_setSlot (x : Sub) (k j : Nat) (y : Slot) : (x.setSlot k y).slot j = if k = j then y else x.slot j := tget_tput _ x.slots k j y
@[simp] theorem fresh_nextId (s : State) : s.fresh.2.nextId = s.nextId + 1 := rfl
@[simp] theorem fresh_name (s : State) : s.fresh.1 = s.nextId := rfl
@[simp] theorem post_agenda (s : State) (i : Instr) (arg : EventArg) : (s.post i arg).agenda = s.agenda ++ [{ step := i, arg := arg }] := rfl

end Sys2Proof.Laws
end

