-- ==== Sys2Proof/Tests/Slice0.lean ====
section
/-! SUPPORT. Tests of the model: words written out from the spec's encodings, refusals of ill-formed terms, single steps on small states, and for each
statement a state and operands that meet its hypotheses. -/

namespace Sys2Proof.Tests

set_option Elab.async false

open Sys2Proof.Machine

/-! ### Small states -/

/-- No guard, no idle count (R101). -/
def c0 : Common := { gneg := 0, guard := 0, idle := 0 }
def tf (dst src0 src1 src2 : BitVec 8) (mod : BitVec 9) : TForm :=
  { c := c0, mod := mod, lu2 := 0, src2 := src2, lu1 := 0, src1 := src1, lu0 := 0, src0 := src0, dst := dst }
def if_ (dst src0 : BitVec 8) (imm : BitVec 16) (mod : BitVec 11) : IForm := { c := c0, mod := mod, imm := imm, lu0 := 0, src0 := src0, dst := dst }
def bf (off : BitVec 29) (cond : BitVec 8) : BForm := { c := c0, off := off, bmod := 0, luc := 0, cond := cond }
def mf_ (d off : BitVec 8) (h : BitVec 5) (sb : BitVec 3) (mod : BitVec 6) : MForm :=
  { c := c0, mod := mod, lud := 0, sb := sb, imm := 0, luo := 0, off := off, h := h, d := d }
def xf (xa xb xc xd : BitVec 8) (sb : BitVec 3) (mod : BitVec 7) : XForm :=
  { c := c0, mod := mod, sb := sb, xd := xd, luc := 0, xc := xc, lub := 0, xb := xb, xa := xa }

/-- A core of unit `u` with one block of one group, which stands at word `i` of its clause; `g`, `b` and `c` adjust its group, block and core. -/
def bench (u : Nat) (i : Instr) (x : Sub → Sub := id) (g : Group → Group := id) (b : Block → Block := id) (c : Core → Core := id) : State :=
  let k := groupKey u 0
  let sub : Sub := { st := 1, lanes := if kindOfUnit u = .control then 1 else 0xFFFFFFFF, headerMet := true
                     clause := some ⟨0, 0x5A, [(encode i).getD 0], [0, 0, 0]⟩ }
  let grp : Group := { present := true, block := blockKey u 0, own := (List.range 16).map (fun j => (j, j)), subs := [(0, x sub)] }
  let core : Core := { regBank := (List.range 64).map (fun j => (j, Bank.on)), spmBank := (List.range 512).map (fun j => (j, Bank.on)) }
  { State.reset with
    agenda := [], cur := .group k 0, groups := [(k, g grp)], cores := [(u, c core)]
    blocks := [(blockKey u 0, b { present := true, groups := [k], gran := List.range 16 })] }
/-- Word `i` is ready in `s`, with an active lane where it needs one, and `pre` holds of the state it takes effect in. -/
def meets (s : State) (i : Instr) (gd : Guarding) (pre : Cx → State → Bool := fun _ _ => true) : Bool :=
  match s.readyFor i gd with
  | some (cx, t) => (cx.act != 0 || gd == Guarding.always) && pre cx t
  | none => false
/-- On a lattice core. -/
def ready (i : Instr) : Bool :=
  match guardingOf i with
  | some gd => meets (bench 4096 i) i gd
  | none => false
/-- On a control core. -/
def readyC (i : Instr) : Bool :=
  match guardingOf i with
  | some gd => meets (bench 12288 i) i gd
  | none => false
/-! ### Words written out from R101-R106, R112-R116 and R296: every field at a value of its own -/

def cF : Common := { gneg := 1, guard := 5, idle := 2 }
def tF : TForm := { c := cF, mod := 0x0A5, lu2 := 1, src2 := 14, lu1 := 0, src1 := 13, lu0 := 1, src0 := 12, dst := 11 }
def tG : TForm := { tF with mod := 0x0A7 }
def iF : IForm := { c := cF, mod := 0x3C5, imm := 0xBEEF, lu0 := 1, src0 := 12, dst := 11 }
def bF : BForm := { c := cF, off := -3, bmod := 0x2A, luc := 1, cond := 21 }
def mF : MForm := { c := cF, mod := 0x2D, lud := 0, sb := 5, imm := 0xABC, luo := 1, off := 13, h := 7, d := 11 }
def xF : XForm := { c := cF, mod := 0x2C, sb := 5, xd := 14, luc := 0, xc := 13, lub := 1, xb := 12, xa := 11 }
def xG : XForm := { xF with mod := 0x2D }
def decodes (p : W64 × Instr) : Bool := decodeWord p.1 == some p.2 && encode p.2 == some p.1 && p.2.wf
theorem test_decode_scalar : (
    [(0x52C381B0C0B85401, .sadd (.t true tF)), (0x52C381B0C0B85403, .ssub (.t true tF)), (0x52C381B0C0B85405, .smul (.t true tF)),
      (0x52C381B0C0B85407, .smulh (.t true tF)), (0x52C381B0C0B85409, .sdiv (.t true tF)), (0x52C381B0C0B8540B, .srem (.t true tF)),
      (0x52C381B0C0B8540D, .sand (.t true tF)), (0x52C381B0C0B8540F, .sor (.t true tF)), (0x52C381B0C0B85411, .sxor (.t true tF)),
      (0x52C381B0C0B85413, .sandn (.t true tF)), (0x52C381B0C0B85415, .sshl (.t true tF)), (0x52C381B0C0B85417, .sshr (.t true tF)),
      (0x52C381B0C0B85419, .ssra (.t true tF)), (0x52C381B0C0B8541B, .smin (.t true tF)), (0x52C381B0C0B8541D, .smax (.t true tF)),
      (0x52C381B0C0B8541F, .sclz (.t true tF)), (0x52C381B0C0B85421, .spop (.t true tF)), (0x52C381B0C0B85423, .sbfx (.t true tF)),
      (0x52C381B0C0B85425, .sbfi (.t true tF)), (0x52C381B0C0B85427, .ssel (.t true tF)), (0x52C381B0C0B85429, .scmp (.t true tF)),
      (0x52C381B0C0B8542B, .smov (.t true tF)), (0x78B7DDF0C0B8542C, .sadd (.i false iF)), (0x78B7DDF0C0B8542E, .smul (.i false iF)),
      (0x78B7DDF0C0B8543B, .scmp (.i false iF)), (0x78B7DDF0C0B8543D, .ssub (.i true iF)), (0x78B7DDF0C0B85444, .sbfx (.i false iF)),
      (0x78B7DDF0C0B85446, .smovi .i32 iF), (0x78B7DDF0C0B85448, .smoviHi iF)] : List (W64 × Instr)).all decodes = true := by
  decide +kernel
theorem test_decode_control : (
    [(0xFFFFFFED5158544A, .br bF), (0xFFFFFFED5158544E, .bnz true bF), (0xFFFFFFED5158544B, .bz false bF), (0xFFFFFFED5158544F, .bl bF),
      (0x52C381B0C0B85450, .jr tF), (0x52C381B0C0B85451, .jl tF), (0xFFFFFFED51585452, .split bF), (0x52C381B0C0B85453, .fuse tF),
      (0x52C381B0C0B85454, .exit tF), (0x52C381B0C0B85455, .yield tF), (0x52C381B0C0B85456, .nop tF), (0x78B7DDF0C0B85457, .swait iF),
      (0x78B7DDF0C0B85458, .trap iF), (0x78B7DDF0C0B85459, .brk iF)] : List (W64 × Instr)).all decodes = true := by
  decide +kernel
theorem test_decode_predicate : (
    [(0x52C381B0C0B8545A, .pand tF), (0x52C381B0C0B8545B, .por tF), (0x52C381B0C0B8545C, .pxor tF), (0x52C381B0C0B8545D, .pandn tF),
      (0x52C381B0C0B8545E, .pnot tF), (0x52C381B0C0B8545F, .pmov (.t tF)), (0x52C381B0C0B85460, .pfroms tF), (0x52C381B0C0B85461, .ptos tF),
      (0x52C381B0C0B85462, .pany tF), (0x52C381B0C0B85463, .pall tF), (0x52C381B0C0B85464, .ppop tF), (0x78B7DDF0C0B85465, .pmov (.i iF)),
      (0x78B7DDF0C0B85466, .sget false iF), (0x78B7DDF0C0B85469, .sset true iF)] : List (W64 × Instr)).all decodes = true := by
  decide +kernel
theorem test_decode_resource : (
    [(0x594381B0C0B8546A, .acqRegW xF), (0x594381B0C0B8546B, .acqRegT xF), (0x594381B0C0B8546C, .acqSpmW xF), (0x594381B0C0B8546D, .acqSpmT xF),
      (0x594381B0C0B8546E, .acqMslW xF), (0x594381B0C0B8546F, .acqMslT xF), (0x594381B0C0B85470, .relReg xF), (0x594381B0C0B85471, .relSpm xF),
      (0x594381B0C0B85472, .relMsl xF), (0x594381B0C0B85473, .rwake xF), (0x594381B0C0B85474, .rsleep xF), (0x594381B0C0B85475, .spdrop xF),
      (0x594381B0C0B85476, .launch xF), (0x594381B0C0B85477, .lquery xF), (0x594381B0C0B85478, .objmapEnt xF), (0x594381B0C0B85479, .objmapExt xF),
      (0x594381B0C0B8547A, .objmapMv xF), (0x594381B0C0B8547B, .objinv xF), (0x594381B0C0B8547C, .objinvCtx xF), (0x594381B0C0B8547D, .semmap xF),
      (0x594381B0C0B8547E, .semmapQ xF), (0x594381B0C0B8547F, .hmint xF)] : List (W64 × Instr)).all decodes = true := by
  decide +kernel
theorem test_decode_vector : (
    [(0x52C381B0C0B85481, .vadd true tF), (0x52C381B0C0B85483, .vsub true tF), (0x52C381B0C0B85485, .vmul true tF),
      (0x52C381B0C0B85487, .vmulh true tF), (0x52C381B0C0B85489, .vmad true tF), (0x52C381B0C0B8548B, .vand true tF),
      (0x52C381B0C0B8548D, .vor true tF), (0x52C381B0C0B8548F, .vxor true tF), (0x52C381B0C0B85491, .vandn true tF),
      (0x52C381B0C0B85493, .vshl true tF), (0x52C381B0C0B85495, .vshr true tF), (0x52C381B0C0B85497, .vsra true tF),
      (0x52C381B0C0B85499, .vmin true tF), (0x52C381B0C0B8549B, .vmax true tF), (0x52C381B0C0B8549D, .vabs true tF),
      (0x52C381B0C0B8549F, .vclz true tF), (0x52C381B0C0B854A1, .vpop true tF), (0x52C381B0C0B854A3, .vbfx true tF),
      (0x52C381B0C0B854A5, .vbfi true tF), (0x52C381B0C0B854A7, .vsel true tF), (0x52C381B0C0B854A9, .vmov true tF),
      (0x52C381B0C0B854AA, .vmovs false tF), (0x53C381B0C0B854AB, .vmovsGet true tG), (0x52C381B0C0B854AD, .vcmp true tF)] : List (W64 × Instr)).all decodes = true := by
  decide +kernel
theorem test_decode_float : (
    [(0x52C381B0C0B854AE, .vfadd .f32 tF), (0x52C381B0C0B854B3, .vfsub .f64 tF), (0x52C381B0C0B854B8, .vfmul .f16x2 tF),
      (0x52C381B0C0B854BD, .vfma .bf16x2 tF), (0x52C381B0C0B854BE, .vfmin .f32 tF), (0x52C381B0C0B854C3, .vfmax .f64 tF),
      (0x52C381B0C0B854C8, .vfrnd .f16x2 tF), (0x52C381B0C0B854CD, .vfclass .bf16x2 tF), (0x52C381B0C0B854CE, .vfcmp .f32 tF),
      (0x52C381B0C0B854D3, .vrcp .f16x2 tF), (0x52C381B0C0B854D6, .vrsqrt true tF), (0x52C381B0C0B854D9, .vsqrt .f64 tF),
      (0x52C381B0C0B854DA, .vexp2 false tF), (0x52C381B0C0B854DC, .vlog2 false tF), (0x52C381B0C0B854DF, .vsin true tF),
      (0x52C381B0C0B854E0, .vcos false tF), (0x52C381B0C0B854E3, .vfdot2 true tF), (0x52C381B0C0B854F7, .vcvt .i8 true tF),
      (0x52C381B0C0B85507, .vpack .e3m2 tF), (0x52C381B0C0B8550D, .vunpack .b16 tF), (0x52C381B0C0B85512, .vmxq .e2m1 tF),
      (0x52C381B0C0B85519, .vmxd .i8 tF), (0x52C381B0C0B8551A, .vperm false tF), (0x52C381B0C0B8551D, .vxshf true tF),
      (0x52C381B0C0B8551E, .vrot false tF), (0x52C381B0C0B85521, .vbcl true tF), (0x52C381B0C0B85527, .vred .maxI32 tF),
      (0x52C381B0C0B85537, .vscan .minF32 tF), (0x52C381B0C0B8553D, .vcompress true tF), (0x52C381B0C0B8553E, .vexpand false tF)] : List (W64 × Instr)).all decodes = true := by
  decide +kernel
theorem test_decode_memory : (
    [(0xB56AF21A70B85540, .ldG .b8 mF), (0xB56AF21A70B85549, .stG .b128 mF), (0xB56AF21A70B8554B, .ldwG .b64 mF),
      (0xB56AF21A70B8554D, .stwG .b32 mF), (0xB56AF21A70B85551, .ldGs .b16 mF), (0xB56AF21A70B85557, .stGs .b64 mF),
      (0xB56AF21A70B8555A, .ldL .b32 mF), (0xB56AF21A70B8555D, .stL .b8 mF), (0xB56AF21A70B85563, .ldC true mF), (0xB56AF21A70B85564, .stC false mF),
      (0xB56AF21A70B85567, .ldP .b32 mF), (0xB56AF21A70B85569, .stP .b16 mF), (0xB56AF21A70B8556D, .ldAcq true mF),
      (0xB56AF21A70B8556E, .stRel false mF), (0x594381B0C0B85570, .fence xF), (0x594381B0C0B85571, .qsync xF), (0x594381B0C0B85572, .cpGo xF),
      (0xB56AF21A70B85573, .cclean mF), (0xB56AF21A70B85574, .ccleanAll mF), (0xB56AF21A70B85575, .cinval mF), (0xB56AF21A70B85576, .cinvalAll mF),
      (0xB56AF21A70B85577, .pf mF), (0xB56AF21A70B85578, .pfRo mF), (0x52C381B0C0B85579, .hderive tF), (0x52C381B0C0B8557A, .hrestrict tF),
      (0x52C381B0C0B8557B, .hget tF), (0xB56AF21A70B8557C, .hld mF), (0xB56AF21A70B8557D, .hst mF), (0x52C381B0C0B8557E, .hmov tF),
      (0x52C381B0C0B8557F, .hvalid tF)] : List (W64 × Instr)).all decodes = true := by
  decide +kernel
theorem test_decode_matrix : (
    [(0x594381B0C0B85581, .mset true xF), (0x78B7DDF0C0B85582, .msetI iF), (0x594381B0C0B85583, .mget false xF), (0x594381B0C0B85585, .mcall xF),
      (0x594381B0C0B85586, .mcallR xF), (0x594381B0C0B85587, .mstat xF), (0x594381B0C0B85588, .mstatR xF), (0x594381B0C0B8558A, .rset .geom xF),
      (0x594381B0C0B85592, .rget .all xF), (0x594381B0C0B85593, .rpushW xF), (0x594381B0C0B85594, .rpushT xF), (0x594381B0C0B85595, .rpopW xF),
      (0x594381B0C0B85596, .rpopT xF), (0x594381B0C0B85597, .mspillL xF), (0x594381B0C0B85598, .mspillG xF), (0x594381B0C0B85599, .mfillL xF),
      (0x594381B0C0B8559A, .mfillG xF), (0x594381B0C0B8559B, .mclr xF), (0x594381B0C0B8559C, .mclrAll xF), (0x594381B0C0B8559D, .mloadRt xF),
      (0x594381B0C0B8559E, .mloadCode xF), (0x594381B0C0B8559F, .mloadQ xF)] : List (W64 × Instr)).all decodes = true := by
  decide +kernel
theorem test_decode_barrier : (
    [(0x594381B0C0B855A0, .binit xF), (0x594381B0C0B855A1, .bjoin xF), (0x594381B0C0B855A2, .bleave xF), (0x594381B0C0B855A3, .barr xF),
      (0x594381B0C0B855A4, .bdrop xF), (0x594381B0C0B855A5, .bexp xF), (0x594381B0C0B855A6, .bwait xF), (0x594381B0C0B855A7, .bpoll xF),
      (0xB56AF21A70B855A8, .atomG mF), (0xB56AF21A70B855A9, .atomL mF), (0xB56AF21A70B855AA, .redG mF), (0xB56AF21A70B855AB, .redL mF),
      (0x594381B0C0B855AC, .semSig (.x xF)), (0x594381B0C0B855AD, .semPoll xF), (0x594381B0C0B855AE, .semBind xF),
      (0x78B7DDF0C0B855AF, .semSig (.i iF))] : List (W64 × Instr)).all decodes = true := by
  decide +kernel
theorem test_decode_system : (
    [(0x594381B0C0B855B0, .fst xF), (0x594381B0C0B855B1, .fld xF), (0x594381B0C0B855B3, .ffadd true xF), (0x594381B0C0B855B4, .fred xF),
      (0x594381B0C0B855B5, .ffence xF), (0x594381B0C0B855B6, .ffenceF xF), (0x594381B0C0B855B7, .fsig xF), (0x594381B0C0B855B8, .tret xF),
      (0x594381B0C0B855B9, .tretN xF), (0x594381B0C0B855BA, .tesc xF), (0x594381B0C0B855BB, .cpreempt xF), (0x594381B0C0B855BC, .cresume xF),
      (0x594381B0C0B855BD, .cterm xF), (0x594381B0C0B855BE, .cquery xF), (0x594381B0C0B855BF, .cqueryU xF), (0x5B4381B0C0B855BC, .cresumeEsc xG),
      (0x5B4381B0C0B855BD, .ctermL xG), (0x52C381B0C0B855C0, .hintPf tF), (0x52C381B0C0B855C1, .hintBank tF), (0x52C381B0C0B855DF, .hintX 29 tF)] : List (W64 × Instr)).all decodes = true := by
  decide +kernel
theorem test_decode_mu : (
    [(0x02AAAAAAAAAAAAAA, .muFeed 0x2AAAAAAAAAAAAAA), (0x06AAAAAAAAAAAAAA, .muStep 0x2AAAAAAAAAAAAAA), (0x0AAAAAAAAAAAAAAA, .muAcc
      0x2AAAAAAAAAAAAAA), (0x0EAAAAAAAAAAAAAA, .muSparse 0x2AAAAAAAAAAAAAA), (0x12AAAAAAAAAAAAAA, .muScale 0x2AAAAAAAAAAAAAA),
      (0x16AAAAAAAAAAAAAA, .muDrain 0x2AAAAAAAAAAAAAA), (0x1AAAAAAAAAAAAAAA, .muClear 0x2AAAAAAAAAAAAAA), (0x1EAAAAAAAAAAAAAA, .muPop
      0x2AAAAAAAAAAAAAA), (0x22AAAAAAAAAAAAAA, .muLoop 0x2AAAAAAAAAAAAAA), (0x26AAAAAAAAAAAAAA, .muSig 0x2AAAAAAAAAAAAAA), (0x2AAAAAAAAAAAAAAA,
      .muYield 0x2AAAAAAAAAAAAAA), (0x2EAAAAAAAAAAAAAA, .muEnd 0x2AAAAAAAAAAAAAA)] : List (W64 × Instr)).all
    (fun p => decodeMu p.1 == some p.2 && encode p.2 == some p.1 && p.2.wf) = true := by
  decide +kernel
/-- Words that the spec writes out, with the instructions it says they are (04, 07, 08, 10-13, 15-20: the encodings shown there). -/
theorem test_spec_words : (
    [(0x000246908080002C, .sadd (.i false { if_ 8 8 0x1234 0 with lu0 := 1 })), (0x0000121090900002, .ssub (.t false { tf 9 9 0x90 0 0 with lu0 := 1 })),
      (0x00000FF070700000, .sadd (.t false { tf 7 7 0x7F 0 0 with lu0 := 1 })), (0x000000000070004C, .bnz false (bf 0 7)),
      (0x0004A221014002BA, .vfma .f32 { tf 20 16 17 18 0 with c := { c0 with idle := 1 }, lu1 := 1 }), (0x028000E0605000AE, .vfadd .f32 (tf 5 6 7 0 5)),
      (0x81000000908000EC, .vcvt .e4m3 false (tf 8 9 0 0 0x102)), (0x0005027090C000BA, .vfma .f32 { tf 12 9 19 20 0 with lu0 := 1 }),
      (0x03FE800820D03146, .stG .b16 { mf_ 13 0x40 2 7 0 with c := { c0 with guard := 3 }, imm := 0xFA0, lud := 1, off := 4 }),
      (0x000000900160044B, .bz false { bf 18 22 with c := { c0 with idle := 2 } }), (0x0040808040C0014C, .ldwG .b128 { mf_ 12 0x40 4 1 0 with imm := 32 }),
      (0x01C1000800800161, .stL .b128 { mf_ 8 4 0 7 0 with imm := 64 }), (0x0000110000000182, .msetI (if_ 0 0 0x88 0)), (0x01C80000C4000185, .mcall (xf 0x40 12 0 0x20 7 0)),
      (0x01C10007F4000185, .mcall (xf 0x40 0x7F 0 4 7 0)), (0x01C1400404000185, .mcall (xf 0x40 0x40 0 5 7 0))] : List (W64 × Instr)).all decodes = true := by
  decide +kernel
theorem test_spec_words_2 : (
    [(0x27C0000000000170, .fence (xf 0 0 0 0 7 0x13)), (0x39C0000000000170, .fence (xf 0 0 0 0 7 0x1C)), (0x01C0000000000171, .qsync (xf 0 0 0 0 7 0)),
      (0x02400800804001A3, .barr (xf 4 8 0x40 0 1 1)), (0x03C00080800001A6, .bwait (xf 0 8 4 0 7 1)), (0x03C01205000001A3, .barr (xf 0 0x50 0x90 0 7 1)),
      (0x01C00824000001A0, .binit (xf 0 0x40 0x41 0 7 0)), (0x01C00900640001AE, .semBind (xf 0x40 6 0x48 0 7 0)), (0x01C01200800001A5, .bexp (xf 0 8 0x90 0 7 0)),
      (0x03C00800800001A6, .bwait (xf 0 8 0x40 0 7 1)), (0x07C00804000001A6, .bwait (xf 0 0x40 0x40 0 7 3)), (0x00430100114001B2, .ffadd false (xf 20 1 8 12 1 0)),
      (0x01C0014010C001B0, .fst (xf 12 1 10 0 7 0)), (0x01C00820607001B6, .ffenceF (xf 7 6 0x41 0 7 0)), (0x01C00000000001B5, .ffence (xf 0 0 0 0 7 0)),
      (0xFFFFFF4800F0004C, .bnz false (bf (-23) 15)), (0x01C00000000001B8, .tret (xf 0 0 0 0 7 0)), (0x01C00000000001B9, .tretN (xf 0 0 0 0 7 0)),
      (0x01C00000400001BA, .tesc (xf 0 4 0 0 7 0)), (0x01C00012900001BA, .tesc { xf 0 41 0 0 7 0 with lub := 1 }), (0x024000C0414001BB, .cpreempt (xf 20 4 6 0 1 1)),
      (0x004000C0514001BC, .cresume (xf 20 5 6 0 1 0)), (0x0241C0C0414001BC, .cresumeEsc (xf 20 4 6 7 1 1)), (0x00400000E14001BD, .cterm (xf 20 14 0 0 1 0)),
      (0x00800000414001BF, .cqueryU (xf 20 4 0 0 2 0))] : List (W64 × Instr)).all decodes = true := by
  decide +kernel
/-- 07: `sdiv.i32 s4, s5, s6, sb2` is opcode 0x008 with mod 0x081; it is legal and its slot is 2. -/
theorem test_sdiv_slot :
    let i : Instr := .sdiv (.t false (tf 4 5 6 0 0x081))
    (opcodeOf i == 0x008 && (shape .lattice i).fail.isNone && (shape .lattice i).slot == some 2) = true := by
  decide +kernel

/-! ### Ill-formed terms and reserved words -/

/-- R112: `smul` and `sclz` have no 64-bit or no form-I variant. -/
theorem test_refuses_noSuchVariant :
    ([Instr.smul (.i true iF), .scmp (.i true iF), .sclz (.i false iF), .smov (.i true iF)].all (fun i => i.illFormed == some .noSuchVariant && !i.wf)) = true := by
  decide +kernel
/-- R221, R435: the modifier bit is the other mnemonic's. -/
theorem test_refuses_modifierNamesOther :
    ([Instr.vmovs false tG, .vmovsGet false tF, .cresume xG, .cresumeEsc xF, .cterm xG, .ctermL xF].all (fun i =>
      i.illFormed == some .modifierNamesOther && !i.wf)) = true := by
  decide +kernel
/-- R116, R296: reserved opcodes and microinstruction ops. -/
theorem test_reserved_words : (decodeWord 0x52C381B0C0B855E0).isNone ∧ (decodeMu (0xC000000000000000 : W64)).isNone := by
  decide +kernel

/-! ### Single steps -/

/-- The state after word `i` on a lattice core whose scalar registers are `regs`, one tick later: due results have landed. -/
def ran (i : Instr) (regs : Tab W32) (g : Group → Group := id) : State :=
  match exec i (bench 4096 i (fun y => { y with s := regs }) g) with
  | .next t => t.landDue (groupKey 4096 0) 0 1000 []
  | _ => State.reset
def sregOf (s : State) (r : Nat) : Nat := ((s.sub (groupKey 4096 0) 0).sreg r).toNat
def sub0 (s : State) : Sub := s.sub (groupKey 4096 0) 0
def trapCause (s : State) : Nat := (s.group (groupKey 4096 0)).tr.cause.toNat % 256
/-- R185: sums wrap, or saturate under mod; a 64-bit difference borrows across the pair; unsigned high product; minimum by sign. -/
theorem test_scalar_arithmetic :
    (sregOf (ran (.sadd (.t false (tf 4 2 3 0 0))) [(2, 0xFFFFFFFF), (3, 2)]) 4 == 1 &&
    sregOf (ran (.sadd (.t false (tf 4 2 3 0 1))) [(2, 0x7FFFFFFF), (3, 2)]) 4 == 0x7FFFFFFF &&
    sregOf (ran (.ssub (.t false (tf 4 2 3 0 2))) [(2, 1), (3, 2)]) 4 == 0 &&
    (let s := ran (.ssub (.t true (tf 4 2 6 0 0))) [(3, 1), (6, 1)]
     sregOf s 4 == 0xFFFFFFFF && sregOf s 5 == 0) &&
    sregOf (ran (.smulh (.t false (tf 4 2 3 0 0))) [(2, 0xFFFFFFFF), (3, 0xFFFFFFFF)]) 4 == 0xFFFFFFFE &&
    sregOf (ran (.smin (.t false (tf 4 2 3 0 1))) [(2, 0xFFFFFFFF), (3, 2)]) 4 == 0xFFFFFFFF) = true := by
  decide +kernel
/-- R186: a shift by the width or more; the arithmetic one keeps the sign. -/
theorem test_shifts :
    (sregOf (ran (.sshl (.t false (tf 4 2 3 0 0))) [(2, 1), (3, 32)]) 4 == 0 && sregOf (ran (.ssra (.t false (tf 4 2 3 0 0))) [(2, 0x80000000), (3, 40)]) 4 == 0xFFFFFFFF &&
    sregOf (ran (.sshr (.t false (tf 4 2 3 0 0))) [(2, 0x80000000), (3, 31)]) 4 == 1) = true := by
  decide +kernel
/-- R108, R111: s0 reads 0 and discards what is written. -/
theorem test_s0 : sregOf (ran (.sadd (.t false (tf 0 2 2 0 0))) [(2, 5)]) 0 = 0 := by
  decide +kernel
/-- R190: a taken branch leaves its clause for the word its offset names from the header; one not taken goes on after the clause (of one word and three literals). -/
theorem test_branch :
    (let t := sub0 (ran (.bnz false (bf 4 2)) [(2, 1)])
     let n := sub0 (ran (.bnz false (bf 4 2)) [])
     t.pc == 32 && t.clause.isNone && n.pc == 40 && n.clause.isNone) = true := by
  decide +kernel
/-- R195: `trap` enters the handler with cause 0x0E; R121, R117: an illegal modifier and a privileged word trap. -/
theorem test_traps :
    (let t := ran (.trap (if_ 0 0 5 0)) []
     trapCause t == 0x0E && (t.group (groupKey 4096 0)).handler && trapCause (ran (.sadd (.t false (tf 4 2 3 0 3))) []) == 1 &&
    trapCause (ran (.objinvCtx (xf 0 0 0 0 0 0)) []) == 0x0F) = true := by
  decide +kernel
/-- A vector sum in every lane, of which lane 1 carries; a predicate from a compare. -/
theorem test_vector :
    (let v (r l : Nat) (x : W32) : Nat × W32 := (32 * r + l, x)
     let g : Group → Group := fun g => { g with v := [v 2 0 1, v 2 1 0xFFFFFFFF, v 3 0 1, v 3 1 1] }
     let s := ran (.vadd false (tf 4 2 3 0 0)) [] g
     ((s.group (groupKey 4096 0)).vreg 4 0 == 2) && ((s.group (groupKey 4096 0)).vreg 4 1 == 0)) = true := by
  decide +kernel
/-- R320: `Party` of a fault-free object; a phase that completes takes the expected count again. -/
theorem test_barrier_object :
    (let x := bParty (bInit 1) (-1) 0
     bPparty x == 0 && bPhase (bComplete x) == 1 && bPparty (bComplete x) == 1 && bState (bParty x (-1) 0) == 3) = true := by
  decide +kernel

/-! ### A state and operands that meet each statement's hypotheses -/

/-! ### Hypotheses that states meet, statement by statement -/

def zt : TForm := tf 0 0 0 0 0
def zi : IForm := if_ 0 0 0 0
/-- Whether a gate is met in a state of which `p` holds. -/
def metWith (g : Gate) (p : State → Bool) : Bool :=
  match g with
  | .met t => p t
  | .blocked _ => false

/-- Operands at every modifier that a clause names, forms T and I, both widths. -/
theorem witness_ScalarArithmetic : ([.sadd (.t false zt), .sadd (.t true (tf 0 0 0 0 1)), .sadd (.i true (if_ 0 0 0 2)), .ssub (.t false (tf 0 0 0 0 1)),
    .ssub (.i false (if_ 2 3 0xFFFF 2)), .ssub (.t true zt), .smul (.t true zt), .smulh (.t false (tf 0 0 0 0 1)), .smulh (.i false zi), .sand (.i true zi),
    .sor (.t false zt), .sxor (.t true zt), .sandn (.i false zi), .smin (.t false zt), .smin (.t true (tf 0 0 0 0 1)), .smax (.i false (if_ 0 0 0 1)),
    .smax (.t false zt), .sclz (.t true zt), .spop (.t false zt), .ssel (.t true zt), .smov (.t false zt)] : List Instr).all ready = true := by
  decide +kernel
theorem witness_ScalarShiftsFieldsAndConstants : ([.sshl (.t false zt), .sshl (.i true (if_ 0 0 64 0)), .sshr (.i false (if_ 0 0 31 0)), .ssra (.t true zt),
    .sbfx (.t false (tf 0 0 0 0 1)), .sbfx (.i false (if_ 0 0 0x2020 0)), .sbfi (.t true zt), .sbfi (.i false zi), .smovi .i32 zi, .smovi .n32 zi,
    .smovi .i64 zi, .smoviHi zi] : List Instr).all ready = true := by
  decide +kernel
/-- Divisors 0 and not 0, signed and unsigned. -/
theorem witness_ScalarDivision : ([.sdiv (.t false zt), .sdiv (.i false (if_ 0 0 3 1)), .srem (.t true zt), .srem (.i false (if_ 0 0 3 0))] : List Instr).all
    ready = true := by
  decide +kernel
/-- Conditions 0 to 9 are ready; 10 is the first that is not. -/
theorem witness_ScalarCompare : ((List.range 10).all (fun m => ready (.scmp (.t false (tf 0 0 0 0 (BitVec.ofNat 9 m))))) &&
    ready (.scmp (.i false (if_ 0 0 0xFFFF 6))) && !ready (.scmp (.t false (tf 0 0 0 0 10)))) = true := by
  decide +kernel
theorem witness_PredicatesAndSpecialRegisters : ([.pand zt, .por zt, .pxor zt, .pandn zt, .pnot zt, .pmov (.t zt), .pmov (.i zi), .pfroms zt, .ptos zt,
    .pany zt, .pall zt, .ppop zt, .sget false zi, .sget true (if_ 0 0 1 0), .sset false (if_ 0 0 0x0B 0)] : List Instr).all ready = true := by
  decide +kernel
/-- Branches, and jumps to an aligned and to a misaligned target. -/
theorem witness_Branches : (([.br (bf 0 0), .bz false (bf 1 0), .bnz true (bf 2 0), .bl (bf 1 0), .jr zt, .jl zt] : List Instr).all ready &&
    [Instr.jr (tf 0 2 0 0 0), .jl (tf 4 2 0 0 0)].all (fun i => meets (bench 4096 i (fun x => { x with s := [(2, 4)] })) i .any
      (fun cx t => (t.opS64 cx.k cx.e 2).toNat % 8 != 0))) = true := by
  decide +kernel
/-- `swait` with its named slot complete, and busy. -/
theorem witness_NopYieldAndWaits : (ready (.nop zt) && ready (.yield zt) &&
    meets (bench 4096 (.swait (if_ 0 0 2 0)) (fun x => { x with slots := [(1, { st := .complete })] })) (.swait (if_ 0 0 2 0)) .always
      (fun cx t => ((t.sub cx.k cx.e).slot 1).st != .busy && ((t.sub cx.k cx.e).slotTrap [1]).isNone && t.asleep cx.k (t.landBanks cx.k cx.e [1]) == []) &&
    meets (bench 4096 (.swait (if_ 0 0 3 0)) (fun x => { x with slots := [(1, { st := .busy })] })) (.swait (if_ 0 0 3 0)) .always
      (fun cx t => ((t.sub cx.k cx.e).slot 1).st == .busy && ((t.sub cx.k cx.e).slot 0).st != .busy)) = true := by
  decide +kernel

/-- A `split` on predicate p1, whose lanes are `p`. -/
def splitOn (p : W32) (x : Sub → Sub := id) (g : Group → Group := id) (pre : Group → Bool) : Bool :=
  meets (bench 4096 (.split (bf 2 1)) x (fun y => g { y with p := [(1, p)] })) (.split (bf 2 1)) .any (fun cx t =>
    metWith (t.settle cx.k cx.e) (fun t => pre (t.group cx.k) && (t.active cx.k cx.e (commonOf cx.i) &&& t.opP cx.k 1) == p))
/-- `split` taken by no lane, by all, by some with entry 1 and pair 0 free, by some with the table full; `fuse` at the root, and with its sibling exited. -/
theorem witness_SplitAndFuse : (splitOn 0 id id (fun _ => true) && splitOn 0xFFFFFFFF id id (fun _ => true) &&
    splitOn 0xFF id id (fun y => (y.sub 1).st == 0 && (y.sub 0).st != 0 && !(tget (false, 7) y.pairs 0).1) &&
    splitOn 0xFF id (fun y => { y with subs := y.subs ++ (List.range 7).map (fun j => (j + 1, ({ st := 3 } : Sub))) })
      (fun y => (List.range 8).all (fun j => (y.sub j).st != 0)) &&
    splitOn 0xFF id (fun y => { y with pairs := (List.range 7).map (fun j => (j, (true, 7))) })
      (fun y => (List.range 7).all (fun j => (tget (false, 7) y.pairs j).1)) &&
    meets (bench 4096 (.fuse zt)) (.fuse zt) .any (fun cx t => metWith (t.settle cx.k cx.e) (fun t => (t.sub cx.k cx.e).pair == 7)) &&
    meets (bench 4096 (.fuse zt) (fun x => { x with pair := 0, lanes := 0xFF })
        (fun y => { y with subs := y.subs ++ [(1, { st := 3, pair := 0, lanes := 0xFF00 })], pairs := [(0, (true, 7))] })) (.fuse zt) .any (fun cx t =>
      metWith (t.settle cx.k cx.e) (fun t => (t.sub cx.k cx.e).pair != 7 && (t.group cx.k).arrived cx.e (t.sub cx.k cx.e).here))) = true := by
  decide +kernel
/-- A split of 8 of 32 lanes, and of all of them, into another entry. -/
theorem witness_SplitKeepsLanes : (([0xFF, 0xFFFFFFFF] : List W32).all (fun taken =>
    (1 : Nat) != 0 && taken &&& ~~~((bench 4096 (.split (bf 2 1))).sub (groupKey 4096 0) 0).lanes == 0)) = true := by
  decide +kernel
/-- `exit` of a group's only sub-group with no fabric operation, and of one whose sibling runs while the group has one. -/
theorem witness_ExitEndsSubGroup : (meets (bench 4096 (.exit zt)) (.exit zt) .any (fun cx t => !t.fabricBusy cx.k && t.asleep cx.k (t.drainBanks cx.k cx.e) == []) &&
    meets (bench 4096 (.exit zt) id (fun y => { y with subs := y.subs ++ [(1, { st := 1 })] })) (.exit zt) .any
      (fun cx t => (t.group cx.k).subs.any (fun p => p.1 != cx.e && p.2.st != 0 && p.2.st != 3) && t.asleep cx.k (t.drainBanks cx.k cx.e) == [])) = true := by
  decide +kernel
/-- `trap` and `brk` outside a handler whose region is accepted; with no active lane; with a field that must be zero. -/
theorem witness_TrapAndBreakpoint : ([Instr.trap (if_ 0 0 0x12 0), .brk (if_ 0 0 3 0)].all (fun i =>
      meets (bench 4096 i) i .any (fun cx t => !(t.group cx.k).handler && t.canEnter cx.k) &&
      (match (bench 4096 i (fun x => { x with lanes := 0 })).readyFor i .any with
       | some (cx, _) => cx.act == 0
       | none => false)) &&
    [Instr.trap (if_ 1 0 0 0), .brk (if_ 0 1 0 0)].all (fun i => metWith ((bench 4096 i).headerGate (groupKey 4096 0) 0) (fun _ => true))) = true := by
  decide +kernel
/-- `acq.w` of one block within the claim, of none, beyond the claim; `acq.t` with an answer of each kind, and with none and the checker quiet. -/
theorem witness_Acquisitions :
    let s (i : Instr) (v : W32) (c : Core → Core := id) : State :=
      bench 4096 i (fun x => { x with s := [(2, v)] }) (fun y => { y with own := y.own.take 8 }) (fun b => { b with claim := { reg := 20, spm := 20, msl := 4 }, held := { reg := 16, spm := 16 } }) c
    let f : XForm := xf 4 2 0 0 0 0
    let g : XForm := xf 4 2 0 1 7 0
    let key := 8 * groupKey 4096 0
    ([(0, Instr.acqRegW f, Instr.acqRegT g), (1, .acqSpmW f, .acqSpmT g), (2, .acqMslW f, .acqMslT g)].all (fun p =>
      meets (s p.2.1 1) p.2.1 .any (fun cx t => (t.acquireTrap cx.k p.1 1).isNone && (t.opS cx.k cx.e 2).toNat == 1) &&
      meets (s p.2.1 0) p.2.1 .any (fun cx t => (t.acquireTrap cx.k p.1 0).isNone && (t.opS cx.k cx.e 2).toNat == 0) &&
      meets (s p.2.1 999) p.2.1 .any (fun cx t => (t.acquireTrap cx.k p.1 999).isSome) &&
      [0, 1, 16].all (fun r => meets (s p.2.2 1 (fun c => { c with answers := [(key, r)] })) p.2.2 .any
        (fun cx t => tfind (t.core cx.unit).answers (8 * cx.k + cx.e) == some r)) &&
      meets (s p.2.2 0) p.2.2 .any (fun cx t => (tfind (t.core cx.unit).answers (8 * cx.k + cx.e)).isNone && (t.core cx.unit).requests.isEmpty &&
        (t.core cx.unit).check.isNone && (t.acquireTrap cx.k p.1 0).isNone) &&
      meets (s p.2.2 999) p.2.2 .any (fun cx t => (t.acquireTrap cx.k p.1 999).isSome && (t.core cx.unit).check.isNone))) = true := by
  decide +kernel
/-- The bench with scalar registers s2 and s4 set. -/
def with24 (u : Nat) (i : Instr) (v w : W32) (b : Block → Block := id) (c : Core → Core := id) : State :=
  bench u i (fun x => { x with s := [(2, v), (4, w)] }) id b c
/-- Releases of blocks, granules and slots held, at both ends of their ranges, and of ones not held. -/
theorem witness_Releases :
    let f : XForm := xf 0 2 0 0 7 0
    let over_ : Copy := { id := 1, block := blockKey 4096 0, ctx := 0, desc := [], srcH := {}, dstH := {}, srcReg := 0, dstReg := 0, spans := [(none, 0, 4096)] }
    (meets (with24 4096 (.relReg f) 0x8001 0) (.relReg f) .any (fun cx t => [0, 15].all (fun l => (t.group cx.k).own.any (fun o => o.1 == l))) &&
    meets (bench 4096 (.relReg f) (fun x => { x with s := [(2, 0x8001)] }) (fun y => { y with own := [(0, 0)] })) (.relReg f) .any
      (fun cx t => !(t.group cx.k).own.any (fun o => o.1 == 15) && (t.group cx.k).own.any (fun o => o.1 == 0)) &&
    [0, 1, 16].all (fun n => meets (with24 4096 (.relSpm f) n 0) (.relSpm f) .any (fun cx t =>
      decide ((t.opS cx.k cx.e 2).toNat ≤ (t.blockOf cx.k).gran.length) && (t.rangeHold (t.group cx.k).block [(none, 0, 1000000)]).isNone &&
        !t.ringBusy (t.group cx.k).block 0 1000000)) &&
    meets { with24 4096 (.relSpm f) 16 0 with copies := [over_] } (.relSpm f) .any (fun cx t =>
      (t.blockOf cx.k).gran.length == 16 && (t.rangeHold (t.group cx.k).block [(none, 0, 16 * (granSize cx.unit : Int))]).isSome) &&
    meets { with24 4096 (.relSpm f) 16 0 (fun b => { b with rings := [(1, { base := 1024, tsize := 2, cap := 4, en := true, taken := [(0, 1, true)] })] }) with
        agenda := [{ step := .ringPush, arg := { a := blockKey 4096 0, b := 1 } }] } (.relSpm f) .any (fun cx t =>
      (t.blockOf cx.k).gran.length == 16 && t.ringBusy (t.group cx.k).block 0 (16 * granSize cx.unit)) &&
    meets (with24 4096 (.relSpm f) 17 0) (.relSpm f) .any (fun cx t => decide ((t.blockOf cx.k).gran.length < (t.opS cx.k cx.e 2).toNat)) &&
    meets (with24 4096 (.relMsl f) 9 0 (fun b => { b with slots := [(0, 2), (3, 1)] })) (.relMsl f) .any
      (fun cx t => [0, 3].all (fun l => ((t.blockOf cx.k).slotAt l).any (fun p => (t.mslot cx.unit p).st != 1)))) = true := by
  decide +kernel
/-- Banks on, off and in retention, inside and outside the range; register blocks owned and not; sleeps of 0 and more; drops. -/
theorem witness_BankInstructions :
    let f : XForm := xf 0 2 4 0 0 0
    let m : XForm := xf 0 2 0 0 0 1
    let g : XForm := xf 0 2 0 0 7 0
    let h : XForm := xf 0 2 4 0 7 0
    let r : XForm := xf 0 2 0 0 0 0
    (meets (with24 4096 (.rwake m) 0 0) (.rwake m) .any (fun cx t => t.inSpm (t.group cx.k).block 0 1) &&
    meets (with24 4096 (.rwake m) 0 0 id (fun c => { c with spmBank := [(0, .retention)] })) (.rwake m) .any
      (fun cx t => t.inSpm (t.group cx.k).block 0 1 && tget .off (t.core cx.unit).spmBank 0 == .retention) &&
    meets (with24 4096 (.rwake m) 0xFFFFFFFF 0) (.rwake m) .any (fun cx t => !t.inSpm (t.group cx.k).block 0xFFFFFFFF 1) &&
    meets (with24 4096 (.rwake r) 15 0) (.rwake r) .any (fun cx t => tget .off (t.core cx.unit).regBank 3 == .on) &&
    meets (with24 4096 (.rwake r) 15 0 id (fun c => { c with regBank := [] })) (.rwake r) .any (fun cx t => tget .off (t.core cx.unit).regBank 3 == .off) &&
    meets (with24 4096 (.rwake r) 16 0) (.rwake r) .any (fun cx t => !(t.group cx.k).own.any (fun o => o.1 == 16)) &&
    [0, 1].all (fun n => meets (with24 4096 (.rsleep g) n 0) (.rsleep g) .any) &&
    meets (with24 4096 (.spdrop h) 0 0) (.spdrop h) .any &&
    meets (with24 4096 (.spdrop h) 0 0xFFFFFFFF) (.spdrop h) .any (fun cx t => !t.inSpm (t.group cx.k).block 0 0xFFFFFFFF) &&
    meets (with24 4096 (.spdrop h) 0 1024) (.spdrop h) .any
      (fun cx t => t.inSpm (t.group cx.k).block 0 1024 && (t.rangeHold (t.group cx.k).block [(none, 0, 1024)]).isNone) && f.xc == 4) = true := by
  decide +kernel
/-- Object numbers inside and outside the table, at its edge; good and bad entries; each instruction ready on a control core. -/
theorem witness_SupervisorInstructions :
    let f : XForm := xf 8 2 4 0 0 0
    let on (i : Instr) (n v : W32) (pre : Cx → State → Bool) : Bool :=
      meets { with24 12288 i n v with contexts := [(0, { otBase := 4096, otCount := 2, bound := true })] } i .slot pre
    (on (.objmapEnt f) 2 0 (fun cx t => (t.context (t.ctxOf cx.k)).otCount == (t.opS cx.k cx.e 2).toNat) &&
    on (.objmapEnt f) 1 0xFFFFFFFF (fun cx t => t.entryBad (t.opQuad cx.k cx.e 4)) &&
    on (.objmapEnt f) 1 0 (fun cx t => !t.entryBad (t.opQuad cx.k cx.e 4)) &&
    on (.objmapExt f) 2 0 (fun cx t => match t.extentStatus (t.ctxOf cx.k) 2 0 0 with | .inl _ => true | .inr _ => false) &&
    [Instr.objmapMv f, .objinv (xf 0 2 0 0 0 0), .objinvCtx (xf 0 0 0 0 0 0), .semmap f, .semmapQ (xf 8 2 0 0 0 0), (.hmint (xf 8 2 4 12 0 0))].all (fun i =>
      on i 1 0 (fun _ _ => true))) = true := by
  decide +kernel
theorem witness_VectorIntegers : ([false, true].all (fun w => ([.vadd w zt, .vadd w (tf 0 0 0 0 2), .vsub w (tf 0 0 0 0 4), .vmul w zt, .vmulh w (tf 0 0 0 0 2), .vmad w zt,
    .vand w zt, .vor w zt, .vxor w zt, .vandn w zt, .vshl w (tf 0 0 2 0 1), .vshr w zt, .vsra w zt, .vmin w zt, .vmax w (tf 0 0 0 0 2), .vabs w zt,
    .vabs w (tf 0 0 0 0 2), .vclz w zt, .vpop w zt, .vbfx w (tf 0 0 0 0 2), .vbfi w zt, .vsel w zt, .vmov w zt, .vmovs w zt] : List Instr).all ready)) = true := by
  decide +kernel
/-- The extraction's lowest active lane at both ends of its range; every instruction of the statement. -/
theorem witness_VectorCompareExtractAndMove : (([.vcmp false zt, .vcmp true (tf 0 0 0 0 0x12), .vperm false zt, .vxshf true zt, .vrot false zt, .vbcl true (tf 0 0 2 0 1),
      .vexpand false zt, .vcompress true zt, .vunpack .e2m1 zt, .vunpack .b16 (tf 0 0 0 0 0x12), .vpack .e3m2 zt, .vpack .b8 zt] : List Instr).all ready &&
    [(0, (0xFFFFFFFF : W32)), (31, 0x80000000)].all (fun p => meets (bench 4096 (.vmovsGet true (tf 2 0 0 0 2)) (fun x => { x with lanes := p.2 }))
      (.vmovsGet true (tf 2 0 0 0 2)) .any (fun cx _ => cx.act.getLsbD p.1 && (List.range p.1).all (fun l => !cx.act.getLsbD l)))) = true := by
  decide +kernel
/-- A word ready in one lane, in which its lanes raise no flag that fpcsr enables. -/
def floats (i : Instr) : Bool :=
  match guardingOf i with
  | some gd => meets (bench 4096 i (fun x => { x with lanes := 1 })) i gd
      (fun cx t => (t.group cx.k).fpcsr == 0 && (fpTrap (t.group cx.k).fpcsr cx.act (t.fpFlags cx (fun _ _ => (0, 0)))).isNone)
  | none => false
theorem witness_FloatArithmetic : ([FVar.f32, .f64, .f16x2, .bf16x2].all (fun t => ([.vfadd t zt, .vfsub t (tf 0 0 0 0 0x10), .vfmul t zt, .vfma t zt] : List Instr).all floats) &&
    [false, true].all (fun b => floats (.vfdot2 b zt))) = true := by
  decide +kernel
/-- A lane that raises IV with IV enabled, at both ends of the lanes; the quiet words ready. -/
theorem witness_FloatTrapsAndQuiet : ([0, 31].all (fun l => fIV &&& (0x1F00 : W32).extractLsb' 8 5 != 0 && (0xFFFFFFFF : W32).getLsbD l) &&
    [FVar.f32, .f64, .f16x2, .bf16x2].all (fun t => ([.vfmin t zt, .vfmax t zt, .vfrnd t zt, .vfclass t zt, .vfcmp t zt] : List Instr).all ready)) = true := by
  decide +kernel
theorem witness_FloatFunctions : ([F3.f32, .f16x2, .f64].all (fun t => floats (.vrcp t zt) && floats (.vsqrt t (tf 0 0 0 0 0x10))) &&
    [false, true].all (fun h => ([.vrsqrt h zt, .vexp2 h zt, .vlog2 h zt, .vsin h zt, .vcos h zt] : List Instr).all floats)) = true := by
  decide +kernel
/-- Conversions from each kind of source, and blocks in every element type. -/
theorem witness_FloatConversions : (([.vcvt .f32 false (tf 0 0 0 0 2), .vcvt .f64 true zt, .vcvt .i64 false zt, .vcvt .e2m1 false (tf 0 0 0 0 2)] : List Instr).all floats &&
    [MxKind.e4m3, .e5m2, .e3m2, .e2m3, .e2m1, .i8].all (fun x => floats (.vmxq x zt) && floats (.vmxd x zt))) = true := by
  decide +kernel
theorem witness_Reductions : ([RedOp.addI32, .addI64, .addF32, .addF64, .minI32, .maxI32, .minN32, .maxN32, .minF32, .maxF32, .andB32, .orB32, .xorB32].all (fun o =>
    floats (.vred o zt) && floats (.vscan o zt))) = true := by
  decide +kernel
/-- A handle of object 5 with every right but F, D and S, of `len` bytes. -/
def hreg (len : Nat) (valid : Bool := true) (rights : Nat := 0x5F) : HandleReg := mkHandle 5 1 rights 0 len valid
/-- The bench on two lanes with handle h3 and scalar s2, within a region of all objects. -/
def hbench (i : Instr) (h : HandleReg) (v : W32 := 0) (x : Sub → Sub := id) (b : Block → Block := id) : State :=
  bench 4096 i (fun y => x { y with lanes := 3, h := [(3, h)], s := [(2, v)] }) id (fun y => b { y with rv := { objHi := 0xFFFFFF }, csize := 2 })
/-- A copy in flight over object 5 and over the first bytes of the scratchpad, in entry 3 of the range scoreboard. -/
def copying (s : State) : State :=
  { s with copies := [{ id := 1, block := blockKey 4096 0, ctx := 0, desc := [], srcH := {}, dstH := {}, srcReg := 0, dstReg := 0, entry := 3
                        spans := [(some 5, 0, 4096), (none, 0, 4096)] }] }
/-- Word `i` with its handle good, held by a copy, and invalid. -/
def handled (i : Instr) (need n align : Nat) (offs : Cx → State → List (Nat × Int)) : Bool :=
  match guardingOf i with
  | some gd =>
    let check (cx : Cx) (t : State) : Option TrapInfo := t.checkHandle cx.k (t.opH cx.k cx.e 3) 3 need n align (offs cx t)
    let hold (cx : Cx) (t : State) : Option Nat := t.rangeHold (t.group cx.k).block (objPlaces (t.opH cx.k cx.e 3) n (offs cx t))
    meets (hbench i (hreg 4096)) i gd (fun cx t => (check cx t).isNone && (hold cx t).isNone) &&
      meets (copying (hbench i (hreg 4096))) i gd (fun cx t => (check cx t).isNone && hold cx t == some 3) &&
      meets (hbench i (hreg 4096 false)) i gd (fun cx t => (check cx t).isSome)
  | none => false
def mh (sb : BitVec 3) (mod : BitVec 6) : MForm := mf_ 4 2 3 sb mod
def each (f : MForm) (n : Nat) (cx : Cx) (t : State) : List (Nat × Int) := t.accessOffsets cx f n true false false
def row (f : MForm) (n : Nat) (cx : Cx) (t : State) : List (Nat × Int) := t.accessOffsets cx f n false true false
def one (f : MForm) (n : Nat) (cx : Cx) (t : State) : List (Nat × Int) := t.accessOffsets cx f n false false true
theorem witness_HandleLoads :
    let f := mh 0 0
    (handled (.ldG .b8 f) rR 1 1 (each f 1) && handled (.ldG .b128 f) rR 16 16 (each f 16) &&
    handled (.ldwG .b64 f) rR 8 8 (row f 8) && handled (.ldGs .b16 f) rR 2 2 (one f 2) && handled (.hld f) rR 16 16 (one f 16) &&
    [false, true].all (fun w => handled (.ldAcq w (mh 0 0x0C)) rR (4 * wn w) (4 * wn w) (one (mh 0 0x0C) (4 * wn w)))) = true := by
  decide +kernel
/-- Releases of every scope from 0 to 4. -/
theorem witness_HandleStores :
    let f := mh 7 0
    (handled (.stG .b8 f) rW 1 1 (each f 1) && handled (.stG .b128 f) rW 16 16 (each f 16) &&
    handled (.stwG .b32 f) rW 4 4 (row f 4) && handled (.stGs .b64 f) rW 8 8 (one f 8) && handled (.hst f) rW 16 16 (one f 16) &&
    [0, 1, 4].all (fun sc => handled (.stRel false (mh 7 (BitVec.ofNat 6 (4 * sc)))) rW 4 4 (one (mh 7 (BitVec.ofNat 6 (4 * sc))) 4))) = true := by
  decide +kernel

/-- Word `i` in the scratchpad where nothing stands against it, where a copy holds its bytes, where its bank is in retention, and out of range. -/
def spmWord (i : Instr) (n align : Nat) (read : Bool) (offs : Cx → State → List (Nat × Int)) : Bool :=
  match guardingOf i with
  | some gd =>
    let bk (t : State) (cx : Cx) : Nat := (t.group cx.k).block
    let check (cx : Cx) (t : State) : Option TrapInfo := t.checkSpm (bk t cx) n align read (offs cx t)
    let hold (cx : Cx) (t : State) : Option Nat := t.rangeHold (bk t cx) (spmPlaces n (offs cx t))
    let wakes (cx : Cx) (t : State) : Option State := t.wakeFor (bk t cx) ((offs cx t).map (fun p => p.2.toNat))
    let s := hbench i (hreg 4096)
    meets s i gd (fun cx t => (check cx t).isNone && (hold cx t).isNone && (wakes cx t).isNone) &&
      meets (copying s) i gd (fun cx t => (check cx t).isNone && (hold cx t).isSome) &&
      meets (s.setCore 4096 { s.core 4096 with spmBank := (List.range 512).map (fun j => (j, Bank.retention)) }) i gd
        (fun cx t => (check cx t).isNone && (hold cx t).isNone && (wakes cx t).isSome) &&
      meets (hbench i (hreg 4096) 0 id (fun b => { b with gran := [] })) i gd (fun cx t => (check cx t).isSome)
  | none => false
def ms (h : BitVec 5) (sb : BitVec 3) (mod : BitVec 6) : MForm := mf_ 4 2 h sb mod
/-- Its own member 0 of a cluster of two, the other, and one beyond it. -/
theorem witness_ScratchpadAccesses :
    (spmWord (.ldL .b8 (ms 0 0 0)) 1 1 true (each (ms 0 0 0) 1) && spmWord (.ldL .b128 (ms 0 0 0)) 16 16 true (each (ms 0 0 0) 16) &&
    spmWord (.stL .b64 (ms 0 7 0)) 8 8 false (each (ms 0 7 0) 8) && spmWord (.ldC true (ms 0 0 0)) 8 8 true (each (ms 0 0 0) 8) &&
    spmWord (.stC false (ms 0 0 0)) 4 4 false (each (ms 0 0 0) 4) &&
    [Instr.ldC true (ms 1 0 0), .stC false (ms 1 0 0)].all (fun i => meets (hbench i (hreg 4096)) i .slot
      (fun cx t => (t.blockOf cx.k).csize == 2 && (t.blockOf cx.k).x % 2 == 0)) &&
    [Instr.ldC true (ms 2 0 0), .stC false (ms 3 0 0)].all (fun i => meets (hbench i (hreg 4096)) i .slot (fun cx t => decide ((t.blockOf cx.k).csize ≤ 2)))) = true := by
  decide +kernel
/-- Aligned, misaligned and negative places of a lane's slice, at each size. -/
theorem witness_LanePrivateAccesses :
    let f (imm : BitVec 12) (sb : BitVec 3) : MForm := { ms 0 sb 0 with imm := imm }
    ([SizeP.b16, .b32, .b64].all (fun z =>
      [(Instr.ldP z (f 0 0), Guarding.slot), (.stP z (f 0 7), .any)].all (fun p => meets (hbench p.1 (hreg 0)) p.1 p.2 (fun cx t =>
        (t.group cx.k).lpBase == 0 && t.opN cx.k cx.e 2 false == 0)) &&
      [(Instr.ldP z (f 0 0), Guarding.slot), (.stP z (f 0 7), .any)].all (fun p =>
        let s := hbench p.1 (hreg 0)
        meets (s.setGroup (groupKey 4096 0) { s.group (groupKey 4096 0) with lpBase := 64 }) p.1 p.2 (fun cx t => (t.group cx.k).lpBase.toNat % 128 != 0)) &&
      [(Instr.ldP z (f 0xFFF 0), Guarding.slot), (.stP z (f 0xFFF 7), .any)].all (fun p => meets (hbench p.1 (hreg 0)) p.1 p.2 (fun cx t =>
        (t.group cx.k).lpBase == 0 && decide ((t.opN cx.k cx.e 2 false : Int) + (0xFFF : BitVec 12).toInt * z.bytes < 0))))) = true := by
  decide +kernel
/-- Fences of no scope and of the widest; ranges of no bytes and of some; handles good and bad; a hint of each kind. -/
theorem witness_HintsFencesAndCacheWords :
    let g := mf_ 2 4 3 0 0
    let pf := mf_ 0 4 3 7 0
    let ok (i : Instr) (v : W32) (h : HandleReg) (pre : Cx → State → Bool) : Bool :=
      match guardingOf i with
      | some gd => meets (hbench i h v) i gd pre
      | none => false
    let check (f : MForm) (need n : Nat) (cx : Cx) (t : State) : Option TrapInfo :=
      t.checkHandle cx.k (t.opH cx.k cx.e 3) 3 need n 1 [(0, ((t.accessOffsets cx f 16 false false true).headD (0, 0)).2)]
    ([Instr.fence (xf 0 0 0 0 7 8), .fence (xf 0 0 0 0 7 0x1C), .qsync (xf 0 0 0 0 7 0), .ccleanAll (mf_ 0 0 0 0 0), .cinvalAll (mf_ 0 0 0 0 0), .hintX 0 zt,
      .hintX 29 zt, .hintPf zt, .hintBank zt].all ready &&
    [Instr.cclean g, .cinval g].all (fun i => [0, 1, 4096].all (fun v => ok i v (hreg 4096) (fun cx t =>
      (t.opN cx.k cx.e 2 false == v.toNat) && (check g 0 v.toNat cx t).isNone))) &&
    [Instr.cclean g, .cinval g].all (fun i => ok i 4097 (hreg 4096) (fun cx t => (check g 0 4097 cx t).isSome)) &&
    [Instr.pf pf, .pfRo pf].all (fun i => ok i 0 (hreg 4096) (fun cx t => (check pf rR 1 cx t).isNone))) = true := by
  decide +kernel
/-- Handles invalid, sealed, too short, and good, at the end of their range. -/
theorem witness_HandleWords :
    let d : Instr := .hderive (tf 4 3 2 2 0)
    let r : Instr := .hrestrict (tf 4 3 2 0 0)
    let usable (cx : Cx) (t : State) : Bool := (t.opH cx.k cx.e 3).valid && (t.opH cx.k cx.e 3).bits.toNat % 256 == 0
    let open_ (cx : Cx) (t : State) : Bool := !bitAt (t.opH cx.k cx.e 3).rights 7 && bitAt (t.opH cx.k cx.e 3).rights 6
    ([d, r].all (fun i => meets (hbench i (hreg 64 false)) i .any (fun cx t => !usable cx t) &&
      meets (hbench i (hreg 64 true 0xDF)) i .any (fun cx t => usable cx t && !open_ cx t) &&
      meets (hbench i (hreg 64)) i .any (fun cx t => usable cx t && open_ cx t)) &&
    meets (hbench d (hreg 63) 32) d .any (fun cx t => usable cx t && open_ cx t && decide ((t.opH cx.k cx.e 3).len < 32 + (t.opS64 cx.k cx.e 2).toNat)) &&
    meets (hbench d (hreg 64) 32) d .any (fun cx t => usable cx t && open_ cx t && decide (32 + (t.opS64 cx.k cx.e 2).toNat ≤ (t.opH cx.k cx.e 3).len)) &&
    (List.range 6).all (fun m => ready (.hget (tf 4 3 0 0 (BitVec.ofNat 9 m)))) && [Instr.hmov (tf 4 3 0 0 0), .hvalid (tf 4 3 0 0 0)].all ready) = true := by
  decide +kernel
/-- A lattice core whose block holds slot 2 as its slot 0, with ring 1 of four tiles and the core's routine 0x20 loaded. -/
def mbench (i : Instr) (regs : Tab W32) (m : MSlot := {}) (r : Ring := {}) (h : HandleReg := hreg 65536) : State :=
  bench 4096 i (fun y => { y with lanes := 3, s := regs, h := [(4, h)] }) id
    (fun b => { b with rv := { objHi := 0xFFFFFF, permUcode := true }, slots := [(0, 2)], rings := [(1, r)] })
    (fun c => { c with mslots := [(2, { m with block := blockKey 4096 0 })], rt := [(0x20, 0x80001000)] })
def ring4 : Ring := { base := 1024, tsize := 2, cap := 4, en := true, bar := 0xFFFFFFFF }
/-- A slot held and not held, idle, busy and faulted; every part of a ring register; calls of both forms. -/
theorem witness_MatrixRegistersAndCalls :
    let ms (hi : Bool) : XForm := xf 0 2 0 1 7 (if hi then 1 else 0)
    let mg (hi : Bool) : XForm := xf 4 0 0 7 7 (if hi then 1 else 0)
    let st : XForm := xf 4 2 0 0 7 0
    let call : XForm := xf 2 4 0 0x20 7 0
    let callR : XForm := xf 2 4 6 0 7 0
    let cl (l : BitVec 8) : XForm := xf 0 0 0 l 7 0
    let at_ (i : Instr) (regs : Tab W32) (pre : Cx → State → Bool) (m : MSlot := {}) (r : Ring := {}) : Bool :=
      match guardingOf i with
      | some gd => meets (mbench i regs m r) i gd pre
      | none => false
    let slot (cx : Cx) (t : State) (v : Nat) : Option Nat := (t.blockOf cx.k).slotAt v
    let trap (cx : Cx) (t : State) : Option TrapInfo :=
      t.callTrap cx.k (t.opS cx.k cx.e 2).toNat (t.opS cx.k cx.e 4).toNat 0x20
    let put (p : RingPart) (cx : Cx) (t : State) : Ring :=
      if p = .all then (List.range 4).foldl (fun r i => r.put i (field (t.opQuad cx.k cx.e 4) (32 * i) 32)) (t.ring (t.group cx.k).block 1)
      else (t.ring (t.group cx.k).block 1).put (ringPart p) (t.opS cx.k cx.e 4).toNat
    let g (p : RingPart) : Instr := .rset p (xf 0 4 0 1 7 0)
    ([Instr.mset true (ms false), .mset false (ms true), .mset false (ms false), .msetI (if_ 1 0 0x8000 0), .mget false (mg true), .mget true (mg false)].all ready &&
    at_ (.mstat st) [(2, 0)] (fun cx t => slot cx t 0 == some 2) && at_ (.mstat st) [(2, 1)] (fun cx t => (slot cx t 1).isNone) &&
    at_ (.mstatR st) [(2, 7)] (fun cx t => t.opS cx.k cx.e 2 == 7) && at_ (.mstatR st) [(2, 8)] (fun cx t => t.opS cx.k cx.e 2 == 8) &&
    [RingPart.base, .geom, .ptr, .bar, .all].all (fun p =>
      at_ (g p) [] (fun cx t => (t.rsetTrap (t.group cx.k).block 1 p (put p cx t)).isNone) &&
      at_ (.rget p (xf 4 0 0 1 7 0)) [] (fun _ _ => true)) &&
    at_ (g .geom) [] (fun cx t => (t.rsetTrap (t.group cx.k).block 1 .geom (put .geom cx t)).isSome) {} { ring4 with rsv := 1 } &&
    [Instr.mcall call, .mcallR callR].all (fun i =>
      at_ i [(2, 0), (4, 0xFFFFFFFF), (6, 0x20)] (fun cx t => (trap cx t).isNone && slot cx t 0 == some 2 && (t.mslot cx.unit 2).st == 0 && t.boot.active.isNone) &&
      at_ i [(2, 1), (4, 0xFFFFFFFF), (6, 0x20)] (fun cx t => (trap cx t).isSome) &&
      at_ i [(2, 0), (4, 0xFFFFFFFF), (6, 0x20)] (fun cx t => (trap cx t).isNone && slot cx t 0 == some 2 && (t.mslot cx.unit 2).st == 1) { st := 1 }) &&
    at_ (.mclr (cl 0)) [] (fun cx t => slot cx t 0 == some 2 && (t.mslot cx.unit 2).st == 3) { st := 3 } &&
    at_ (.mclr (cl 1)) [] (fun cx t => (slot cx t 1).isNone) &&
    [2, 1].all (fun st => at_ (.mclrAll (cl 0)) [] (fun cx t => slot cx t 0 == some 2 && (t.mslot cx.unit 2).st == st && (t.sub cx.k cx.e).wait.isNone &&
      [1, 2, 3].all (fun l => (slot cx t l).isNone)) { st := st }) &&
    at_ (.mloadRt (xf 4 2 8 0 0 0)) [] (fun cx t => (t.userRuns cx.unit).isNone) &&
    at_ (.mloadCode (xf 2 4 8 0 0 0)) [(8, 64), (11, 16)] (fun cx t =>
      let q := t.opQuad cx.k cx.e 8
      (t.checkHandle cx.k (t.opH cx.k cx.e 4) 4 rX (8 * field q 96 32) 8 [(0, (field q 0 64 : Int))]).isNone && (t.userRuns cx.unit).isNone) &&
    at_ (.mloadQ st) [] (fun _ _ => true)) = true := by
  decide +kernel
theorem witness_ParameterRegisters :
    ([0, 1].all (fun m => ready (.mset false (xf 0 3 0 7 7 m)) && ready (.mget false (xf 63 0 0 7 7 m))) && ready (.mget true (xf 62 0 0 7 7 0)) &&
    (xf 61 0 0 7 7 0).xa.toNat % 2 == 1) = true := by
  decide +kernel
/-- Rings unusable, empty, full, and with a tile taken; a take and a finish of each form. -/
theorem witness_RingWords :
    let w (fin : Bool) : XForm := if fin then xf 0 2 0 0 7 1 else xf 4 2 0 0 0 0
    let t (fin : Bool) : XForm := if fin then xf 0 2 0 1 7 1 else xf 4 2 0 1 7 0
    let at_ (i : Instr) (v : W32) (r : Ring) (pre : Ring → Bool) : Bool :=
      match guardingOf i with
      | some gd => meets (mbench i [(2, v)] {} r) i gd (fun cx t => pre (t.ring (t.group cx.k).block (t.opS cx.k cx.e 2).toNat) &&
          t.loadsFrom cx.k 1024 2048 == false && t.takesBefore cx.k 1 t.nextId == 0)
      | none => false
    ([true, false].all (fun fin => [Instr.rpushW (w fin), .rpushT (t fin), .rpopW (w fin), .rpopT (t fin)].all (fun i =>
      at_ i 8 ring4 (fun _ => true) && at_ i 1 { ring4 with flt := true } (fun r => !r.usable) && at_ i 1 { ring4 with en := false } (fun r => !r.usable))) &&
    [Instr.rpushW (w true), .rpushT (t true)].all (fun i => at_ i 1 { ring4 with rsv := 1, taken := [(0, 0, false)] } (fun r => r.usable && r.oldest == some 0)) &&
    at_ (.rpushW (w true)) 1 ring4 (fun r => r.usable && r.oldest.isNone) &&
    [Instr.rpopW (w true), .rpopT (t true), .rpopT (t false)].all (fun i => at_ i 1 { ring4 with full := 1 } (fun r => r.usable && r.full == 1)) &&
    [Instr.rpopW (w true), .rpopT (t false), .rpushW (w false), .rpopW (w false), .rpushT (t false)].all (fun i =>
      at_ i 1 ring4 (fun r => r.usable && r.full + r.rsv == 0)) &&
    at_ (.rpushT (t false)) 1 { ring4 with full := 3, rsv := 1, taken := [(3, 0, false)] } (fun r => r.usable && r.full + r.rsv == r.cap)) = true := by
  decide +kernel
/-- Places aligned and not, near and far; slots idle, done and faulted. -/
theorem witness_SpillsAndFills :
    let f : XForm := xf 0 4 0 0 0 0
    let e : XForm := xf 0 4 6 0 0 0
    let bytes : Nat := 4 * accRows 4096 * accCols 4096
    let blk (cx : Cx) (t : State) : Nat := (t.group cx.k).block
    let near (cx : Cx) (t : State) (fill : Bool) : Option TrapInfo := t.checkSpm (blk cx t) bytes 128 fill [(0, ((t.opS cx.k cx.e 4).toNat : Int))]
    let far (cx : Cx) (t : State) (fill : Bool) : Option TrapInfo :=
      t.checkHandle cx.k (t.opH cx.k cx.e 4) 4 (if fill then rR else rW) bytes 128 [(0, ((t.opS64 cx.k cx.e 6).toNat : Int))]
    let held (cx : Cx) (t : State) (st : Nat) : Bool := (t.blockOf cx.k).slotAt 0 == some 2 && (t.mslot cx.unit 2).st == st
    ([(Instr.mspillL f, false), (.mfillL f, true)].all (fun p =>
      meets (mbench p.1 [(4, 128)] { st := 2 }) p.1 .slot (fun cx t => (near cx t p.2).isNone && held cx t 2 &&
        (t.wakeFor (blk cx t) (bankOffsets cx.unit 128 bytes)).isNone) &&
      meets (mbench p.1 [(4, 64)]) p.1 .slot (fun cx t => (near cx t p.2).isSome)) &&
    meets (mbench (.mspillL f) [(4, 0)] { st := 3 }) (.mspillL f) .slot (fun cx t => (near cx t false).isNone && held cx t 3) &&
    [(Instr.mspillG e, false), (.mfillG e, true)].all (fun p =>
      meets (mbench p.1 [(6, 128)]) p.1 .slot (fun cx t => (far cx t p.2).isNone && held cx t 0) &&
      meets (mbench p.1 [(6, 64)]) p.1 .slot (fun cx t => (far cx t p.2).isSome))) = true := by
  decide +kernel
/-- A routine in slot 2 of a lattice core. -/
def routine (m : MSlot) (r : Ring := { ring4 with full := 1 }) : State := { mbench (.nop (tf 0 0 0 0 0)) [] { m with st := 1, routine := 0x20 } r with cur := .engine 4096 2 }
def mslot2 (s : State) : MSlot := s.mslot 4096 2
def isOk {α β : Type} (x : Except α β) : Bool := match x with | .ok _ => true | .error _ => false
def gotOk {α : Type} (x : Got α) : Bool := match x with | .ok _ => true | _ => false
def gotBad {α : Type} (x : Got α) : Bool := match x with | .bad _ _ => true | _ => false
/-- Each microinstruction's cases, on a routine whose ring 1 holds one tile. -/
theorem witness_Microinstructions :
    let at_ (s : State) : Bool := s.cur == .engine 4096 2
    let lists (i : Instr) (x : Nat) : Bool := x &&& muListed i == x
    let w (fields : List (Nat × Nat)) : MuWord := BitVec.ofNat 58 (fields.map (fun p => p.2 * 2 ^ p.1)).sum
    let feeds (s : State) (x : Nat) : Got (List (List (Option Nat)) × Nat) :=
      s.feed (mslot2 s).block (mslot2 s).mode (bitAt x 57) (field x 54 3) (muBase (BitVec.ofNat 58 x) (mslot2 s)) (field x 27 12) (field x 23 4) (field x 20 3)
    let good := w [(54, 1), (23, 0)]
    let s := routine {}
    let drainBad (m : MSlot) (lo hi : Nat) : Bool := (s.drainBad (mslot2 s).block m 0 8 0 lo hi).isSome
    (at_ s && !lists (.muFeed (w [(0, 1)])) 1 && !lists (.muEnd (w [(57, 1)])) (2 ^ 57) &&
    lists (.muFeed (w [(23, 9)])) (9 * 2 ^ 23) && decide (9 ≤ field (9 * 2 ^ 23) 23 4) &&
    lists (.muFeed good) good.toNat && gotOk (feeds s good.toNat) && gotBad (feeds s (w [(54, 2)]).toNat) &&
    (let f : Nat × List (List (Option Nat)) := (0, [])
     isOk (MSlot.step { a := some f, b := some f } false) && !isOk (MSlot.step {} false) && isOk (MSlot.accumulate { buf := some false } 4096) &&
       !isOk (MSlot.accumulate {} 4096)) &&
    lists (.muStep (w [(57, 1)])) (2 ^ 57) && lists (.muAcc 0) 0 && lists (.muSparse (w [(56, 2)])) (2 * 2 ^ 56) && field (2 * 2 ^ 56) 56 2 != 3 &&
    lists (.muScale (w [(54, 1)])) (2 ^ 54) && gotOk (s.feedScale (mslot2 s).block false 1 0 0) &&
    lists (.muDrain (w [(24, 3)])) (3 * 2 ^ 24) && lists (.muDrain (w [(27, 8)])) (8 * 2 ^ 27) &&
    (mslot2 s).drainLeft.isNone && (mslot2 s).drainTile.isNone && !drainBad (mslot2 s) 0 (s.spmSize (mslot2 s).block) && drainBad (mslot2 s) 0 1 &&
    drainBad { mslot2 s with accPz := [0] } 0 (s.spmSize (mslot2 s).block) &&
    (match s.drainByte (mslot2 s).block (mslot2 s) 0 8 0 [5] with | .ok (_, rest) => rest == [] | _ => false) &&
    (s.ring (mslot2 s).block 1).usable && (s.ring (mslot2 s).block 1).full != 0 && lists (.muPop (w [(55, 1)])) (2 ^ 55) &&
    lists (.muLoop (w [(55, 1), (43, 4095)])) (2 ^ 55 + 4095 * 2 ^ 43) && [0, 1, 0xFFFF].all (fun v => (MSlot.wreg { w := [(1, BitVec.ofNat 64 v)] } 1) == v) &&
    inRoutine (s.rtEntry 4096 0x20) 1 && lists (.muSig (w [(55, 1), (54, 1)])) (3 * 2 ^ 54) && lists (.muSig (w [(55, 1)])) (2 ^ 55) &&
    s.inSpm (mslot2 s).block 0 16 && (mslot2 s).buf.isNone && (mslot2 s).nbytes == 0) = true := by
  decide +kernel
/-- A choice of two is the first or the second. -/
theorem choose_two (s : State) : s.choose 2 = (0, { s with count := s.count + 1 }) ∨ s.choose 2 = (1, { s with count := s.count + 1 }) := by
  unfold State.choose
  rcases Nat.mod_two_eq_zero_or_one (Config.pick s.count) with h | h <;> simp [h]
/-- Of two bytes left of a drain one is written, and one is left. -/
theorem witness_drain_goes_on :
    let s := routine {}
    (match s.drainByte (mslot2 s).block (mslot2 s) 0 8 0 [5, 6] with | .ok (_, rest) => rest != [] | _ => false) = true := by
  unfold State.drainByte
  rcases choose_two (routine {}) with h | h <;> simp only [List.length_cons, List.length_nil, h] <;> decide +kernel
/-- A barrier object of two parties at offset 32, as `x` changes it; the word's scalar operands; the group's registration entries. -/
def barState (i : Instr) (off n : W32) (x : Nat → Nat := id) (reg : Tab W64 := []) : State :=
  let s := bench 4096 i (fun y => { y with lanes := 3, s := [(2, off), (4, n)] }) (fun g => { g with reg := reg })
    (fun b => { b with rv := { objHi := 0xFFFFFF, semLo := 4, semHi := 8 } })
  s.write (s.spmAt (blockKey 4096 0) 32) (leBytes 16 (x (bInit 2)))
/-- The object is placed, well-formed where `form`; `pre` holds of it. -/
def placedAt (i : Instr) (s : State) (live form : Bool) (pre : Cx → State → Bool := fun _ _ => true) : Bool :=
  match guardingOf i with
  | some gd => meets s i gd (fun cx t =>
      let o := (t.opS cx.k cx.e 2).toNat
      (t.barPlace cx.k o live).isNone && (t.rangeHold (t.group cx.k).block [(none, (o : Int), (o : Int) + 16)]).isNone &&
        (t.wakeFor (t.group cx.k).block [o]).isNone && (!form || (!t.barBusy cx.k o && bWf (t.barSeen cx.k o))) && pre cx t)
  | none => false
/-- Objects well-formed in each state, missing and misplaced; counts at the end of their range; entries free, taken and full. -/
theorem witness_BarrierWords :
    let two : XForm := xf 0 2 4 0 7 0
    let one : XForm := xf 0 2 0 0 7 0
    let reg (n : Nat) : Tab W64 := (List.range n).map (fun j => (j, BitVec.ofNat 64 (64 + 16 * j + 1)))
    let mine : Tab W64 := [(0, 65), (1, 33)]
    let off := 32
    let bar (cx : Cx) (t : State) : Nat := t.barSeen cx.k 32
    ([0, 0xFFFF, 0x10000].all (fun n => placedAt (.binit two) (barState (.binit two) off n) false false) &&
    [0, 0x7FFFFFFF, 0x80000000].all (fun n => [Instr.barr (xf 6 2 4 0 0 4), .barr two, .bexp two].all (fun i => placedAt i (barState i off n) true true)) &&
    placedAt (.bdrop one) (barState (.bdrop one) off 0) true true &&
    placedAt (.bjoin one) (barState (.bjoin one) off 0 id mine) true true (fun cx t => (t.group cx.k).regFor 32 == some 1) &&
    [0, 15].all (fun j => placedAt (.bjoin one) (barState (.bjoin one) off 0 id (reg j)) true true (fun cx t =>
      ((t.group cx.k).regFor 32).isNone && !regValid (tget 0 (t.group cx.k).reg j) && (List.range j).all (fun m => regValid (tget 0 (t.group cx.k).reg m)))) &&
    placedAt (.bjoin one) (barState (.bjoin one) off 0 id (reg 16)) true true (fun cx t => ((t.group cx.k).regFor 32).isNone) &&
    placedAt (.bleave one) (barState (.bleave one) off 0 id mine) true false (fun cx t => (t.group cx.k).regFor 32 == some 1) &&
    placedAt (.bleave one) (barState (.bleave one) off 0 id (reg 16)) true false (fun cx t => ((t.group cx.k).regFor 32).isNone) &&
    [0, 1].all (fun n => placedAt (.bwait two) (barState (.bwait two) off n) true true (fun cx t =>
      bState (bar cx t) == 0 && bPhase (bar cx t) % 2 == 0 && t.opS cx.k cx.e 4 == n && !t.bwaitEnded cx.k cx.e n.toNat)) &&
    placedAt (.bwait two) ((barState (.bwait two) off 0).setSub (groupKey 4096 0) 0
        { (barState (.bwait two) off 0).sub (groupKey 4096 0) 0 with
          wait := some { kind := 1, item := 32, addr2 := 0, since := 0, limit := 10, watch := some ((barState (.bwait two) off 0).spmAt (blockKey 4096 0) 32), seen := 2 } })
      true true (fun cx t => bState (bar cx t) == 0 && bPhase (bar cx t) % 2 == 0 && t.bwaitEnded cx.k cx.e 0) &&
    placedAt (.bwait two) (barState (.bwait two) off 0 (fun x => bFault x 1)) true true (fun cx t => bState (bar cx t) != 0) &&
    placedAt (.bpoll (xf 4 2 0 0 0 0)) (barState (.bpoll (xf 4 2 0 0 0 0)) off 0 (fun _ => 0)) true false &&
    [Instr.binit two, .barr two, .bexp two, .bdrop one, .bjoin one, .bleave one, .bwait two, .bpoll (xf 4 2 0 0 0 0)].all (fun i =>
      match guardingOf i with
      | some gd => meets (barState i 40 0) i gd (fun cx t => (t.barPlace cx.k (t.opS cx.k cx.e 2).toNat (opcodeOf i != 0x1A0)).isSome)
      | none => false)) = true := by
  decide +kernel
/-- Atomics near and far; semaphore numbers at and beyond the ends of the region's range, and of the device's. -/
theorem witness_AtomicAndSemaphoreWords :
    let fg (sb : BitVec 3) : MForm := mf_ 4 2 3 sb 0
    let fl (sb : BitVec 3) : MForm := mf_ 4 2 0 sb 0
    let offs (f : MForm) (cx : Cx) (t : State) : List (Nat × Int) := t.accessOffsets cx f 4 true false false
    let sem (i : Instr) (n : W32) (ok : Bool) : Bool :=
      match guardingOf i with
      | some gd => meets (barState i n 0) i gd (fun cx t => cx.ck != .control &&
          (decide ((t.blockOf cx.k).rv.semLo ≤ n.toNat) && decide (n.toNat ≤ (t.blockOf cx.k).rv.semHi)) == ok)
      | none => false
    let dev (i : Instr) (n : W32) : Bool :=
      match guardingOf i with
      | some gd => meets (bench 12288 i (fun y => { y with s := [(2, n)] })) i gd (fun cx _ => cx.ck == .control)
      | none => false
    let bind : Instr := .semBind (xf 2 4 6 0 7 0)
    let words : List Instr := [.semSig (.x (xf 0 2 4 0 7 3)), .semSig (.i (if_ 0 2 7 4)), .semPoll (xf 4 2 0 0 0 0)]
    (handled (.atomG (fg 0)) (rR + rW + rA) 4 4 (offs (fg 0)) && handled (.redG (fg 7)) (rR + rW + rA) 4 4 (offs (fg 7)) &&
    spmWord (.atomL (fl 0)) 4 4 true (offs (fl 0)) && spmWord (.redL (fl 7)) 4 4 true (offs (fl 7)) &&
    readyC bind && words.all (fun i => sem i 4 true && sem i 8 true && sem i 3 false && sem i 9 false && dev i 4095 && dev i 4096) &&
    placedAt bind (barState bind 32 5) true true (fun cx t => cx.ck != .control && (t.opS cx.k cx.e 4).toNat == 5 &&
      decide (t.bindingsOf (t.group cx.k).block < 16))) = true := by
  decide +kernel
/-- A copy of four bytes within the scratchpad. -/
def desc4 : List Byte := leBytes 64 (4096 * 2 ^ 472 + 8192 * 2 ^ 432 + 1 * 2 ^ 396 + 1 * 2 ^ 391 + 1 * 2 ^ 389 + 1) ++ leBytes 192 (4 * 2 ^ 96 + 4 * 2 ^ 64 + 2 ^ 32 + 1)
/-- `cp.go` with descriptor `d` at offset 0. -/
def cpState (d : List Byte) (c : List Copy := []) : State :=
  let s := hbench (.cpGo (xf 0 2 0 0 7 0)) (hreg 4096)
  { s.write (s.spmAt (blockKey 4096 0) 0) d with copies := c }
def copyOf (d : List Byte) : Copy :=
  { id := 1, block := blockKey 4096 0, ctx := 0, desc := d, srcH := {}, dstH := {}, srcReg := 0, dstReg := 0 }
/-- Descriptors good, empty, of no version, overlapping, and of an object; copies in flight started, landing, ended and failed; a ring's one tile. -/
theorem witness_CopyEngine :
    let i : Instr := .cpGo (xf 0 2 0 0 7 0)
    let read (cx : Cx) (t : State) (d : List Byte) : Bool :=
      let b := (t.group cx.k).block
      let p := (t.opS cx.k cx.e 2).toNat
      (t.checkSpm b 256 16 true [(0, (p : Int))]).isNone && (t.rangeHold b [(none, (p : Int), (p : Int) + 256)]).isNone &&
        (t.wakeFor b [p, p + 255]).isNone && (List.range 16).all (fun j => !t.ownBusy cx.k (t.spmAt b (p + 16 * j)) 16) && (List.range 256).map (fun j => (t.ownBytes cx.k (t.spmAt b (p + j)) 1).headD 0) == d
    let good (d : List Byte) (pre : Cx → State → Bool) : Bool :=
      meets (cpState d) i .any (fun cx t => read cx t d && (t.descReason (t.group cx.k).block d).isNone && pre cx t)
    let none_ := desc4.set 76 0
    let overlap := desc4.set 55 16
    let obj : List Byte := leBytes 64 (64 * 2 ^ 472 + 8192 * 2 ^ 432 + 1 * 2 ^ 396 + 1 * 2 ^ 389 + 3 * 2 ^ 384 + 1) ++ leBytes 192 (4 * 2 ^ 96 + 4 * 2 ^ 64 + 2 ^ 32 + 1)
    let y := copyOf desc4
    let fly (y : Copy) : State := { cpState desc4 [y] with arg := { a := 1 } }
    (good desc4 (fun _ _ => dSrcKind desc4 == 1 && dDstKind desc4 == 1 && dCount desc4 == 4 && copySpans desc4 {} {} {} == [(none, 4096, 4100), (none, 8192, 8196)]) &&
    good none_ (fun _ _ => dCount none_ == 0) &&
    meets (cpState (desc4.set 0 2)) i .any (fun cx t => read cx t (desc4.set 0 2) && (t.descReason (t.group cx.k).block (desc4.set 0 2)).isSome) &&
    good overlap (fun _ _ => copySpans overlap {} {} {} == [(none, 4096, 4100), (none, 4096, 4100)]) &&
    good obj (fun cx t => (t.descRegTrap cx.k cx.e 3).isNone && (t.descHandleTrap cx.k 3 (t.opH cx.k cx.e 3) (rR + rC)).isNone && dCount obj == 4) &&
    (let s := fly y
     s.copy s.arg.a == some y && s.copies == [y] && s.accesses == [] && y.after == [] && !dRing desc4) &&
    (let d := desc4.set 46 0x80
     let s := fly (copyOf d)
     dRing d && !(s.ring y.block (dRnum d)).usable) &&
    (let y := { y with started := true, left := [3] }
     let s := fly y
     s.copy s.arg.a == some y && !y.paused && (s.choose y.left.length).1 == 0 && (s.copyOffs y 3).all (fun o => !s.bankHeld s.nextId (s.spmAt y.block o)) &&
       s.copyOffs y 3 == [4099, 8195] && (s.wakeFor y.block (s.copyOffs y 3)).isNone && (tfind y.part 3).isNone && 2 ^ dEsize y.desc == 1 &&
       (match s.copyByte y 3 0 true with | .ok _ => true | _ => false)) &&
    ((fly y).copy 1).any (fun y => y.tile.isNone) &&
    (let y := { y with failed := some (2, 0x17) }
     let s := fly y
     s.copy s.arg.a == some y && (s.block y.block).copyFault.isNone) &&
    [0, 2, 5].all (fun who =>
      let s := { mbench i [] {} { ring4 with rsv := 1, taken := [(2, who, true)] } with arg := { a := blockKey 4096 0, b := 1 } }
      !s.arg.flag && (s.ring s.arg.a s.arg.b).taken == [(2, who, true)])) = true := by
  decide +kernel
/-- Of an element of two bytes, either may land first. -/
theorem witness_copy_part :
    let d : List Byte := leBytes 64 (4096 * 2 ^ 472 + 8192 * 2 ^ 432 + 1 * 2 ^ 396 + 1 * 2 ^ 393 + 1 * 2 ^ 391 + 1 * 2 ^ 389 + 1) ++
      leBytes 192 (4 * 2 ^ 96 + 4 * 2 ^ 64 + 2 * 2 ^ 32 + 2)
    let y := { copyOf d with started := true, left := [3] }
    let s : State := { cpState d [y] with arg := { a := 1 } }
    (2 ^ dEsize d == 2 && [0, 1].all (fun c =>
      (([0, 1] : List Nat).filter (· != ([0, 1] : List Nat).getD c 0)) != [] &&
      (match ({ s with count := s.count + 1 } : State).copyByte y 3 c false with | .ok _ => true | _ => false)) &&
    (match s.copyByte { y with part := [(3, [1])] } 3 1 true with | .ok _ => true | _ => false)) = true := by
  decide +kernel
/-- Word `i` on a group of a context that may signal, its handle with the right F, `u` the core. -/
def fabState (i : Instr) (regs : Tab W32) (u : Nat := 4096) (fen : Bool := true) (len : Nat := 4096) (g : Group → Group := id) : State :=
  let s := bench u i (fun y => { y with lanes := if u = 12288 then 1 else 3, s := regs, h := [(3, hreg len true 0x7F)] }) g
    (fun b => { b with rv := { objHi := 0xFFFFFF } })
  { s with contexts := [(0, { fen := fen })] }
/-- A fabric access of the group still outstanding. -/
def fabBusy (s : State) : State :=
  { s with accesses := [{ id := 1, group := groupKey 4096 0, entry := 0, block := blockKey 4096 0, kind := .load, accepted := true },
                        { id := 2, group := groupKey 4096 0, entry := 0, block := blockKey 4096 0, kind := .fabric 0, accepted := true }] }
/-- Each form ready, waiting, refused by its handle, and held by a copy; signals to chips and semaphores within and beyond their ranges. -/
theorem witness_FabricWords :
    let form (i : Instr) (need n : Nat) (u : Nat) (scalar : Bool) : Bool :=
      match guardingOf i with
      | some gd =>
        let offs (cx : Cx) (t : State) : List (Nat × Int) := t.fabricOffsets cx 4 n scalar
        let check (cx : Cx) (t : State) : Option TrapInfo := t.checkHandle cx.k (t.opH cx.k cx.e 3) 3 need n n (offs cx t)
        let go_ (cx : Cx) (t : State) : Bool := t.fabricReady cx.k && !t.fabricPaused cx.k (t.opH cx.k cx.e 3) (offs cx t)
        let hold (cx : Cx) (t : State) : Option Nat := t.rangeHold (t.group cx.k).block (objPlaces (t.opH cx.k cx.e 3) n (offs cx t))
        meets (fabState i [] u) i gd (fun cx t => go_ cx t && (check cx t).isNone && (hold cx t).isNone) &&
          meets (fabState i [] u true 0) i gd (fun cx t => go_ cx t && (check cx t).isSome) &&
          (u != 4096 || (meets (fabBusy (fabState i [])) i gd (fun cx t => !t.fabricReady cx.k) &&
            meets (copying (fabState i [])) i gd (fun cx t => go_ cx t && (check cx t).isNone && (hold cx t).isSome)))
      | none => false
    let x (xd : BitVec 8) (sb : BitVec 3) (mod : BitVec 7) : XForm := xf 6 3 4 xd sb mod
    let sig (ok : Cx → State → Bool) (regs : Tab W32) (fen : Bool) : Bool := [Instr.fsig (xf 2 4 6 0 7 0), .ffenceF (xf 2 4 6 0 7 0)].all (fun i =>
      meets (fabState i regs 4096 fen) i .any ok)
    let go (cx : Cx) (t : State) : Bool := t.fabricReady cx.k && !t.routeHeld (t.opS cx.k cx.e 2).toNat 0
    let fence : Instr := .ffence (xf 0 0 0 0 7 0)
    ([(4096, false), (12288, true)].all (fun p => form (.fst (x 0 7 0)) (rW + rF) 4 p.1 p.2 && form (.fst (x 0 7 1)) (rW + rF) 8 p.1 p.2 &&
      form (.fld (x 0 0 0)) (rR + rF) 4 p.1 p.2 && form (.fld (x 0 0 1)) (rR + rF) 8 p.1 p.2 && form (.fred (x 0 7 0)) (rR + rW + rA + rF) 4 p.1 p.2 &&
      form (.ffadd false (x 8 0 0)) (rR + rW + rA + rF) 4 p.1 true && form (.ffadd true (x 8 0 0)) (rR + rW + rA + rF) 8 p.1 true) &&
    meets (fabBusy (fabState fence [])) fence .any (fun cx t => t.fabricBusy cx.k) &&
    meets (fabState fence []) fence .any (fun cx t => t.fabricReady cx.k && !t.fabricBusy cx.k && (t.group cx.k).pend.isNone) &&
    meets (fabState fence [] 4096 true 0 (fun g => { g with pend := some ⟨2, 1, 3, 64, 0⟩ })) fence .any (fun cx t => t.fabricReady cx.k && !t.fabricBusy cx.k && (t.group cx.k).pend.isSome) &&
    meets (fabBusy (fabState (.fsig (xf 2 4 6 0 7 0)) [])) (.fsig (xf 2 4 6 0 7 0)) .any (fun cx t => !go cx t) &&
    sig (fun cx t => t.fabricReady cx.k) [(2, 4096)] true &&
    sig go [(2, 4095), (4, 4096)] true && sig go [(2, 4095), (4, 4095)] false && sig go [(2, 4095), (4, 4095)] true && sig go [(2, 0)] true) = true := by
  decide +kernel
/-- Outside a handler; in one, with a mask that fits, of no lanes, and of lanes that another sub-group has. -/
theorem witness_TrapReturnAndEscalation :
    let at_ (i : Instr) (h : Bool) (mask others : W32) : State := bench 4096 i (fun y => { y with lanes := 3 })
      (fun g => { g with handler := h, tr := { amask := mask, pc := 16, clause := 8 }, subs := g.subs ++ [(1, { st := 1, lanes := others })] })
    ([Instr.tret (xf 0 0 0 0 7 0), .tretN (xf 0 0 0 0 7 0)].all (fun i =>
      meets (at_ i false 3 0) i .any (fun cx t => !(t.group cx.k).handler) &&
      meets (at_ i true 0 0) i .any (fun cx t => (t.group cx.k).handler && (t.group cx.k).tr.amask == 0) &&
      meets (at_ i true 7 4) i .any (fun cx t => (t.group cx.k).handler && (t.group cx.k).tr.amask &&& (t.group cx.k).otherLanes cx.e != 0) &&
      meets (at_ i true 11 4) i .any (fun cx t => (t.group cx.k).handler && (t.group cx.k).tr.amask == 11 &&
        (t.group cx.k).tr.amask &&& (t.group cx.k).otherLanes cx.e == 0)) &&
    ready (.tesc (xf 0 4 0 0 7 0))) = true := by
  decide +kernel
/-- Word `i` on a control core over launch 7 of context `c`, one running block of it on a lattice core, and frames `fs` of it. -/
def ctlState (i : Instr) (regs : Tab W32) (c : Nat := 0) (pool : Bool := true) (fs : Tab Frame := []) (x : Block → Block := id) (esc : Bool := false) : State :=
  let s := bench 12288 i (fun y => { y with s := regs })
  let b := blockKey 4096 1
  let k := groupKey 4096 4
  { s with
    launches := [(7, { num := 7, ctx := c, pclass := 1, st := 3, total := 1, retired := 1 })], frames := fs
    contexts := [(0, { rtCount := 1 })]
    groups := s.groups ++ [(k, { present := true, block := b, escalated := esc })]
    blocks := s.blocks ++ [(b, x { present := true, launch := 7, groups := [k] })]
    hub := { s.hub with pool := { lcount := 2, en := pool } } }
def frame7 (q : Option Nat := none) : Tab Frame := [(1, { num := 1, launch := 7, block := 0, ctx := 0, unit := 4096, claim := {}, hold := true, queued := q })]
/-- Launches absent, another context's, and held; blocks resident, saved and queued; the pool off; regions in and beyond the table; every core and none. -/
theorem witness_LaunchAndContextWords :
    let at_ (i : Instr) (s : Instr → State) (pre : Cx → State → Bool) : Bool := meets (s i) i .slot pre
    let two : XForm := xf 6 2 4 0 0 0
    let one (mod : BitVec 7) : XForm := xf 6 2 0 0 0 mod
    let four (xc : BitVec 8) : XForm := xf 8 2 xc 0 0 0
    let esc : XForm := xf 6 2 4 8 0 1
    let gone : Block → Block := fun b => { b with present := false }
    let held (cx : Cx) (t : State) : Bool := (tfind t.launches (t.opS cx.k cx.e 2).toNat).any (fun l => l.ctx == t.ctxOf cx.k)
    (handled (.launch (xf 6 3 4 0 0 0)) rR 256 16 (fun cx t => [(0, ((t.opS64 cx.k cx.e 4).toNat : Int))]) &&
    [Instr.lquery (one 0), .cpreempt two, .cresume two, .cresumeEsc esc, .ctermL (one 1), .cquery (four 4)].all (fun i =>
      at_ i (fun i => ctlState i [(2, 6)]) (fun cx t => !held cx t) && at_ i (fun i => ctlState i [(2, 7)] 1) (fun cx t => !held cx t) &&
      at_ i (fun i => ctlState i [(2, 7)]) held) &&
    at_ (.cpreempt two) (fun i => ctlState i [(2, 7)] 0 false) (fun cx t => held cx t && !t.hub.pool.en) &&
    at_ (.cpreempt two) (fun i => ctlState i [(2, 7)] 0 true [] gone) (fun cx t => held cx t && t.hub.pool.en &&
      t.blocks.all (fun b => !(b.2.present && b.2.launch == 7))) &&
    at_ (.cpreempt two) (fun i => ctlState i [(2, 7)]) (fun cx t => held cx t && t.hub.pool.en &&
      (t.blocks.filter (fun b => b.2.present && b.2.launch == 7 && (t.launchOf 7).named 0 b.2.idx)).map (·.1) == [blockKey 4096 1] &&
      (t.freeFrames .lattice).head? == some 0 && (t.block (blockKey 4096 1)).saving.isNone && (t.group (groupKey 4096 4)).present) &&
    at_ (.cresume two) (fun i => ctlState i [(2, 7)]) (fun cx t => held cx t && t.frames == []) &&
    [0, 0xFFFFFFFF].all (fun j => at_ (.cresume two) (fun i => ctlState i [(2, 7), (4, j)] 0 true (frame7 none) gone) (fun cx t => held cx t && t.frames == frame7 none &&
      (t.frameOf 7 0).isSome)) &&
    at_ (.cresumeEsc esc) (fun i => ctlState i [(2, 7), (4, 0xFFFFFFFF)]) held &&
    at_ (.cresumeEsc esc) (fun i => ctlState i [(2, 7), (8, 0)] 0 true [] id true) (fun cx t => held cx t && t.findBlock 7 0 == some (blockKey 4096 1) &&
      (t.group (groupKey 4096 4)).escalated && ((t.sub cx.k cx.e).sreg 8).toNat == 0) &&
    at_ (.cterm (one 0)) (fun i => ctlState i [(2, 1)]) (fun cx t => (t.context (t.ctxOf cx.k)).rtCount == (t.opS cx.k cx.e 2).toNat) &&
    at_ (.cterm (one 0)) (fun i => (ctlState i []).write 0 (leBytes 64 (511 * 2 ^ 264 + 2 ^ 255 + 2 ^ 248))) (fun cx t => (t.resolveRegion (t.context (t.ctxOf cx.k)) 0).isSome) &&
    [0, 4096, 0xFFFFFFFF].all (fun n => at_ (.cqueryU (four 0)) (fun i => ctlState i [(2, n)]) (fun _ _ =>
      (unitsOf .lattice ++ unitsOf .stream).contains n.toNat == (n == 4096)))) = true := by
  decide +kernel
/-- The machine after reset with nothing pending, its event's argument `x`. -/
def still (x : EventArg := {}) : State := { State.reset with agenda := [], arg := x }
/-- Context 0 is bound: region 0 of every object and semaphore at address 0, object 5 resident at 65536, object 6 not resident. -/
def space (x : EventArg := {}) : State :=
  let s := { still x with contexts := [(0, { rtCount := 1, otBase := 4096, otCount := 8, bound := true, lmask := 1 })] }
  let ent (base : Nat) : Nat := 2 ^ 120 + 2 ^ 111 + 2 ^ 86 + base * 2 ^ 32
  ((((s.write 0 (leBytes 64 (511 * 2 ^ 264 + 2 ^ 255 + 2 ^ 254 + 2 ^ 248 + 0xFFFFFF * 2 ^ 368 + 0xFFF * 2 ^ 344 + 0xFFFFFFFFFFFF * 2 ^ 296))).write (4096 + 80)
    (leBytes 16 (ent 8192))).write (4096 + 96) (leBytes 16 (ent 8208))).write 8192 (leBytes 16 (65536 * 2 ^ 64 + 2 ^ 47))).write 8208 (leBytes 16 (131072 * 2 ^ 64))
/-- A descriptor of one block of one group in object 5, of progress class 1, as changed by `x`. -/
def launchDesc (x : Nat := 0) : List Byte :=
  leBytes 112 (2 ^ 416 + 2 ^ 448 + 2 ^ 480 + 1 * 2 ^ 247 + 1 * 2 ^ 207 + 1 * 2 ^ 163 + 1 * 2 ^ 160 + 1 * 2 ^ 156 + 1 + x) ++
    leBytes 144 (mkHandle 5 1 rX 0 4096 true).bits.toNat
def submitted (d : List Byte) (ctx : Nat := 0) : PendingLaunch :=
  { group := 0, entry := 0, slot := 0, seq := 3, dst := 4, ctx := ctx, desc := d, tags := [], supervisor := true, region := 0 }
def request (slot : Option Nat) (n : Nat) (kind : Nat := 0) : Request := { id := 9, block := blockKey 4096 0, group := groupKey 4096 0, entry := 0, kind := kind, n := n, slot := slot }
/-- A launch of the descriptor above. -/
def launch7 (st : Nat) (d : List Byte := launchDesc) : Launch :=
  { num := 7, desc := d, pclass := 1, st := st, total := 1, rv := { objHi := 0xFFFFFF, semHi := 0xFFF } }
/-- The checker with requests new, waiting, granted and refused; submissions accepted, refused twice over and waiting; a launch at each point of its life. -/
theorem witness_CheckerWorkAndLaunching :
    let core (c : Core) : State := { bench 4096 (.nop (tf 0 0 0 0 0)) id id id (fun _ => c) with arg := { a := 4096 } }
    let q := request none 1
    let w := request (some 2) 1
    let sub (p : PendingLaunch) (bound : Bool := true) : State :=
      let s := space { a := 3 }
      { s with pendingLaunches := [p], contexts := s.contexts.map (fun c => (c.1, { c.2 with bound := bound })) }
    let judged (p : PendingLaunch) (bound : Bool := true) : Judged := (({ sub p bound with pendingLaunches := [] } : State).judgeLaunch p).1
    let la (l : Launch) : State := { space { a := 7, b := 5, c := 6 } with launches := [(7, l)] }
    let sched (l : Launch) : State := { space with launches := [(7, l)], ready := [7] }
    let placed (p : Placed) (n : Nat) : Bool := match p with | .ok _ b => b.length == n | _ => false
    let noRoom (p : Placed) : Bool := match p with | .no => true | _ => false
    let start (x : Group → Group) : State := bench 12288 (.nop (tf 0 0 0 0 0)) id x
    ([core { requests := [q] }, core { scan := [9], waiters := [w] }, core { check := some (q, 0) }, core { check := some (q, 1) }, core { check := some (w, 2) },
      core { check := some (w, 0), waiters := [w] }].all (fun s => !s.relocking s.arg.a) &&
    (match judged (submitted (launchDesc)) with | .accept _ _ => true | _ => false) && judged (submitted (launchDesc)) false == .status 0x0C &&
    judged (submitted []) == .status 1 && judged (submitted (launchDesc (6 * 2 ^ 312 + 2 ^ 168))) == .wait &&
    (launch7 1).edgesIn == 0 && (tfind (la (launch7 1)).launches 7).isSome && (launch7 1).total != 0 && ({ launch7 1 with total := 0 } : Launch).total == 0 &&
    [6, 5].all (fun t => let s : State := { la { launch7 2 with passed := some 5 } with time := t }
                         (tfind s.launches s.arg.a).any (fun l => l.passed == some s.arg.b) && decide (s.arg.c ≤ s.time) == (t == 6)) &&
    (let s := la (launch7 2)
     decide (dsKickoff (launch7 2).desc ≤ s.time) && s.blocks == [] && ({ s with hub := { s.hub with sync := true } } : State).hub.sync) &&
    decide ((la (launch7 2)).time < dsKickoff ((launch7 2 (launchDesc (5 * 2 ^ 576))).desc)) &&
    (let l := { launch7 2 with pclass := 0 }
     let s := sched l
     s.frames == [] && decide ((s.launchOf 7).rv.prio < 16) && (s.launchOf 7).st == 2 && decide ((s.launchOf 7).next < (s.launchOf 7).total) &&
       placed (s.placeGang l 4096 0) 0 && noRoom (({ s with contexts := [] } : State).placeGang l 4096 0)) &&
    placed ((sched (launch7 2)).placeNext (launch7 2) 0 false) 1 && noRoom (({ sched (launch7 2) with contexts := [] } : State).placeNext (launch7 2) 0 false) &&
    (regAt (2 ^ 41 + 48 * 2 ^ 24 + 0x400)).1 == .start 0 0 && ((start id).group (groupKey 12288 0)).present &&
    ((start (fun g => { g with exited := true })).group (groupKey 12288 0)).exited && !(still.group (groupKey 12288 0)).present) = true := by
  decide +kernel
/-- A context register's writes; queues in each state, with entries to fetch, fetching and paging. -/
theorem witness_ContextsAndQueues :
    let reg (pa : Nat) (data : List Byte) (s : State) : State := { s with arg := { a := pa, data := data } }
    let hubAt (h : Nat) : Nat := 2 ^ 41 + h
    let ctx (c : Context) (data : List Byte := [0]) : State := reg (hubAt 0x2000) data { still with contexts := [(0, c)] }
    let q (x : Queue) (c : Context := { rtCount := 1 }) : State := reg (hubAt 0x10000) (leBytes 8 0x300) { still with contexts := [(0, c)], queues := [(0, x)] }
    let one (s : State) : Bool := bitAt (wroteBits (regAt s.arg.a).2 s.arg.data) 1
    ([Reg.context 0, .queue 0].map (fun r => r == (regAt (hubAt 0x2000)).1) == [true, false] && (regAt (hubAt 0x10000)).1 == .queue 0 &&
    regAt (hubAt 0x100000) == (.doorbell 0, 0) &&
    !one (ctx {}) && one (ctx {} [2]) && (ctx { bound := true }).holdsNothing 0 &&
    !({ ctx { bound := true } with launches := [(7, launch7 1)] } : State).holdsNothing 0 && ((ctx { bound := true }).context 0).bound &&
    [0, 1, 2, 3].all (fun st => ((q { st := st, log2n := 4 }).queue 0).st == st) &&
    (q { log2n := 4 }).inHbm 0 (64 * 2 ^ 4) && !((q { log2n := 4 }).context 0).torn &&
    (let s := q { st := 1, log2n := 4, tail := 5, head := 2, pend := 7 }
     (s.queue 0).head != (s.queue 0).tail && decide ((s.queue 0).pend < 8) && (s.queue 0).loc != 2 && (leBytes 4 5).length == 4) &&
    ((q { st := 1, fetching := true }).queue 0).fetching && ((q { st := 1, paging := true }).queue 0).paging && ((q { st := 4 }).queue 0).st == 4) = true := by
  decide +kernel
/-- R443: in a block that is being saved, a queue group within its clause goes on until a wait holds it, and its image has the tokens taken. -/
theorem test_stream_save_stops_in_wait :
    let s (w : Option WaitRec) : State :=
      bench 8192 (.nop (tf 0 0 0 0 0)) (fun y => { y with wait := w }) id (fun b => { b with saving := some (0x8000, true, 0) })
    let w : WaitRec := { kind := 1, item := 0, addr2 := 0, since := 0, limit := 1 }
    ((s none).runnable.length == 1 && !(s none).groupStopped (groupKey 8192 0) && (s (some w)).runnable.isEmpty && (s (some w)).groupStopped (groupKey 8192 0) &&
      ((s (some w)).sub (groupKey 8192 0) 0).saved.tokTaken) = true := by
  decide +kernel
/-- A block whose groups have exited, with work left and without; one being saved; saved blocks to resume, with their header and without. -/
theorem witness_BlocksEndAndResume :
    let b := blockKey 4096 0
    let s (x : Block → Block) (g : Group → Group := id) : State := { bench 4096 (.nop (tf 0 0 0 0 0)) id g x with arg := { a := b } }
    let gone : Group → Group := fun g => { g with exited := true, subs := [] }
    let busy (s : State) : State := { s with copies := [copyOf desc4] }
    let save : Block → Block := fun x => { x with launch := 7, saving := some (2, true, 0) }
    let fr (hold : Bool) : Frame := { num := 1, launch := 7, block := 0, ctx := 0, unit := 4096, claim := {}, hold := hold, queued := some 0 }
    let r : State := { space { a := 1 } with launches := [(7, launch7 3)], frames := [(1, fr false)], hub := { space.hub with pool := { lbase := 0x10000, lcount := 4, en := true } } }
    let fits : State := { r with blocks := [], frames := [(1, fr false)] }
    let head (s : State) : State := s.write (s.frameBase 1) (leBytes 64 (7 * 2 ^ 416 + 4096 * 2 ^ 368 + 1 * 2 ^ 352))
    (((s id gone).block b).present && !((s id gone).block b).terminated && ((s id gone).group (groupKey 4096 0)).exited && !(s id gone).blockBusy b &&
    (busy (s id gone)).blockBusy b && !(s id gone).relocking 4096 &&
    ((s save).block b).saving == some (2, true, 0) && !(s save (fun g => { g with trapping := some (0, { cause := 1 }) })).groupStopped (groupKey 4096 0) && (s save gone).groupStopped (groupKey 4096 0) &&
    !(s save gone).blockBusy b &&
    (tfind r.frames r.arg.a).any (fun f => r.withFrame f == [f] && f.queued.isSome && r.frames.all (fun g => !(g.2.goesBefore f && r.resumeFits g.2))) &&
    fits.resumeFits (fr false) && !fits.headerOk (fr false) && (head fits).resumeFits (fr false) && (head fits).headerOk (fr false)) = true := by
  decide +kernel
/-- A lattice core's group at a clause of object 5, whose header is `h`; its code handle's rights. -/
def fetching (h : Nat) (x : Sub → Sub := id) (rights : Nat := rX) : State :=
  let b := bench 4096 (.nop (tf 0 0 0 0 0)) (fun y => x { y with clause := none, headerMet := false, pc := 64, h := [(9, mkHandle 5 1 rights 0 65536 true)] }) id
    (fun b => { b with rv := { objHi := 0xFFFFFF } })
  { ({ space with cur := b.cur, groups := b.groups, cores := b.cores, blocks := b.blocks } : State).write (65536 + 64) (leBytes 8 h) with codePast := [] }
/-- Clauses good, of no mark, that the handle does not reach, and behind a failure to report; signals, waits, sleeps, commits and failures in time and before it. -/
theorem witness_GroupEvents :
    let k := groupKey 4096 0
    let b := blockKey 4096 0
    let s := fetching 0x5A
    let h := s.codeHandle k 0
    let check (s : State) (pc n : Nat) : Bool := match (s.codeCheck k (s.codeHandle k 0) pc n).1 with | .ok _ => true | .fail _ _ => false
    let word (s : State) : Nat := match s.codeCheck k h 64 8 with
      | (.ok exts, t) => (t.codeWord (t.codeCtx k) h.obj exts 64).1.toNat
      | _ => 0
    let bad : State := fetching 0x5A (fun y => { y with portTraps := [(none, { cause := 1 }, 4)] })
    let ev (x : EventArg) (g : Group → Group := id) (y : Sub → Sub := id) (bl : Block → Block := id) : State :=
      { bench 4096 (.nop (tf 0 0 0 0 0)) y g bl with arg := x }
    let busy (s : State) : State := { s with accesses := [{ id := 3, group := k, entry := 0, block := b, kind := .store }] }
    let w : WaitRec := { kind := 1, item := 32, addr2 := 0, since := 5, limit := 10 }
    let waits (t : Nat) (poll : Bool) : State := { ev { a := k } id (fun y => { y with wait := some w }) with time := t, lastPoll := if poll then some (k, 0) else none }
    let trap : Group → Group := fun g => { g with trapping := some (0, { cause := 1 }) }
    let fails (u : Nat) (sus : Bool) : State :=
      let s := bench u (.nop (tf 0 0 0 0 0))
      { s with arg := { a := 3 }, accesses := [{ id := 3, group := groupKey u 0, entry := 0, block := blockKey u 0, kind := .load, fail := some { cause := 0x11 }, suspends := sus }] }
    (s.cur == .group k 0 && (s.boundaryTrap k 0).isNone && !(s.sub k 0).badPc && (bad.boundaryTrap k 0).isSome && check s 64 8 && word s == 0x5A &&
    (headerFail .lattice 0x5A).isNone && word (fetching 0x5B) == 0x5B && (headerFail .lattice 0x5B).isSome && !check (fetching 0x5A id 0) 64 8 &&
    check s 72 8 && (bodyFail .lattice 64 0 [0]).isNone && ((s.sub k 0).resumeAt).isNone &&
    ((ev { a := k } (fun g => { g with sigs := [(1, [3])] })).group k).sigs == [(1, [3])] && (ev { a := k }).signalReady [3] && !(busy (ev { a := k })).signalReady [3] &&
    ((ev { a := k } (fun g => { g with sigs := [(4, [3])] })).signalHeld k).isNone &&
    [(14, true), (15, true), (15, false)].all (fun p => ((waits p.1 p.2).sub k 0).wait == some w && ((waits p.1 p.2).lastPoll == some (k, 0)) == p.2) &&
    !(ev { a := k } (fun g => { g with sleeping := some 4 })).relocking 4096 && (ev { a := k, flag := true } trap).canEnter k &&
    !(busy (ev { a := k, flag := true } trap)).canEnter k && ((ev { a := k }).sub k 0).live && (ev { a := k }).regionAccepted k 0 &&
    [(4096, true), (4096, false), (12288, true), (12288, false)].all (fun p => ((fails p.1 p.2).access 3).any (fun a => a.fail.isSome && a.suspends == p.2) &&
      ((fails p.1 p.2).rollbackSub (groupKey p.1 0) 0 |>.group (groupKey p.1 0)).trapping.isNone)) = true := by
  decide +kernel
/-- Accesses to accept, to refuse and to perform; one that waits, and one that is gone. -/
theorem witness_AccessPerformance :
    let k := groupKey 4096 0
    let el (obj : Nat) : Elem := { lane := 0, off := obj, obj := obj, n := 4, data := [1, 2, 3, 4] }
    let acc (kind : AccKind) (el : Elem) (obj : Nat := 5) : Access :=
      { id := 3, group := k, entry := 0, block := blockKey 4096 0, kind := kind, hbits := (mkHandle obj 1 3 0 65536 true).bits, elems := [el], seq := 9, slot := some 2 }
    let at_ (a : Access) : State := { space { a := 3 } with accesses := [a], groups := (bench 4096 (.nop (tf 0 0 0 0 0))).groups }
    let port (a : Access) (e : Elem) : Bool := match ((at_ a).portElem a e).1 with | .ok _ => true | .error _ => false
    let ready (a : Access) : Access := { a with accepted := true, release := 1, elems := a.elems.map (fun e => { e with loc := .mem 4096 }) }
    let error (a : Access) (e : Elem) : Nat := match ((at_ a).portElem a e).1 with | .ok _ => 0 | .error st => st
    ([AccKind.load, .store].all (fun kd => port (acc kd (el 8)) (el 8) && !([0, 8] : List Nat).contains (error (acc kd (el 65536)) (el 65536)) && error (acc kd (el 8) 6) (el 8) == 8) &&
    [AccKind.load, .store, .atom 0].all (fun kd =>
      let a := ready (acc kd (el 8))
      (at_ a).access 3 == some a && (at_ a).accessReady a && (at_ a).elemReady a 0 { el 8 with loc := .mem 4096 } && !(at_ a).cached a &&
        ((at_ a).wakeElem { el 8 with loc := .mem 4096 }).isNone && !(at_ a).bankLost a.id 4096 && !(at_ a).poisoned 4096 4) &&
    (let s := (at_ (ready (acc .load (el 8)))).setGroup k { ((at_ (ready (acc .load (el 8)))).group k) with subs := [(0, { st := 1, slots := [(2, { st := .busy, seq := 9 })] })] }
     ((s.sub k 0).slot 2).st == .busy && ((s.sub k 0).slot 2).seq == 9) &&
    (atomNew 0 5 7).isSome && (atomNew 14 5 7).isNone && !(at_ { ready (acc .store (el 8)) with release := 0 }).accessReady { ready (acc .store (el 8)) with release := 0 } &&
    ((space { a := 3 }).access 3).isNone) = true := by
  decide +kernel
/-- Banks waking and resting; one update to a barrier object; stores to a semaphore and to registers of every kind of action. -/
theorem witness_UnitEvents :
    let bank (flag : Bool) (c : Core) (g : Group → Group := id) : State := { bench 4096 (.nop (tf 0 0 0 0 0)) id g id (fun _ => c) with arg := { a := 4096, b := 3, flag := flag } }
    let rest := bank false { regBank := [(3, .on)] } (fun g => { g with exited := true })
    let b := blockKey 4096 0
    let up : BarUpdate := .fault 1
    let bar := let s := barState (.nop (tf 0 0 0 0 0)) 0 0
      { s.setBlock b { s.block b with updates := [(32, up)] } with arg := { a := b, b := 32 } }
    let store (pa : Nat) (d : List Byte) : State := still { a := pa, data := d }
    let one (s : State) : Option (Reg × Nat) := match regPieces s.arg.a s.arg.data with | [(r, o, d)] => if d = s.arg.data then some (r, o) else none | _ => none
    (tget .off ((bank false { regBank := [(3, .waking false)] }).core 4096).regBank 3 == .waking false &&
    tget .off ((bank true { spmBank := [(3, .waking true)] }).core 4096).spmBank 3 == .waking true &&
    (tget .off (rest.core 4096).regBank 3 == .on && rest.bankLive 4096 3 && rest.groups.all (fun p => p.2.resting && (rest.block p.2.block).rv.bpol == 0)) &&
    (bar.block b).updates.filter (fun p => p.1 == 32) == [(32, up)] && (bar.wakeFor b [32]).isNone && (bar.setBlock b { bar.block b with updates := [] }).barLive b 32 &&
    one (store (3 * 2 ^ 40 + 8) (leBytes 8 7)) == some (.sem 1, 0) && one (store (2 ^ 41 + 0x58000) [0]) == some (.isolation, 0) && still.boot.active.isNone &&
    (still.regAction .isolation 0 [0]).isNone && (still.regAction (.context 0) 0 [4]) == some .contextTeardown &&
    one (store (2 ^ 41 + 0x2000) [4]) == some (.context 0, 0)) = true := by
  decide +kernel
/-- A power register's store, relocks, trips of every die, the heartbeat in time and late, and a die isolated. -/
theorem witness_PowerAndDies :
    let at_ (a : Nat) (h : Hub → Hub := id) (d : List Byte := []) (flag : Bool := false) : State :=
      let s := still { a := a, data := d, flag := flag }
      { s with hub := h s.hub }
    (regPieces (2 ^ 41 + 0x5C000) [1] == [(.power 0, 0, [1])] && ((at_ 0 (fun h => { h with power := [(0, { relock := true })] })).powerOf 0).relock &&
    clustersOf 0x21 == [33] && !(at_ 0 (fun h => { h with lapsed := false })).hub.lapsed && (at_ 0 (fun h => { h with lapsed := true })).hub.lapsed &&
    [0, 999999, 1000000].all (fun t => let s : State := { at_ 0 with time := t }; decide (s.hub.lastBeat + 1000000 ≤ s.time) == (t == 1000000)) &&
    (at_ 0 id [] true).arg.flag && (at_ 0 (fun h => { h with isoDie := 0x10, isolated := [0x10] })).hub.isolated.contains 0x10 &&
    (at_ 0x10).dieAt 0x10 && !(at_ 0x10).hub.isolated.contains 0x10) = true := by
  decide +kernel
/-- Each step of power-on; the host's memory on and off; interrupts masked and pending; an error's site. -/
theorem witness_PowerOnAndHost :
    let at_ (a : Nat) (b : Boot → Boot) (d : List Byte := []) (flag : Bool := false) : State :=
      let s := still { a := a, data := d, flag := flag, b := 16, site := some (.granule 64) }
      { s with boot := b s.boot }
    let on : Boot → Boot := fun b => { b with memActive := true, hdmSize := 4096 }
    ([0, 1, 2, 3, 4].all (fun a => (at_ a id).arg.a == a) && (at_ 6 (fun b => { b with step := 5 })).boot.step == 5 &&
    (at_ 4097 (fun b => { b with step := 4 })).boot.step == 4 && ((at_ 2 id).write (2 ^ 42) [1]).mainStatus == 1 &&
    [(0, true), (0, false)].all (fun p => let s := at_ p.1 on (leBytes 64 5) p.2; s.boot.memActive && decide (p.1 + s.arg.data.length ≤ s.boot.hdmSize) && decide (p.1 + s.arg.b ≤ 4096)) &&
    (at_ 4097 id).arg.a / 256 ∈ allDies && 4097 % 256 ∈ unitBytes (4097 / 4096) && (48 * 256 + 240) / 256 ∈ allDies && 240 ∈ unitBytes ((48 * 256 + 240) / 4096) &&
    [(3, false), (1, true)].all (fun p => let s : State := { still { a := 64, b := 4, c := p.1, flag := p.2, data := leBytes 8 5 } with boot := {} }
                                          s.arg.c == p.1 && s.arg.flag == p.2 && !s.boot.safe && decide (s.arg.a < 2 ^ 20)) &&
    !(at_ 0 id).boot.memActive && decide (4096 < 4040 + (at_ 4040 on (leBytes 64 5)).arg.data.length) && decide (2 ^ 60 ≤ (at_ (2 ^ 60 + 128) id).arg.a) &&
    (at_ 0 id).arg.site.isSome) = true := by
  decide +kernel
/-- Where the signature check accepts an empty image, so does the recovery set. -/
theorem witness_recovery_set (h : imageVerifies [] = true) : ((still { a := 2 }).write (2 ^ 42) [1]).mainStatus ≠ 0 ∧ ((still { a := 2 }).write (2 ^ 42) [1]).recoveryOk = true := by
  have e : ∀ k ∈ List.range 4, ((still { a := 2 }).write (2 ^ 42) [1]).imageBytes 1 k = some [] := by decide +kernel
  refine ⟨by decide +kernel, ?_⟩
  unfold State.recoveryOk
  rw [List.all_eq_true]
  intro k hk
  rw [e k hk]
  exact h
/-- A main set whose images are empty, where the signature check accepts them. -/
theorem witness_main_set (h : imageVerifies [] = true) : (still { a := 2 }).mainStatus = 0 := by
  have e : ∀ k ∈ List.range 4, (still { a := 2 }).imageBytes 0 k = some [] := by decide +kernel
  have z : ∀ k ∈ List.range 4, (still { a := 2 }).imageStatus k [] = 0 := by
    intro k _
    unfold State.imageStatus
    rw [h]
    rfl
  unfold State.mainStatus
  simp [List.range, List.range.loop] at e z ⊢
  simp [e, z]
def mail (m : Mailbox) (x : EventArg := {}) (b : Boot → Boot := id) : State :=
  let s := still x
  { s with hub := { s.hub with mailbox := m }, boot := b s.boot }
/-- Commands of the hub, of the supervisor and of neither, in each state of the mailbox; the supervisor's answers at the ends of their ranges. -/
theorem witness_MailboxCommands :
    let hub (op : Nat) (safe pend signed : Bool) (n : Nat := 0) : State :=
      mail { pend := pend, signed := signed } { a := op, data := List.replicate n 1 } (fun b => { b with safe := safe })
    let cmd (op : Nat) (p : List Nat) : State :=
      mail { pend := true, opcode := op, len := 4, payload := (p.zipIdx.filter (fun x => x.1 != 0)).map (fun x => (x.2, BitVec.ofNat 8 x.1)) }
    (hubCommand 0x4000 == some .identifyMemoryDevice && hubCommand 0xC000 == some .getSelfTestTable && (hubCommand 0xC020).isNone &&
    [(true, false), (false, false), (false, true)].all (fun p => (hub 0xC020 p.1 false p.2).boot.safe == p.1 && (hub 0xC020 p.1 false p.2).hub.mailbox.signed == p.2) &&
    [2048, 2049].all (fun n => decide ((hub 0xC020 false false true n).arg.data.length ≤ 2048) == (n == 2048)) &&
    (let s := cmd 0xC020 [0, 0, 0, 0, 0, 0, 0, 0, 0, 0, 0, 0, 0, 0, 0, 0, 0, 0, 0, 16]
     s.payload 8 8 % 2 ^ 28 == 0 && s.payload 16 8 == 2 ^ 28 && decide (s.boot.hdmSize < s.payload 8 8 + s.payload 16 8) &&
       decide (s.payload 8 8 + s.payload 16 8 ≤ ({ s with boot := { s.boot with hdmSize := 2 ^ 28 } } : State).boot.hdmSize)) && (hub 0xC020 false true true).hub.mailbox.pend &&
    ((cmd 0xC020 [0, 0, 0, 0, 0, 0, 0, 0, 1]).payload 8 8 % 2 ^ 28 != 0 && (cmd 0xC020 []).payload 8 8 % 2 ^ 28 == 0 && (cmd 0xC020 []).payload 16 8 % 2 ^ 28 == 0) &&
    [0xC021, 0xC022, 0xC010, 0xC011, 0xC012, 0xC013].all (fun op => (cmd op [0]).hub.mailbox.pend && (cmd op [0]).hub.mailbox.opcode == op) &&
    ({ cmd 0xC021 [] with hub := { (cmd 0xC021 []).hub with grants := [(0, 0, 0)] } } : State).hub.grants == [(0, 0, 0)] &&
    ({ cmd 0xC011 [] with boot := { still.boot with active := some (1, 2) } } : State).activateStatus 0 12288 [] == 4 &&
    ((cmd 0xC010 []).write (2 ^ 42 + 16) (leBytes 16 (8192 + (2 ^ 23 - 8192) * 2 ^ 40))).stagePlaces 0 3 == [4096]) = true := by
  decide +kernel
/-- An image that the signature check accepts has status 0 where no counter stands against it, and its activation can begin. -/
theorem witness_accepted_image (bs : List Byte) (h : imageVerifies bs = true) :
    (still {}).imageStatus 0 bs = 0 ∧ ((still {}).versionsMeet 12288 (Config.imageRange bs) = true → (still {}).activateStatus 0 12288 bs = 0) := by
  have z : (still {}).imageStatus 0 bs = 0 := by
    unfold State.imageStatus
    rw [h]
    rfl
  refine ⟨z, fun hv => ?_⟩
  have a : (still {}).boot.active.isSome = false := rfl
  have u : ((!(still {}).unitOk 12288 || (still {}).hub.isolated.contains (12288 / 256)) || !(imageUnits 0).contains 12288) = false := by decide +kernel
  unfold State.activateStatus
  rw [a, u, z, hv]
  rfl
/-- And so has an image that it rejects a status other than 0. -/
theorem witness_rejected_image (bs : List Byte) (h : imageVerifies bs = false) : (still {}).imageStatus 0 bs ≠ 0 := by
  unfold State.imageStatus
  rw [h]
  exact Nat.one_ne_zero
/-- A packet of opcode `op` from chip 1, of lanes 0 alone where it has data. -/
def packet (op : Nat) (dst : Nat := 0) (status : Nat := 0) (lanes : W32 := 1) : Packet :=
  let n := if op = 1 ∨ op = 4 ∨ op = 0x21 ∨ op = 0x22 then 1 else 0
  { opcode := op, addr := if op = 4 ∨ op = 3 then 2 ^ 40 else 65536, lanes := lanes, value := 5, tag := 3, ftid := 0, dst := dst, src := 1, vsem := 2, ndata := n, op := 0
    esize := 2, status := status, hops := 4, reserved := 0, data := List.replicate (64 * n) 0 }
/-- Chip 0 with that packet, a context of its ftid, and an outstanding request to chip 1. -/
def chip0 (p : Packet) (x : EventArg := {}) (fen : Bool := true) : State :=
  let s := still { x with pkt := some p }
  let a : Access := { id := 6, group := groupKey 4096 0, entry := 0, block := blockKey 4096 0, kind := .store, elems := [{ lane := 0, off := 0, obj := 0, n := 4 }] }
  { s with
    contexts := [(0, { fen := fen, bound := true, semmap := [(2, 65536 + 9)], fsemHi := 4
                       windows := [(0, 7 * 2 ^ 52 + 2 ^ 55 + 1 * 2 ^ 56 + 65536 * 2 ^ 80), (1, 7 * 2 ^ 52 + 2 ^ 55 + 1 * 2 ^ 56 + 2 ^ 40 * 2 ^ 80)] })]
    accesses := [a], outstanding := [{ tag := 3, access := 6, elems := [0], req := packet 1 1, sent := 5, limit := 10, port := 0 }] }
/-- Requests and replies good and malformed, to this chip and to another, to a context with no fabric, to no request; limits, ports and time. -/
theorem witness_FabricPackets :
    let bad (p : Packet) : Packet := { p with reserved := 1 }
    let judged (p : Packet) (fen : Bool := true) : Option Nat := match (chip0 p {} fen).judgePacket p with | .ok c => some c | .error _ => none
    let port (x : Port) (c : Nat := 0) (t : Nat := 0) : State :=
      let s := still { a := 0, c := c }
      { s with hub := { s.hub with ports := [(0, x)] }, time := t }
    let own (ten gm : Bool) (t : Nat) : State :=
      let s := still { c := 5 }
      { s with hub := { s.hub with ten := ten, gm := gm, sync := false }, time := t }
    ((List.range 6).all (fun j => let p := packet (j + 1); let s := chip0 p
                                  (recvStep p.opcode).isSome && !s.packetWaits p s.arg.b && packetOk p && !packetOk (bad p) && p.dst == s.hub.chip &&
                                    (packet (j + 1) 9).dst != s.hub.chip && judged p == some 0 && (judged p false).isNone) &&
    [5, 6].all (fun o => (chip0 (packet o)).semOf 0 (packet o).vsem == some 9) && [1, 2, 3, 4].all (fun o => packetPieces (packet o) == [(0, 0)]) &&
    [0x20, 0x21, 0x22, 0x23].all (fun o => packetOk (packet o) && packetOk (packet o 0 2) && !(chip0 (packet o)).packetWaits (packet o) 0) &&
    (chip0 (packet 0x20)).outstanding.find? (fun o => o.tag == 3 && o.req.dst == 1) == some { tag := 3, access := 6, elems := [0], req := packet 1 1, sent := 5, limit := 10, port := 0 } &&
    ((chip0 (packet 0x20)).access 6).any (fun a => a.kind == .store) && !(chip0 { packet 0x20 with tag := 4 }).outstanding.any (fun o => o.tag == 4) &&
    [14, 15].all (fun t => let s : State := { chip0 (packet 1) { a := 3 } with time := t }
                           (s.outstanding.find? (fun o => o.tag == s.arg.a)).any (fun o => decide (o.sent + o.limit ≤ s.time) == (t == 15))) &&
    packetOk (packet 0x41 0 0 0) && packetOk (packet 0x40 0 0 0) &&
    (let s : State := { chip0 { packet 0x40 with src := 1 } with hub := { still.hub with ten := true, chip := 2, sync := false } }
     s.hub.ten && decide (1 < s.hub.chip) && !s.hub.sync) && !(chip0 (packet 0x40)).hub.ten &&
    [14, 15].all (fun n => ((((port { asks := List.replicate n 5 } 0 1000005).port 0).asks.filter (fun t => decide (1000005 ≤ t + 1000000))) ++ [1000005]).length == n + 1) &&
    (((port { asks := [5] } 0 1000006).port 0).asks.filter (fun t => decide (1000006 ≤ t + 1000000))) == [] && [1, 2, 3].all (fun st => ((port { st := st }).port 0).st == st) &&
    [(1, true), (0, false)].all (fun r => let s : State := { port { st := 2 } with boot := { linkRun := r.1 } }; (s.port 0).st == 2 && bitAt s.boot.linkRun (s.arg.a / 8) == r.2) &&
    [10000004, 10000005].all (fun t => let s := port { st := 3 } 5 t; decide (s.arg.c + 10000000 ≤ s.time) == (t == 10000005)) &&
    !(own false false 0).hub.ten && (own true false 5).hub.ten && (own true false 5).hub.ports == [] && decide ((own true false 5).arg.c ≤ 5) && !(own true false 5).hub.sync &&
    decide ((own true false 4).time < (own true false 4).arg.c) && [true, false].all (fun h => let s := own true false 5; ({ s with hub := { s.hub with heard := h } } : State).hub.heard == h) &&
    !(own true false 1000005).hub.gm && decide ((own true false 1000005).arg.c + 1000000 ≤ (own true false 1000005).time)) = true := by
  decide +kernel
def isNext (r : Host.Outcome State Fault Refusal) : Bool := match r with | .next _ => true | _ => false
theorem witness_InvariantAtReset : Machine.Inv State.reset := by
  unfold Machine.Inv
  decide +kernel
/-- The first step from reset, and a store's performance, from states of the invariant. -/
theorem witness_StepKeepsInvariant :
    (Memory.wf State.reset.mem && Memory.wf State.reset.hub.mailbox.payload && isNext (step State.reset) &&
    (let s := barState (.nop (tf 0 0 0 0 0)) 0 0
     Memory.wf s.mem && s.mem != [] && Memory.wf s.hub.mailbox.payload && isNext (exec (.nop (tf 0 0 0 0 0)) s))) = true := by
  decide +kernel
/-- Well-formed words with an encoding, a microinstruction, and a step that is no word. -/
theorem witness_EncodingRoundTrip :
    ([Instr.sadd (.t true (tf 1 2 3 4 0x1FF)), .cresumeEsc (xf 1 2 3 4 5 0x7F), .hintX 29 (tf 0 0 0 0 0)].all (fun i =>
      i.wf && (encode i).isSome && (guardingOf i).isSome && !isMicro i) &&
    ((Instr.muFeed 0x3FFFFFFFFFFFFFF).wf && (encode (.muFeed 0x3FFFFFFFFFFFFFF)).isSome && isMicro (.muFeed 0)) &&
    (Instr.resume.wf && (guardingOf .resume).isNone && !isMicro .resume)) = true := by
  decide +kernel
/-- Words at both ends of the reserved opcodes. -/
theorem witness_DecodingIsExact :
    ([0x1E0, 0x1FF, 0xFFFFFFFFFFFFFFFF].all (fun w => (decodeWord w).isNone) && [0, 0x1DF, 0xFFFFFFFFFFFFFFDF].all (fun w => (decodeWord w).isSome) &&
    [0x3000000000000000, 0xFFFFFFFFFFFFFFFF].all (fun w => (decodeMu w).isNone) && [0, 0x2FFFFFFFFFFFFFFF].all (fun w => (decodeMu w).isSome)) = true := by
  decide +kernel
/-- States in which a lattice group's word, a stream group's word, a clause, a routine, a pending event and a bank's rest are the one move. -/
theorem witness_StepRuns :
    let nop : Instr := .nop (tf 0 0 0 0 0)
    let nowOn (s : State) : State := { s with cur := .none, cores := [] }
    let first (s : State) : Option Turn := s.choices[(s.choose s.choices.length).1]?
    let issues (u : Nat) (t : State) : Bool := ((t.sub (groupKey u 0) 0).clause.bind (fun c => decodeWord (c.words.getD (t.sub (groupKey u 0) 0).idx 0))) == some nop
    let engine : State :=
      let s := bench 4096 nop id (fun g => { g with exited := true }) id (fun _ => { mslots := [(2, { st := 1, routine := 0x20, upc := 1 })], rt := [(0x20, 0x80001000)], store := [(1, 0x2C00000000000000)] })
      { s with cur := .none }
    let bank : State := { bench 4096 nop id (fun g => { g with exited := true }) id (fun _ => { regBank := [(3, .on)] }) with cur := .none }
    (first (nowOn (bench 4096 nop)) == some (.sub (groupKey 4096 0) 0) && issues 4096 (nowOn (bench 4096 nop)) &&
    (let s := nowOn (bench 8192 nop)
     first s == some (.sub (groupKey 8192 0) 0) && (match (s.choose s.choices.length).2.signalGate (groupKey 8192 0) with | .met t => issues 8192 t | .blocked _ => false)) &&
    (let s := nowOn (bench 4096 nop (fun x => { x with clause := none }))
     first s == some (.sub (groupKey 4096 0) 0) && (s.sub (groupKey 4096 0) 0).clause.isNone) &&
    (first engine == some (.engine 4096 2) && (match engine.engineNext 4096 2 with | .inl i => isMicro i | .inr _ => false)) &&
    (first State.reset == some (.pending 0) && State.reset.agenda[0]? == some { step := .powerOnReset }) &&
    (match first bank with | some (.own ev) => ev.step == .bankRetentionEnter | _ => false)) = true := by
  decide +kernel
/-- Words behind their header's waits, illegal, privileged, behind a commit, with a dead operand, with no lane, and with no sub-group to issue them. -/
theorem witness_IssueOutcomes :
    let nop : Instr := .nop (tf 0 0 0 0 0)
    let add : Instr := .sadd (.t false (tf 4 2 3 0 0))
    let k := groupKey 4096 0
    let header (i : Instr) (x : Sub → Sub) : State := bench 4096 i (fun y => x { y with headerMet := false, clause := some ⟨0, 0x2005A, [0], []⟩, slots := [(0, { st := .busy, seq := 3 })] })
    let met (g : Gate) : Bool := match g with | .met _ => true | .blocked _ => false
    let s := bench 4096 add
    let idle := bench 4096 add (fun y => { y with lanes := 0 })
    let store (i : Instr) : State := { bench 4096 i with accesses := [{ id := 3, group := k, entry := 0, block := blockKey 4096 0, kind := .store }] }
    ([nop, add].all (fun i => (guardingOf i).isSome && !met ((header i id).headerGate k 0)) && met (s.headerGate k 0) &&
    (s.decodeTrap .lattice false (.sadd (.t false (tf 4 2 3 0 3)))).isSome && !inProfile .control (opcodeOf (.vadd false (tf 4 2 3 0 0))) &&
    (bench 12288 (.vadd false (tf 4 2 3 0 0))).cur == .group (groupKey 12288 0) 0 &&
    inProfile .lattice (opcodeOf (.objinvCtx (xf 0 0 0 0 0 0))) && isPrivileged false (opcodeOf (.objinvCtx (xf 0 0 0 0 0 0))) &&
    (let i : Instr := .qsync (xf 0 0 0 0 7 0)
     ((store i).decodeTrap .lattice false i).isNone && !met ((store i).issueGate k 0 i (shape .lattice i) .any)) &&
    (let t := bench 4096 add (fun y => { y with sDead := 4 })
     met (t.issueGate k 0 add (shape .lattice add) .any) && (t.operandTrap k 0 add (shape .lattice add) (t.active k 0 (commonOf add))).isSome) &&
    !(State.reset.cur == .group k 0) && (idle.readyFor add .any).any (fun r => r.1.act == 0)) = true := by
  decide +kernel
theorem witness_RegisterWordsFrame :
    let i : Instr := .vadd false (tf 4 2 3 0 0)
    (registerWord i && guardingOf i == some .always && !((bench 4096 i).group (groupKey 4096 0)).handler && ((bench 4096 i).readyFor i .always).isSome &&
    isNext (exec i (bench 4096 i)) && ([(1 : Nat), 255, 256, 512, 1024, 1280].all (fun r => r != (Wr.s 2 7 false).key))) = true := by
  decide +kernel
/-- A group that can enter its handler, one that waits for an access, and one in its handler, with another sub-group. -/
theorem witness_TrapEntry :
    let s (h : Bool) : State := bench 4096 (.nop (tf 0 0 0 0 0)) id (fun g => { g with handler := h, subs := g.subs ++ [(1, { st := 1 })] })
    let k := groupKey 4096 0
    let busy : State := { s false with accesses := [{ id := 3, group := k, entry := 1, block := blockKey 4096 0, kind := .load }] }
    (!((s false).group k).handler && (s false).canEnter k && !busy.canEnter k && !(busy.group k).handler && ((s true).group k).handler &&
    ((s false).group k).subs.any (fun p => p.1 != 0)) = true := by
  decide +kernel
/-- Sixteen blocks; requests granted, of more than the claim, and unsafe. -/
theorem witness_ClaimCheckIsBankers :
    let r (n : Nat) : Res := { reg := n }
    ((List.replicate 16 (r 16, r 4)).length == 16 && claimCheck (r 256) (List.replicate 15 (r 16, r 4)) (r 16) (r 4) (r 12) == 0 &&
    claimCheck (r 256) [] (r 16) (r 4) (r 13) == 3 && claimCheck (r 10) [(r 10, r 4)] (r 10) (r 4) (r 2) == 2) = true := by
  decide +kernel

end Sys2Proof.Tests
end

section
/-! What the model keeps and what it starts from: every step keeps the canonical form of the memory and of the mailbox's payload (O52);
reset leaves the values the register tables give (O50), both forms among them (O51).

For O52 there is one lemma for each function of the model that returns a state, in the model's order and named after the function:
`Inv.f : Inv s → Inv (s.f …)`, or a variant of `Inv` where `f` returns a state inside another result. What `Inv` reads is
written in five places, whose lemmas use the `wf_` lemmas of Laws: `State.write`, `State.zero`, `State.copyRange`, `State.restart` and the
writes of the payload. Every other function is composed of those before it; an instruction whose effect
is one shared operation has its line in `OutInv.exec`, with the instructions that share it. -/
namespace Sys2Proof.Machine
open Laws

/-! ### The invariant through the results that carry a state -/

/-- The state of a passed or a blocked check. -/
def GateInv : Gate → Prop
  | .blocked s | .met s => Inv s

/-- The state that an instruction's effect carries. -/
def EffInv : Eff → Prop
  | .ok s _ _ | .jump s _ _ _ | .gone s | .trap s _ | .wait s _ _ _ | .stall s => Inv s

/-- The next state, where there is one. -/
def OutInv : Host.Outcome State Fault Refusal → Prop
  | .next s => Inv s
  | _ => True

/-- A state that may be missing. -/
def OptInv : Option State → Prop
  | none => True
  | some s => Inv s

/-- The state of a microcode word's effect. -/
def MuInv : MuEff → Prop
  | .go s _ | .jump s _ _ | .wait s | .over s => Inv s
  | .fault _ _ => True

/-- The state of a placement that succeeds. -/
def PlacedInv : Placed → Prop
  | .ok s _ => Inv s
  | _ => True

/-- The state of a copied byte, landed or not. -/
def LandInv : Land → Prop
  | .ok s | .fail s _ | .pause s _ => Inv s

/-- What an operand's read gives, or the state it waits in; `ok` says what holds of what it gives. -/
def GotInv {α : Type} (ok : α → Prop) : Got α → Prop
  | .ok x => ok x
  | .wait s => Inv s
  | .bad _ _ => True

section
variable {c : Prop} [Decidable c]

theorem Inv.ite {s t : State} (hs : Inv s) (ht : Inv t) : Inv (if c then s else t) := by
  split
  · exact hs
  · exact ht

theorem Inv.ite_snd {α : Type} {a b : α × State} (ha : Inv a.2) (hb : Inv b.2) : Inv (if c then a else b).2 := by
  split
  · exact ha
  · exact hb

theorem GateInv.ite {g g' : Gate} (hg : GateInv g) (hg' : GateInv g') : GateInv (if c then g else g') := by
  split
  · exact hg
  · exact hg'

theorem EffInv.ite {r r' : Eff} (hr : EffInv r) (hr' : EffInv r') : EffInv (if c then r else r') := by
  split
  · exact hr
  · exact hr'

theorem OutInv.ite {r r' : Host.Outcome State Fault Refusal} (hr : OutInv r) (hr' : OutInv r') : OutInv (if c then r else r') := by
  split
  · exact hr
  · exact hr'

theorem OptInv.ite {o o' : Option State} (ho : OptInv o) (ho' : OptInv o') : OptInv (if c then o else o') := by
  split
  · exact ho
  · exact ho'

theorem MuInv.ite {r r' : MuEff} (hr : MuInv r) (hr' : MuInv r') : MuInv (if c then r else r') := by
  split
  · exact hr
  · exact hr'

theorem PlacedInv.ite {r r' : Placed} (hr : PlacedInv r) (hr' : PlacedInv r') : PlacedInv (if c then r else r') := by
  split
  · exact hr
  · exact hr'

theorem LandInv.ite {r r' : Land} (hr : LandInv r) (hr' : LandInv r') : LandInv (if c then r else r') := by
  split
  · exact hr
  · exact hr'

theorem GotInv.ite {α : Type} {P : α → Prop} {g g' : Got α} (hg : GotInv P g) (hg' : GotInv P g') : GotInv P (if c then g else g') := by
  split
  · exact hg
  · exact hg'

end

section
variable {t : State}

theorem Inv.of_met {g : Gate} (h : g = .met t) (hg : GateInv g) : Inv t := by
  subst h
  exact hg

theorem Inv.of_blocked {g : Gate} (h : g = .blocked t) (hg : GateInv g) : Inv t := by
  subst h
  exact hg

theorem Inv.of_ok {r : Eff} {ws : List Wr} {n : Nat} (h : r = .ok t ws n) (hr : EffInv r) : Inv t := by
  subst h
  exact hr

theorem Inv.of_some {o : Option State} (h : o = some t) (ho : OptInv o) : Inv t := by
  subst h
  exact ho

theorem Inv.of_snd {α : Type} {p : α × State} {a : α} (hp : p = (a, t)) (h : Inv p.2) : Inv t := by
  subst hp
  exact h

theorem Inv.of_snd_fst {α β : Type} {p : α × State × β} {a : α} {b : β} (hp : p = (a, t, b)) (h : Inv p.2.1) : Inv t := by
  subst hp
  exact h

theorem Inv.of_muGo {r : MuEff} {m : MSlot} (h : r = .go t m) (hr : MuInv r) : Inv t := by
  subst h
  exact hr

theorem Inv.of_placed {r : Placed} {bs : List Nat} (h : r = .ok t bs) (hr : PlacedInv r) : Inv t := by
  subst h
  exact hr

theorem Inv.of_wait {α : Type} {P : α → Prop} {g : Got α} (h : g = .wait t) (hg : GotInv P g) : Inv t := by
  subst h
  exact hg

theorem Inv.of_gotOk {α : Type} {g : Got (State × α)} {x : α} (h : g = .ok (t, x)) (hg : GotInv (fun r => Inv r.1) g) : Inv t := by
  subst h
  exact hg

theorem OutInv.of_next {r : Host.Outcome State Fault Refusal} (h : r = .next t) (hr : OutInv r) : Inv t := by
  subst h
  exact hr

end

theorem GotInv.ok {α : Type} {t : State} {x : α} (h : Inv t) : GotInv (fun r => Inv r.1) (.ok (t, x)) := h

theorem Inv.getD {o : Option State} {s : State} (ho : OptInv o) (h : Inv s) : Inv (o.getD s) := by
  cases o with
  | none => exact h
  | some t => exact ho

/-! ### Folds -/

theorem Inv.foldl {β : Type} {f : State → β → State} {l : List β} {s : State} (hf : ∀ s b, Inv s → Inv (f s b)) (h : Inv s) :
    Inv (l.foldl f s) := by
  induction l generalizing s with
  | nil => exact h
  | cons b t ih => exact ih (hf _ b h)

theorem Inv.foldl_snd {α β : Type} {f : α × State → β → α × State} {l : List β} {p : α × State} (hf : ∀ p b, Inv p.2 → Inv (f p b).2)
    (h : Inv p.2) : Inv (l.foldl f p).2 := by
  induction l generalizing p with
  | nil => exact h
  | cons b t ih => exact ih (hf _ b h)

/-! ### Writes, and updates that leave the memory alone -/

theorem Inv.write {s : State} {k : Nat} {bs : List Byte} (h : Inv s) : Inv (s.write k bs) := ⟨wf_write k bs h.1, h.2⟩
theorem Inv.zero {s : State} {k n : Nat} (h : Inv s) : Inv (s.zero k n) := ⟨wf_zero k n h.1, h.2⟩

section
variable {s : State} {count nextId time : Nat} {cur : Agent} {lastPoll : Option (Nat × Nat)} {arg : EventArg} {agenda : List Event}
  {tags poison ready llcHost dirty : List Nat} {cores : Tab Core} {groups : Tab Group} {blocks : Tab Block} {accesses : List Access}
  {copies : List Copy} {contexts : Tab Context} {rings : Tab RecRing} {queues : Tab Queue} {launches : Tab Launch}
  {pendingLaunches : List PendingLaunch} {bindings : List Binding} {frames : Tab Frame} {moves : List Move} {lines : Tab (List Line)}
  {portCache : List Cached} {codePast : Tab (List (Nat × W64))} {codeInv : Tab Nat} {sentPackets held : List (Nat × Packet)}
  {outstanding : List Outstanding} {hub : Hub} {boot : Boot}

/-- A record update that keeps `mem` and the payload. It names every field so that unification reads the state `s` off `s.mem`:
stated for two states with equal memories, `s` would be guessed by unfolding. -/
theorem Inv.update (hp : hub.mailbox.payload = s.hub.mailbox.payload) (h : Inv s) :
    Inv ⟨count, nextId, time, cur, lastPoll, arg, agenda, s.mem, tags, poison, cores, groups, blocks, accesses, copies, contexts, rings,
      queues, launches, pendingLaunches, ready, bindings, frames, moves, lines, portCache, codePast, codeInv, llcHost, sentPackets, held,
      dirty, outstanding, hub, boot⟩ :=
  ⟨h.1, hp ▸ h.2⟩

end

variable {s : State}


/-! ### The functions of Machine/Ops -/

theorem Inv.poisonGranules {gs : List Nat} (h : Inv s) : Inv (s.poisonGranules gs) := h
theorem Inv.choose {n : Nat} (h : Inv s) : Inv (s.choose n).2 := .ite_snd h h
theorem Inv.freeWord (h : Inv s) : Inv s.freeWord.2 := h
theorem Inv.coin (h : Inv s) : Inv s.coin.2 := h
theorem Inv.post {i : Instr} {arg : EventArg} (h : Inv s) : Inv (s.post i arg) := h
theorem Inv.postOnce {i : Instr} {arg : EventArg} (h : Inv s) : Inv (s.postOnce i arg) := .ite h (.post h)
theorem Inv.again {i : Instr} (h : Inv s) : Inv (s.again i) := .post h
theorem Inv.fresh (h : Inv s) : Inv s.fresh.2 := h
theorem Inv.setGroup {k : Nat} {g : Group} (h : Inv s) : Inv (s.setGroup k g) := h
theorem Inv.setSub {k e : Nat} {x : Sub} (h : Inv s) : Inv (s.setSub k e x) := .setGroup h
theorem Inv.setCore {u : Nat} {c : Core} (h : Inv s) : Inv (s.setCore u c) := h
theorem Inv.setBlock {b : Nat} {x : Block} (h : Inv s) : Inv (s.setBlock b x) := h
theorem Inv.setContext {c : Nat} {x : Context} (h : Inv s) : Inv (s.setContext c x) := h
theorem Inv.setLaunch {n : Nat} {l : Launch} (h : Inv s) : Inv (s.setLaunch n l) := h
theorem Inv.setQueue {q : Nat} {x : Queue} (h : Inv s) : Inv (s.setQueue q x) := h
theorem Inv.setAccess {a : Access} (h : Inv s) : Inv (s.setAccess a) := h
theorem Inv.dropAccess {id : Nat} (h : Inv s) : Inv (s.dropAccess id) := h
theorem Inv.settleDrops {id key : Nat} (h : Inv s) : Inv (s.settleDrops id key) := .ite (.zero (.setCore h)) h
theorem Inv.landSpecial {k e n : Nat} {x : W64} (h : Inv s) : Inv (s.landSpecial k e n x) := .setGroup h

theorem Inv.land {k e : Nat} {w : Wr} (h : Inv s) : Inv (s.land k e w) := by
  unfold State.land
  split
  · exact .ite h (.setGroup h)
  · exact .ite h (.setGroup h)
  · exact .ite h (.setGroup h)
  · exact .ite h (.ite (.setGroup h) (.setGroup h))
  · exact .setGroup h
  · exact .landSpecial (.setGroup h)
  · exact .setGroup h
  · exact .setGroup h
  · exact .setGroup h
  · exact .setBlock h
  · exact .setBlock h

theorem Inv.landDue {k e T : Nat} {more : List (Nat × List Wr)} (h : Inv s) : Inv (s.landDue k e T more) :=
  .foldl (fun _ _ h1 => .foldl (fun _ _ h2 => .land h2) h1) (.setSub h)

theorem Inv.drain {k e : Nat} (h : Inv s) : Inv (s.drain k e) := .setSub (.landDue h)

theorem Inv.wakeReg {u j : Nat} (h : Inv s) : Inv (s.wakeReg u j) := by
  unfold State.wakeReg
  dsimp only
  split
  · exact .postOnce (.setCore h)
  · exact .postOnce (.setCore h)
  · exact h

theorem Inv.wakeSpm {u j : Nat} (h : Inv s) : Inv (s.wakeSpm u j) := by
  unfold State.wakeSpm
  dsimp only
  split
  · exact .postOnce (.setCore h)
  · exact .postOnce (.setCore h)
  · exact h

theorem OptInv.wakeKeys {keys : List Nat} (h : Inv s) : OptInv (s.wakeKeys keys) := by
  unfold State.wakeKeys
  dsimp only
  split
  · trivial
  · exact Inv.foldl (fun _ _ h1 => .wakeSpm h1) h

theorem Inv.wakeOwned {k : Nat} (h : Inv s) : Inv (s.wakeOwned k) := .ite (.foldl (fun _ _ h1 => .ite (.wakeReg h1) h1) h) h
theorem Inv.kill {k e key : Nat} (h : Inv s) : Inv (s.kill k e key) := .ite (.setGroup h) (.ite (.setGroup h) (.ite (.setGroup h) (.setGroup h)))
theorem Inv.takeMark {k e clause pc : Nat} {atHeader : Bool} (h : Inv s) : Inv (s.takeMark k e clause pc atHeader) := .ite h (.setSub h)

theorem Inv.commitSub {k e clause pc : Nat} {atHeader : Bool} (h : Inv s) : Inv (s.commitSub k e clause pc atHeader) :=
  .ite h (.takeMark (.setGroup h))

theorem Inv.restore {k : Nat} {h : Shadow} (hi : Inv s) : Inv (s.restore k h) := by
  unfold State.restore
  split
  · exact .setGroup hi
  · exact .setGroup hi
  · exact .setGroup hi
  · exact .setGroup hi
  · exact .setGroup hi
  · split
    · exact .setGroup hi
    · exact .setGroup hi
    · exact .landSpecial hi
  · exact .setGroup hi
  · exact hi

theorem Inv.rollback {k e : Nat} (h : Inv s) : Inv (s.rollback k e) := by
  unfold State.rollback
  split
  · exact h
  · exact .setSub (.foldl (fun _ _ h1 => .restore h1) (.setGroup h))

theorem Inv.raiseVector {v : Nat} (h : Inv s) : Inv (s.raiseVector v) := .ite h h
theorem Inv.reevalEdges (h : Inv s) : Inv s.reevalEdges := .foldl (fun _ _ h1 => .ite (.ite (.postOnce (.setLaunch h1)) (.setLaunch h1)) h1) h
theorem Inv.barUpdate {b off : Nat} {u : BarUpdate} (h : Inv s) : Inv (s.barUpdate b off u) := .postOnce (.setBlock h)

theorem Inv.fireList {n : Nat} {bs : List Binding} : ∀ {s : State} {i : Nat}, Inv s → Inv (fireList s n i bs).1 := by
  induction bs with
  | nil => exact fun h => h
  | cons b t ih =>
    intro s i h
    unfold Machine.fireList
    split
    · split
      · exact ih (.barUpdate h)
      · exact ih h
    · exact ih h

theorem Inv.fireBindings {n : Nat} (h : Inv s) : Inv (s.fireBindings n) := .update rfl (.fireList h)
theorem Inv.semChanged {n : Nat} (h : Inv s) : Inv (s.semChanged n) := .fireBindings (.reevalEdges h)
theorem Inv.semAdd {n v : Nat} (h : Inv s) : Inv (s.semAdd n v) := .semChanged (.foldl (fun _ _ h1 => .ite (.raiseVector h1) h1) h)
theorem Inv.record {c kind : Nat} {r : Rec} (h : Inv s) : Inv (s.record c kind r) := .ite h (.semAdd (.update rfl (.write h)))
theorem Inv.takeDouble {k e cause pc : Nat} (h : Inv s) : Inv (s.takeDouble k e cause pc) := .setGroup (.record h)

theorem Inv.enterHandler {k e : Nat} {t : TrapInfo} (h : Inv s) : Inv (s.enterHandler k e t) :=
  .takeMark (.setGroup (.drain (.setSub (.foldl (fun _ _ h1 => .wakeReg h1) (.foldl (fun _ _ h2 => .commitSub h2) h)))))

theorem Inv.takeTrap {k e : Nat} {t : TrapInfo} (h : Inv s) : Inv (s.takeTrap k e t) :=
  .ite (.takeDouble h) (.ite (.enterHandler (.ite (.wakeOwned (.setGroup h)) (.setGroup h))) (.postOnce (.ite (.wakeOwned (.setGroup h))
    (.setGroup h))))

theorem Inv.returnTrap {k e : Nat} {skip : Bool} (h : Inv s) : Inv (s.returnTrap k e skip) := .setGroup h
theorem Inv.pausedRec {k e obj off hreg clause pc fmask addr : Nat} (h : Inv s) : Inv (s.pausedRec k e obj off hreg clause pc fmask addr) := .record h

theorem Inv.suspend {k e kind obj off hreg clause pc fmask addr : Nat} (h : Inv s) : Inv (s.suspend k e kind obj off hreg clause pc fmask addr) :=
  .pausedRec (.setSub h)

/-! ### The functions of Machine/Issue -/

theorem Inv.waitFor {k e kind item addr2 : Nat} (h : Inv s) : Inv (s.waitFor k e kind item addr2) := .postOnce (.update rfl (.setSub h))

theorem Inv.slotWait {k e j : Nat} (h : Inv s) : Inv (s.slotWait k e j) := by
  unfold State.slotWait
  dsimp only
  split <;> exact .waitFor h

theorem Inv.landSlots {k e : Nat} {js : List Nat} (h : Inv s) : Inv (s.landSlots k e js) := .setSub (.landDue h)
theorem Inv.takeSlotTrap {k e j : Nat} {t : TrapInfo} (h : Inv s) : Inv (s.takeSlotTrap k e j t) := .takeTrap (.setSub h)

theorem GateInv.takeTokens {k e h : Nat} (hi : Inv s) : GateInv (s.takeTokens k e h) := by
  unfold State.takeTokens
  refine .ite hi ?_
  split
  · exact .ite (.takeTrap hi) (.waitFor hi)
  · exact .setSub (.setBlock hi)

theorem GateInv.commitGate {k e op : Nat} (h : Inv s) : GateInv (s.commitGate k e op) := .ite h (.ite (.commitSub h) (.waitFor h))
theorem GateInv.commitAll {k e op : Nat} (h : Inv s) : GateInv (s.commitAll k e op) := .ite (Inv.foldl (fun _ _ h1 => .commitSub h1) h) (.waitFor h)
theorem Inv.freeHolds {k : Nat} (h : Inv s) : Inv (s.freeHolds k) := .ite (.update rfl (.setGroup h)) (.setGroup h)

theorem Inv.pauseWait {k e : Nat} (h : Inv s) : Inv (s.pauseWait k e) := by
  unfold State.pauseWait
  dsimp only
  split
  · exact .wakeOwned (.setSub h)
  · exact h

theorem GateInv.needBanks {k e : Nat} {bs : List Nat} (h : Inv s) : GateInv (s.needBanks k e bs) := by
  unfold State.needBanks
  split
  · exact h
  · exact .pauseWait (.foldl (fun _ _ h1 => .wakeReg h1) h)

theorem GateInv.awaitSlots {k e : Nat} {js : List Nat} (h : Inv s) : GateInv (s.awaitSlots k e js) := by
  unfold State.awaitSlots
  dsimp only
  split
  · exact .slotWait h
  · split
    · exact .takeSlotTrap h
    · split
      next t1 ht1 => exact .of_blocked ht1 (.needBanks h)
      next t2 ht2 => exact .landSlots (.of_met ht2 (.needBanks h))

theorem Inv.settleBanks {u : Nat} {js : List Nat} (h : Inv s) : Inv (s.settleBanks u js) := .foldl (fun _ _ h1 => .ite (.setCore h1) h1) h

theorem GateInv.drainGate {k e : Nat} (h : Inv s) : GateInv (s.drainGate k e) := by
  unfold State.drainGate
  split
  next t1 ht1 => exact .of_blocked ht1 (.needBanks h)
  next t2 ht2 =>
    have h2 : Inv t2 := .of_met ht2 (.needBanks h)
    exact Inv.ite (.settleBanks (.drain h2)) (.drain h2)

theorem GateInv.headerGate {k e : Nat} (h : Inv s) : GateInv (s.headerGate k e) := by
  unfold State.headerGate
  dsimp only
  split
  · exact h
  · refine .ite h ?_
    refine .ite ?_ ?_
    · split
      next t1 ht1 => exact .of_blocked ht1 (.takeTokens h)
      next t2 ht2 => exact .setSub (.of_met ht2 (.takeTokens h))
    · split
      next t3 ht3 => exact .of_blocked ht3 (.ite (.commitGate h) h)
      next t4 ht4 =>
        have h4 : Inv t4 := .of_met ht4 (.ite (.commitGate h) h)
        split
        next t5 ht5 => exact .of_blocked ht5 (.ite (.drainGate (.ite (.takeMark h4) h4)) (Inv.ite (.takeMark h4) h4))
        next t6 ht6 =>
          have h6 : Inv t6 := .of_met ht6 (.ite (.drainGate (.ite (.takeMark h4) h4)) (Inv.ite (.takeMark h4) h4))
          split
          · exact .slotWait h6
          · split
            · exact .takeSlotTrap h6
            · split
              next t7 ht7 => exact .of_blocked ht7 (.needBanks h6)
              next t8 ht8 =>
                have h8 : Inv t8 := .of_met ht8 (.needBanks h6)
                split
                next t9 ht9 => exact .of_blocked ht9 (.takeTokens h8)
                next t10 ht10 => exact .setSub (.landSlots (.of_met ht10 (.takeTokens h8)))

theorem Inv.leaveClause {k e pc : Nat} (h : Inv s) : Inv (s.leaveClause k e pc) := .ite (.setGroup h) (.post (.setGroup h))

theorem Inv.advance {k e : Nat} (h : Inv s) : Inv (s.advance k e) := by
  unfold State.advance
  dsimp only
  split
  · exact h
  · exact .ite (.setSub h) (.leaveClause h)

theorem Inv.retireBanks {k : Nat} {waited : Bool} {keys : List Nat} (h : Inv s) : Inv (s.retireBanks k waited keys) :=
  .ite (.settleBanks (.ite (.wakeOwned h) h)) h

theorem Inv.retire {k e idle : Nat} {kills keys : List Nat} {wrs : List Wr} {lat : Nat} (h : Inv s) : Inv (s.retire k e idle kills keys wrs lat) :=
  .retireBanks (.setGroup (.update rfl (.foldl (fun _ _ h1 => .kill h1) h)))

theorem Inv.slotDone {k e j op : Nat} {wrs : List Wr} (h : Inv s) : Inv (s.slotDone k e j op wrs) := .setSub h
theorem Inv.slotBusy {k e j op : Nat} {wrs : List Wr} (h : Inv s) : Inv (s.slotBusy k e j op wrs) := .post (.setSub h)

theorem Inv.perform {cx : Cx} {sh : Shape} {gd : Guarding} {f : Cx → State → Eff} (h : Inv s) (hf : ∀ cx t, Inv t → EffInv (f cx t)) :
    Inv (s.perform cx sh gd f) := by
  unfold State.perform
  refine .ite (.advance (.retire (.ite (.slotDone h) h))) ?_
  have hr := hf cx s h
  generalize f cx s = r at hr ⊢
  cases r with
  | ok t ws n => exact .advance (.retire hr)
  | jump t ws x bad => exact .ite (.setSub (.leaveClause (.retire hr))) (.leaveClause (.retire hr))
  | gone t => exact hr
  | trap t i => exact .takeTrap hr
  | wait t kind item addr => exact .waitFor hr
  | stall t => exact hr

theorem GateInv.issueGate {k e : Nat} {i : Instr} {sh : Shape} {gd : Guarding} (h : Inv s) : GateInv (s.issueGate k e i sh gd) := by
  unfold State.issueGate
  dsimp only
  split
  next t1 ht1 => exact .of_blocked ht1 (.ite (.commitGate h) (.ite (.commitAll h) h))
  next t2 ht2 =>
    have h2 : Inv t2 := .of_met ht2 (.ite (.commitGate h) (.ite (.commitAll h) h))
    refine .ite (.waitFor (.freeHolds h2)) ?_
    split
    next t3 ht3 =>
      refine Inv.of_blocked ht3 ?_
      split
      · exact .ite (.landDue (.freeHolds h2)) (.awaitSlots (.freeHolds h2))
      · exact .landDue (.freeHolds h2)
    next t4 ht4 =>
      refine .needBanks (.of_met ht4 ?_)
      split
      · exact .ite (.landDue (.freeHolds h2)) (.awaitSlots (.freeHolds h2))
      · exact .landDue (.freeHolds h2)

theorem Inv.issueBy {k e : Nat} {i : Instr} {gd : Guarding} {f : Cx → State → Eff} (h : Inv s) (hf : ∀ x0 t, Inv t → EffInv (f x0 t)) :
    Inv (s.issueBy k e i gd f) := by
  unfold State.issueBy
  dsimp only
  split
  next t1 ht1 => exact .of_blocked ht1 (.headerGate h)
  next t2 ht2 =>
    have h2 : Inv t2 := .of_met ht2 (.headerGate h)
    split
    · exact .takeTrap h2
    · split
      next t3 ht3 => exact .of_blocked ht3 (.issueGate h2)
      next t4 ht4 =>
        have h4 : Inv t4 := .of_met ht4 (.issueGate h2)
        split
        · exact .takeTrap h4
        · exact .perform h4 hf

theorem OutInv.issue {i : Instr} {gd : Guarding} {f : Cx → State → Eff} (h : Inv s) (hf : ∀ cx t, Inv t → EffInv (f cx t)) :
    OutInv (issue i gd f s) := by
  unfold Machine.issue
  split
  · exact Inv.issueBy h hf
  · trivial

theorem Inv.issueUndefined {k e w : Nat} (h : Inv s) : Inv (s.issueUndefined k e w) := by
  unfold State.issueUndefined
  split
  next t1 ht1 => exact .of_blocked ht1 (.headerGate h)
  next t2 ht2 => exact .takeTrap (.of_met ht2 (.headerGate h))

theorem OutInv.event {f : State → State} (hf : ∀ t, Inv t → Inv (f t)) (h1 : Inv s) : OutInv (event f s) := hf _ h1

/-! ### The functions of Machine/Access -/

theorem OptInv.wakeFor {b : Nat} {offs : List Nat} (h : Inv s) : OptInv (s.wakeFor b offs) := .wakeKeys h

theorem Inv.portRead {ctx obj key addr : Nat} (h : Inv s) : Inv (s.portRead ctx obj key addr).2 := by
  unfold State.portRead
  split
  · exact h
  · exact .ite_snd h h

theorem Inv.walkEntry {ctx obj gen : Nat} (h : Inv s) : Inv (s.walkEntry ctx obj gen).2 := .ite_snd h (.portRead h)

theorem Inv.walkPage {ctx obj v page : Nat} {ctl : Bool} (h : Inv s) : Inv (s.walkPage ctx obj v page ctl).2 := by
  unfold State.walkPage
  refine .ite_snd h ?_
  refine .ite_snd ?_ ?_
  · split
    · exact h
    · exact .ite_snd h h
  · refine .ite_snd ?_ ?_
    · split
      · exact h
      · exact .ite_snd h h
    · split
      · exact h
      · exact .ite_snd h h

theorem Inv.walk {ctx obj gen a : Nat} {ctl : Bool} (h : Inv s) : Inv (s.walk ctx obj gen a ctl).2 := by
  unfold State.walk
  split
  next t1 ht1 => exact .of_snd ht1 (.walkEntry h)
  next t2 ht2 => exact .walkPage (.of_snd ht2 (.walkEntry h))

theorem Inv.walkRange {ctx obj gen a n : Nat} {ctl : Bool} (h : Inv s) : Inv (s.walkRange ctx obj gen a n ctl).2 :=
  .foldl_snd (fun _ _ h1 => .walk h1) h

theorem Inv.dropLines {key : Nat} {p : Line → Bool} (h : Inv s) : Inv (s.dropLines key p) := h
theorem Inv.dropEverywhere {p : Line → Bool} (h : Inv s) : Inv (s.dropEverywhere p) := h
theorem Inv.dropStream {p : Line → Bool} (h : Inv s) : Inv (s.dropStream p) := h

theorem Inv.fillLine {u ctx obj gen a ext : Nat} (h : Inv s) : Inv (s.fillLine u ctx obj gen a ext) := by
  unfold State.fillLine
  dsimp only
  split
  · exact .update rfl (.ite_snd (.choose h) h)
  · exact h

theorem Inv.prefetch {k : Nat} {h : HandleReg} {o : Nat} {l1 : Bool} (hi : Inv s) : Inv (s.prefetch k h o l1) := by
  unfold State.prefetch
  dsimp only
  split
  next t1 ht1 =>
    have h1 : Inv t1 := .of_snd ht1 (.walk hi)
    refine .ite h1 ?_
    refine .ite ?_ ?_
    · refine .fillLine ?_
      split
      · exact .ite h1 h1
      · exact h1
    · split
      · exact .ite h1 h1
      · exact h1
  next t2 ht2 => exact .of_snd ht2 (.walk hi)

theorem Inv.newAccess {cx : Cx} {a : Access} (h : Inv s) : Inv (s.newAccess cx a) :=
  .post (.ite (.ite (.setSub (.update rfl (.ite_snd (.fresh h) (.fresh (.fresh h))))) (.update rfl (.ite_snd (.fresh h) (.fresh (.fresh h)))))
    (.post (.ite (.setSub (.update rfl (.ite_snd (.fresh h) (.fresh (.fresh h))))) (.update rfl (.ite_snd (.fresh h) (.fresh (.fresh h)))))))

/-! ### The functions of Machine/Claims -/

theorem Inv.takeAny {n : Nat} : ∀ {s : State} {free : List Nat}, Inv s → Inv (s.takeAny n free).2 := by
  induction n with
  | zero => exact fun h => h
  | succ n ih => exact fun h => ih (.choose h)

theorem Inv.startScan {u : Nat} (h : Inv s) : Inv (s.startScan u) := .postOnce (.postOnce (.setCore h))
theorem Inv.release {b : Nat} {r : Res} (h : Inv s) : Inv (s.release b r) := .ite h (.startScan (.setBlock h))
theorem Inv.dropBanks {b lo hi : Nat} (h : Inv s) : Inv (s.dropBanks b lo hi) := .foldl (fun _ _ h1 => .setCore h1) h
theorem Inv.openGranules {u : Nat} {ps : List Nat} (h : Inv s) : Inv (s.openGranules u ps) := .foldl (fun _ _ h1 => .zero (.setCore h1)) h

theorem Inv.assign {b k kind n : Nat} {avoid : List Nat} (h : Inv s) : Inv (s.assign b k kind n avoid).2.2 := by
  unfold State.assign
  split
  · exact h
  · split
    · exact .ite (.setCore (.setGroup (.takeAny h))) (.setGroup (.takeAny h))
    · exact .openGranules (.setBlock h)
    · exact .setCore (.setBlock h)

theorem Inv.vacate {k : Nat} (h : Inv s) : Inv (s.vacate k) := .ite (.postOnce (.setGroup h)) h
theorem Inv.freeHolders {u : Nat} (h : Inv s) : Inv (s.freeHolders u) := .ite (.setCore h) h

theorem Inv.complete {id : Nat} {wrs : List Wr} {fail : Option TrapInfo} (h : Inv s) : Inv (s.complete id wrs fail) := by
  unfold State.complete
  split
  · exact h
  · refine .vacate ?_
    refine .freeHolds ?_
    refine .freeHolders ?_
    split
    · exact .ite (.dropLines (.dropAccess h)) (.dropAccess h)
    · exact .ite (.setSub (.ite (.dropLines (.dropAccess h)) (.dropAccess h))) (.ite (.dropLines (.dropAccess h)) (.dropAccess h))

theorem Inv.beginCheck {u : Nat} {q : Request} (h : Inv s) : Inv (s.beginCheck u q) := .post (.setCore h)

theorem Inv.nextCheck (h : Inv s) : Inv s.nextCheck := by
  unfold State.nextCheck
  refine .ite h ?_
  split
  · split
    · exact .beginCheck (.setCore h)
    · exact .post (.setCore h)
  · split
    · exact .beginCheck (.setCore h)
    · exact h

theorem Inv.grantSlot {q : Request} {j : Nat} (h : Inv s) : Inv (s.grantSlot q j) := .ite (.setSub (.assign h)) (.release h)

theorem Inv.checkResult (h : Inv s) : Inv s.checkResult := by
  unfold State.checkResult
  dsimp only
  split
  · exact h
  · refine .ite (.ite (.startScan (.postOnce (.setCore h))) (.postOnce (.setCore h))) ?_
    split
    · exact .setCore (.setBlock (.postOnce (.setCore h)))
    · exact .ite (.grantSlot (.setCore (.setBlock (.postOnce (.setCore h))))) (.ite (.postOnce (.setCore h)) (.setCore (.postOnce (.setCore h))))

theorem Inv.withdraw {u id : Nat} (h : Inv s) : Inv (s.withdraw u id) := by
  unfold State.withdraw
  dsimp only
  split
  · exact h
  · exact .setCore (.setBlock h)

theorem Inv.request {u : Nat} {q : Request} (h : Inv s) : Inv (s.request u q) := .postOnce (.setBlock (.setCore h))
theorem OutInv.execCheckerNextCheck (h : Inv s) : OutInv (execCheckerNextCheck s) := .event (fun _ h1 => .ite (.again h1) (.nextCheck h1)) h
theorem OutInv.execClaimCheckResult (h : Inv s) : OutInv (execClaimCheckResult s) := .event (fun _ h1 => .ite (.again h1) (.checkResult h1)) h

/-! ### The functions of Machine/Predicate -/

theorem EffInv.predEff {f : TForm} {r : W32 → W32 → W32} {cx : Cx} (h : Inv s) : EffInv (predEff f r cx s) := h

theorem OutInv.execPmov {o : PmovForm} (h : Inv s) : OutInv (execPmov o s) := by
  refine .issue h fun _ _ h1 => ?_
  split <;> exact h1

/-! ### The functions of Machine/Handles -/

theorem OutInv.execHderive {f : TForm} (h : Inv s) : OutInv (execHderive f s) := by
  refine .issue h fun _ _ h1 => ?_
  dsimp only
  split
  · exact h1
  · exact .ite h1 h1

theorem OutInv.execHrestrict {f : TForm} (h : Inv s) : OutInv (execHrestrict f s) := by
  refine .issue h fun _ _ h1 => ?_
  dsimp only
  split <;> exact h1

theorem OutInv.execHintPf {f : TForm} (h : Inv s) : OutInv (execHintPf f s) := .issue h (fun _ _ h1 => Inv.ite (.prefetch h1) h1)

theorem OutInv.execHintBank {f : TForm} (h : Inv s) : OutInv (execHintBank f s) := by
  refine .issue h fun _ _ h1 => ?_
  refine Inv.ite ?_ h1
  split
  · exact .ite (.wakeReg h1) h1
  · exact h1

/-! ### The functions of Machine/Memory -/

theorem Inv.hold {k : Nat} {ids : List Nat} {dropL1 : Bool} (h : Inv s) : Inv (s.hold k ids dropL1) := .freeHolds (.setGroup h)

theorem EffInv.handleAccess {cx : Cx} {hr need n align : Nat} {offs : List (Nat × Int)} {a : HandleReg → Access} {lane0 : Int} (h : Inv s) :
    EffInv (s.handleAccess cx hr need n align offs a lane0) := by
  unfold State.handleAccess
  dsimp only
  split
  · exact h
  · split
    · exact h
    · exact .newAccess h

theorem EffInv.spmAccess {cx : Cx} {n align : Nat} {read : Bool} {offs : List (Nat × Int)} {a : Access} (h : Inv s) :
    EffInv (s.spmAccess cx n align read offs a) := by
  unfold State.spmAccess
  dsimp only
  split
  · exact h
  · split
    · exact h
    · split
      next t1 ht1 => exact .of_some ht1 (.wakeFor h)
      · exact .newAccess h

theorem Inv.readVia {u ctx obj gen a key : Nat} (h : Inv s) : Inv (s.readVia u ctx obj gen a key).2 := by
  unfold State.readVia
  split
  · exact h
  · exact .choose h

theorem Inv.storeAt {id key : Nat} {bs : List Byte} (h : Inv s) : Inv (s.storeAt id key bs) :=
  .ite (.write (.zero (.setCore (.settleDrops h)))) (.write (.settleDrops h))

theorem Inv.holdHost {key : Nat} (h : Inv s) : Inv (s.holdHost key) := .ite h h
theorem Inv.writeAt {key : Nat} {bs : List Byte} (h : Inv s) : Inv (s.writeAt key bs) := .storeAt (.holdHost h)

theorem EffInv.loadG {f : MForm} {e : Nat} {vec perLane scalar : Bool} {cx : Cx} (h : Inv s) : EffInv (loadG f e vec perLane scalar cx s) := by
  unfold Machine.loadG
  exact .handleAccess h

theorem EffInv.storeG {f : MForm} {e : Nat} {vec perLane scalar : Bool} {cx : Cx} (h : Inv s) : EffInv (storeG f e vec perLane scalar cx s) := by
  unfold Machine.storeG
  exact .handleAccess h

theorem EffInv.clusterAccess {f : MForm} {e : Nat} {kind : AccKind} {data : Nat → List Byte} {read : Bool} {cx : Cx} (h : Inv s) :
    EffInv (clusterAccess f e kind data read cx s) :=
  .ite h (.ite (.spmAccess h) (.newAccess h))

theorem EffInv.privateAccess {f : MForm} {e : Nat} {kind : AccKind} {read : Bool} {data : Nat → List Byte} {cx : Cx} (h : Inv s) :
    EffInv (privateAccess f e kind read data cx s) :=
  .ite h (.ite h (.spmAccess h))

theorem OutInv.execLdAcq {w64 : Bool} {f : MForm} (h : Inv s) : OutInv (execLdAcq w64 f s) := by
  refine .issue h fun _ _ h1 => ?_
  dsimp only
  split
  next t2 _ _ ht2 => exact .hold (.of_ok ht2 (.handleAccess h1))
  · exact .handleAccess h1

theorem OutInv.execFence {f : XForm} (h : Inv s) : OutInv (execFence f s) := .issue h (fun _ _ h1 => .ite h1 (.hold h1))
theorem EffInv.cleanBy {cx : Cx} {p : Access → Bool} (h : Inv s) : EffInv (s.cleanBy cx p) := .newAccess h
theorem Inv.invalidate {cx : Cx} {p : Line → Bool} (h : Inv s) : Inv (s.invalidate cx p) := .ite h (.dropLines h)

theorem OutInv.execCclean {f : MForm} (h : Inv s) : OutInv (execCclean f s) := by
  refine .issue h fun _ _ h1 => ?_
  dsimp only
  split
  · exact h1
  · exact .ite (.slotDone h1) (.cleanBy h1)

theorem OutInv.execCinval {f : MForm} (h : Inv s) : OutInv (execCinval f s) := by
  refine .issue h fun _ _ h1 => ?_
  dsimp only
  split
  · exact h1
  · exact .ite (.slotDone h1) (.slotBusy (.invalidate h1))

theorem OutInv.execCinvalAll {f : MForm} (h : Inv s) : OutInv (execCinvalAll f s) := .issue h (fun _ _ h1 => .slotBusy (.invalidate h1))

theorem EffInv.prefetchG {f : MForm} {l1 : Bool} {cx : Cx} (h : Inv s) : EffInv (prefetchG f l1 cx s) := by
  unfold Machine.prefetchG
  dsimp only
  split
  · exact h
  · exact .prefetch h

/-! ### The functions of Machine/Copy -/

theorem OutInv.execCpGo {f : XForm} (h : Inv s) : OutInv (execCpGo f s) := by
  refine .issue h fun cx t ht => ?_
  extract_lets +onlyGivenNames b at_
  generalize hw : t.wakeFor b _ = w
  cases t.checkSpm b 256 16 true _ with
  | some i => exact ht
  | none =>
    cases t.rangeHold b _ with
    | some i => exact ht
    | none =>
      cases firstBelow (fun i => !t.copies.any (fun c => c.block == b && c.entry == i)) 16 with
      | none => exact ht
      | some entry =>
        cases w with
        | some u => exact Inv.of_some hw (.wakeFor ht)
        | none =>
          refine .ite ht ?_
          dsimp only
          split
          · exact ht
          · split
            · exact ht
            · split
              · exact ht
              · exact .ite ht (.ite ht (Inv.post (.update rfl (.fresh ht))))

theorem Inv.setCopy {y : Copy} (h : Inv s) : Inv (s.setCopy y) := h
theorem Inv.setRing {b r : Nat} {x : Ring} (h : Inv s) : Inv (s.setRing b r x) := .setBlock h

theorem Inv.copyBegin (h : Inv s) : Inv s.copyBegin := by
  unfold State.copyBegin
  split
  · exact h
  · exact .ite (.again h) (.ite (.ite (.post (.setCopy h)) (.ite (.again h) (.post (.setCopy (.setRing h))))) (.post (.setCopy h)))

theorem Inv.copyPort {ctx : Nat} {h : HandleReg} {o n : Nat} (hi : Inv s) : Inv (s.copyPort ctx h o n).2 := by
  unfold State.copyPort
  dsimp only
  split
  · exact .ite_snd (.ite_snd (.walk hi) (.walk (.walk hi))) (.ite_snd (.walk hi) (.walk (.walk hi)))
  · exact .ite_snd (.walk hi) (.walk (.walk hi))
  · exact .ite_snd (.walk hi) (.walk (.walk hi))
  · exact .ite_snd (.walk hi) (.walk (.walk hi))
  · exact .ite_snd (.walk hi) (.walk (.walk hi))

theorem LandInv.copyByte {y : Copy} {x i : Nat} {last : Bool} (h : Inv s) : LandInv (s.copyByte y x i last) := by
  unfold State.copyByte
  extract_lets +onlyGivenNames d e b u sa da outside zero
  split
  next src t hsrc =>
  have ht : Inv t := .of_snd hsrc (.ite_snd h (.ite_snd h (.ite_snd (.copyPort h) h)))
  extract_lets +onlyGivenNames r dstOut lost
  split
  next dst w hdst =>
  have hw : Inv w := by
    refine .of_snd hdst (.ite_snd ht ?_)
    cases y.spmDst x with
    | none => exact .copyPort ht
    | some o => exact ht
  clear_value r
  extract_lets +onlyGivenNames pz reasons
  clear_value pz reasons
  split
  · exact hw
  · split
    · exact hw
    · exact hw
    next ks ds =>
      extract_lets +onlyGivenNames a
      split
      next v bad z hval =>
      have hz : Inv z := by
        refine .of_snd hval ?_
        cases ks[i]? with
        | none => exact hw
        | some k =>
          refine .ite_snd (.readVia ?_) hw
          have hk := Inv.walk (ctx := y.ctx) (obj := y.srcH.obj) (gen := y.srcH.gen) (a := a) (ctl := false) hw
          generalize w.walk y.ctx y.srcH.obj y.srcH.gen a false = r at hk ⊢
          obtain ⟨r, t⟩ := r
          cases r with
          | ok ext => exact .ite (.fillLine hk) hk
          | _ => exact hk
      exact .ite hz (.ite hz (Inv.ite (.update rfl (.writeAt hz)) (.writeAt hz)))
    · exact hw

theorem Inv.copyLand (h : Inv s) : Inv s.copyLand := by
  unfold State.copyLand
  split
  · exact h
  next y _ =>
    refine .ite h ?_
    have hc : Inv (s.choose y.left.length).2 := .choose h
    generalize s.choose y.left.length = c at hc ⊢
    obtain ⟨i, t⟩ := c
    dsimp only at hc ⊢
    split
    · exact .post hc
    next x _ =>
      refine .ite (.again hc) ?_
      generalize hw : t.wakeFor y.block _ = w
      cases w with
      | some u => exact .again (.of_some hw (.wakeFor hc))
      | none =>
        generalize hl : State.copyByte .. = r
        have hr : LandInv r := hl ▸ .copyByte (.choose hc)
        cases r with
        | ok u => exact .ite (.post (.setCopy (.barUpdate hr))) (.post (.setCopy hr))
        | fail u n => exact .post (.setCopy hr)
        | pause u src => exact .record (.setCopy hr)

theorem Inv.copyDone (h : Inv s) : Inv s.copyDone := by
  unfold State.copyDone
  split
  · exact h
  · split
    · exact h
    · exact .post (.setRing h)

theorem Inv.copyStop (h : Inv s) : Inv s.copyStop := by
  unfold State.copyStop
  split
  · exact h
  · exact .barUpdate (.setBlock h)

theorem Inv.pushTile (h : Inv s) : Inv s.pushTile := by
  unfold State.pushTile
  dsimp only
  refine .ite (.again h) ?_
  split
  · split
    · exact .again (.ite (.barUpdate (.setRing (.ite (.setRing h) h))) (.setRing (.ite (.setRing h) h)))
    · exact .ite (.barUpdate (.setRing (.ite (.setRing h) h))) (.setRing (.ite (.setRing h) h))
  · exact .ite (.setRing h) h

/-! ### The functions of Machine/Barriers -/

theorem Inv.setReg {k i : Nat} {x : W64} (h : Inv s) : Inv (s.setReg k i x) := .setGroup h

theorem Inv.applyUpdate {b off : Nat} {live : Bool} {x : Nat} {u : BarUpdate} (h : Inv s) : Inv (s.applyUpdate b off live x u).2 := by
  unfold State.applyUpdate
  split
  · refine .complete ?_
    split
    · exact .setReg (.ite h (.setBlock h))
    · exact .ite h (.setBlock h)
  · split
    · refine .complete ?_
      refine .ite ?_ (.setBlock h)
      split
      · split
        · exact .setReg h
        · exact h
      · exact h
    · refine .ite ?_ (.setBlock h)
      split
      · split
        · exact .setReg h
        · exact h
      · exact h
  · exact .complete (.ite h (.setBlock h))
  · exact .ite h (.setBlock h)
  · exact .ite h (.setBlock h)

theorem Inv.barCycle (h : Inv s) : Inv s.barCycle := by
  unfold State.barCycle
  dsimp only
  split
  next t1 ht1 => exact .again (.of_some ht1 (.ite trivial (.wakeFor h)))
  · exact .ite (.setBlock h) (.ite (.write (.foldl_snd (fun _ _ h2 => .applyUpdate h2) (.setBlock h))) (.foldl_snd (fun _ _ h3 => .applyUpdate h3)
      (.setBlock h)))

theorem EffInv.barrierOp {off : Nat} {live form : Bool} {f : Cx → State → Eff} {cx : Cx} (h : Inv s) (hf : ∀ cx t, Inv t → EffInv (f cx t)) :
    EffInv (barrierOp off live form f cx s) := by
  unfold Machine.barrierOp
  generalize hw : s.wakeFor _ _ = w
  cases s.barPlace cx.k off live with
  | some t => exact h
  | none =>
    cases s.rangeHold (s.group cx.k).block _ with
    | some i => exact h
    | none =>
      cases w with
      | some t => exact Inv.of_some hw (.wakeFor h)
      | none => exact .ite h (.ite h (hf _ _ h))

theorem EffInv.barAccess {cx : Cx} {off : Nat} {kind : AccKind} {after : List Nat} {dst : Nat} (h : Inv s) :
    EffInv (s.barAccess cx off kind after dst) :=
  .newAccess h

theorem OutInv.execBinit {f : XForm} (h : Inv s) : OutInv (execBinit f s) :=
  .issue h (fun _ _ h1 => .barrierOp h1 (fun _ _ h2 => .ite h2 (.barAccess h2)))

theorem OutInv.execBjoin {f : XForm} (h : Inv s) : OutInv (execBjoin f s) := by
  refine .issue h fun _ _ h1 => ?_
  refine .barrierOp h1 fun _ _ h2 => ?_
  refine .ite h2 ?_
  split
  · exact h2
  · exact .setReg h2

theorem OutInv.execBleave {f : XForm} (h : Inv s) : OutInv (execBleave f s) := by
  refine .issue h fun _ _ h1 => ?_
  refine .barrierOp h1 fun _ _ h2 => ?_
  split
  · exact .setReg h2
  · exact h2

theorem OutInv.execBarr {f : XForm} (h : Inv s) : OutInv (execBarr f s) :=
  .issue h (fun _ _ h1 => .barrierOp h1 (fun _ _ h2 => .ite h2 (.barAccess h2)))

theorem OutInv.execBdrop {f : XForm} (h : Inv s) : OutInv (execBdrop f s) := .issue h (fun _ _ h1 => .barrierOp h1 (fun _ _ h2 => .barAccess h2))

theorem OutInv.execBexp {f : XForm} (h : Inv s) : OutInv (execBexp f s) :=
  .issue h (fun _ _ h1 => .barrierOp h1 (fun _ _ h2 => .ite h2 (.barAccess h2)))

theorem Inv.barFaultTrap {k off x : Nat} (h : Inv s) : Inv (s.barFaultTrap k off x).2 := by
  unfold State.barFaultTrap
  dsimp only
  split
  · split
    · exact .setBlock h
    · exact h
  · exact h
  · exact h

theorem Inv.watchBar {k e key : Nat} (h : Inv s) : Inv (s.watchBar k e key) := .setSub h
theorem Inv.lookAll (h : Inv s) : Inv s.lookAll := h

theorem OutInv.execBwait {f : XForm} (h : Inv s) : OutInv (execBwait f s) :=
  .issue h (fun _ _ h1 => .barrierOp h1 (fun _ _ h2 => .ite (.barFaultTrap h2) (.ite (.watchBar (.waitFor h2)) (Inv.ite h2 (.hold h2)))))

theorem OutInv.execBpoll {f : XForm} (h : Inv s) : OutInv (execBpoll f s) := .issue h (fun _ _ h1 => .barrierOp h1 (fun _ _ h2 => .newAccess h2))
theorem EffInv.atomic {f : MForm} {glob ret : Bool} {cx : Cx} (h : Inv s) : EffInv (atomic f glob ret cx s) := .ite (.handleAccess h) (.spmAccess h)

theorem EffInv.semSignal {n v : Nat} {cx : Cx} (h : Inv s) : EffInv (semSignal n v cx s) := by
  unfold Machine.semSignal
  split
  · exact h
  · exact .newAccess h

theorem OutInv.execSemSig {o : SemSigForm} (h : Inv s) : OutInv (execSemSig o s) := by
  refine .issue h fun _ _ h1 => ?_
  split <;> exact .semSignal h1

theorem OutInv.execSemPoll {f : XForm} (h : Inv s) : OutInv (execSemPoll f s) := by
  refine .issue h fun _ _ h1 => ?_
  dsimp only
  split
  · exact h1
  · exact .newAccess h1

theorem OutInv.execSemBind {f : XForm} (h : Inv s) : OutInv (execSemBind f s) := by
  refine .issue h fun _ _ h1 => ?_
  refine .ite h1 ?_
  refine .barrierOp h1 fun _ _ h2 => ?_
  split
  · exact h2
  · exact .ite h2 (.newAccess h2)

/-! ### The functions of Machine/Resource -/

theorem EffInv.acquireW {kind : Nat} {f : XForm} {cx : Cx} (h : Inv s) : EffInv (acquireW kind f cx s) := by
  unfold Machine.acquireW
  dsimp only
  split
  · exact h
  · exact .ite (.slotDone h) (.request (.setSub (.fresh h)))

theorem EffInv.acquireT {kind : Nat} {f : XForm} {cx : Cx} (h : Inv s) : EffInv (acquireT kind f cx s) := by
  unfold Machine.acquireT
  dsimp only
  split
  · exact .ite (.assign (.setCore h)) (.setCore h)
  · refine .ite h ?_
    split
    · exact h
    · exact .ite h (.request (.fresh h))

theorem Inv.dropBlocks {k m : Nat} (h : Inv s) : Inv (s.dropBlocks k m) := .release (.settleBanks (.update rfl (.setGroup h)))

theorem OutInv.execRelReg {f : XForm} (h : Inv s) : OutInv (execRelReg f s) := by
  refine .issue h fun _ _ h1 => ?_
  dsimp only
  split
  · exact h1
  · exact Inv.ite h1 (.dropBlocks h1)

theorem Inv.dropGranules {b n : Nat} (h : Inv s) : Inv (s.dropGranules b n) := .release (.setBlock (.dropBanks h))
theorem OutInv.execRelSpm {f : XForm} (h : Inv s) : OutInv (execRelSpm f s) := .issue h (fun _ _ h1 => .ite h1 (.ite h1 (.ite h1 (.dropGranules h1))))
theorem Inv.setMslot {u p : Nat} {m : MSlot} (h : Inv s) : Inv (s.setMslot u p m) := .setCore h

theorem OutInv.execRelMsl {f : XForm} (h : Inv s) : OutInv (execRelMsl f s) := by
  refine .issue h fun _ _ h1 => ?_
  dsimp only
  split
  · exact h1
  · split
    · exact h1
    · exact .release (.setBlock (.setCore h1))

theorem Inv.wakeSlot {cx : Cx} {key : Nat} (h : Inv s) : Inv (s.wakeSlot cx key) := .setCore (.setSub h)

theorem OutInv.execRwake {f : XForm} (h : Inv s) : OutInv (execRwake f s) := by
  refine .issue h fun _ _ h1 => ?_
  dsimp only
  refine .ite ?_ ?_
  · refine .ite h1 ?_
    split
    · exact .slotDone h1
    · exact .slotDone h1
    · exact .wakeSlot (.wakeSpm h1)
  · split
    · exact h1
    · split
      · exact .slotDone h1
      · exact .wakeSlot (.wakeReg h1)

theorem OutInv.execRsleep {f : XForm} (h : Inv s) : OutInv (execRsleep f s) := .issue h (fun _ _ h1 => .ite h1 (.post (.setGroup h1)))

theorem OutInv.execSpdrop {f : XForm} (h : Inv s) : OutInv (execSpdrop f s) := by
  refine .issue h fun _ _ h1 => ?_
  refine .ite h1 ?_
  refine .ite h1 ?_
  split
  · exact h1
  · exact .dropBanks h1

theorem OutInv.execRsleepExpire (h : Inv s) : OutInv (execRsleepExpire s) := .event (fun _ h1 => .ite (.again h1) (.wakeOwned (.setGroup h1))) h

theorem Inv.bankOn (h : Inv s) : Inv s.bankOn := by
  unfold State.bankOn
  dsimp only
  split
  · exact .foldl (fun _ _ h1 => .ite (.setSub h1) h1) (.setCore (.ite (.zero (.setCore h)) (.setCore h)))
  · exact h

theorem Inv.retainBank (h : Inv s) : Inv s.retainBank := .ite (.ite (.setCore h) h) (.ite (.setCore h) h)

/-! ### The functions of Machine/Control -/

theorem EffInv.branchIf {f : BForm} {taken : Cx → State → Bool} {cx : Cx} (h : Inv s) : EffInv (branchIf f taken cx s) := .ite h h
theorem EffInv.jumpTo {v : Nat} {wrs : List Wr} (h : Inv s) : EffInv (jumpTo s v wrs) := .ite h h

theorem GateInv.settle {k e : Nat} (h : Inv s) : GateInv (s.settle k e) := by
  unfold State.settle
  split
  next t1 ht1 => exact .of_blocked ht1 (.drainGate h)
  next t2 ht2 => exact .awaitSlots (.of_met ht2 (.drainGate h))

theorem Inv.retireCx {cx : Cx} (h : Inv s) : Inv (s.retireCx cx) := .retire h

theorem Inv.splitSub {cx : Cx} {taken : W32} {t : Nat} {bad : Bool} {n r : Nat} (h : Inv s) : Inv (s.splitSub cx taken t bad n r) :=
  .takeMark (.takeMark (.setGroup (.leaveClause (.retireCx h))))

theorem OutInv.execSplit {f : BForm} (h : Inv s) : OutInv (execSplit f s) := by
  refine .issue h fun _ _ h1 => ?_
  dsimp only
  split
  next t2 ht2 => exact .of_blocked ht2 (.settle h1)
  next t3 ht3 =>
    have h3 : Inv t3 := .of_met ht3 (.settle h1)
    refine .ite h3 ?_
    refine .ite h3 ?_
    split
    · exact .splitSub h3
    · exact h3

theorem Inv.mergeSubs {k e : Nat} (h : Inv s) : Inv (s.mergeSubs k e) := .takeMark (.setGroup h)

theorem OutInv.execFuse {f : TForm} (h : Inv s) : OutInv (execFuse f s) := by
  refine .issue h fun _ _ h1 => ?_
  split
  next t2 ht2 => exact .of_blocked ht2 (.settle h1)
  next t3 ht3 =>
    have h3 : Inv t3 := .of_met ht3 (.settle h1)
    exact .ite h3 (.ite (.mergeSubs h3) (.setSub h3))

theorem Inv.exitError {k e : Nat} (h : Inv s) : Inv (s.exitError k e) := by
  unfold State.exitError
  dsimp only
  split
  · exact h
  · exact .record (.setGroup h)

theorem Inv.exitDrops {cx : Cx} (h : Inv s) : Inv (s.exitDrops cx) := .foldl (fun _ _ h1 => .ite (.newAccess h1) h1) h

theorem Inv.exitGroup {cx : Cx} (h : Inv s) : Inv (s.exitGroup cx) := by
  unfold State.exitGroup
  split
  · exact .setGroup (.exitDrops (.exitError h))
  · exact .postOnce (.setGroup (.exitDrops (.exitError h)))
  · exact .vacate (.postOnce (.postOnce (.release (.settleBanks (.setGroup (.exitDrops (.exitError h)))))))

theorem OutInv.execExit {f : TForm} (h : Inv s) : OutInv (execExit f s) := by
  refine .issue h fun _ _ h1 => ?_
  refine .ite h1 ?_
  split
  next t2 ht2 => exact .of_blocked ht2 (.drainGate h1)
  next t3 ht3 =>
    have h3 : Inv t3 := .of_met ht3 (.drainGate h1)
    exact .setSub (.leaveClause (.ite (.exitGroup (.foldl (fun _ _ h4 => .ite (.withdraw h4) h4) h3)) (.foldl (fun _ _ h5 => .ite
      (.withdraw h5) h5) h3)))

theorem OutInv.execYield {f : TForm} (h : Inv s) : OutInv (execYield f s) := .issue h (fun _ _ h1 => .setSub (.advance (.retireCx h1)))

theorem OutInv.execSwait {f : IForm} (h : Inv s) : OutInv (execSwait f s) := by
  refine .issue h fun _ _ h1 => ?_
  split
  next t2 ht2 => exact .of_blocked ht2 (.awaitSlots h1)
  next t3 ht3 => exact .of_met ht3 (.awaitSlots h1)

/-! ### The functions of Machine/Scalar -/

theorem EffInv.aluEff {o : AluForm} {b32 zext d32 : Bool} {r : Nat → Nat → Nat → Nat → Nat} {cx : Cx} (h : Inv s) :
    EffInv (aluEff o b32 zext d32 r cx s) :=
  h

theorem EffInv.divEff {o : AluForm} {part : Nat × Nat → Nat} {cx : Cx} (h : Inv s) : EffInv (divEff o part cx s) := .slotBusy h

/-! ### The functions of Machine/Vector -/

theorem EffInv.vecEff {f : TForm} {nd n0 n1 n2 : Nat} {c2 : Bool} {lat : Nat} {F : Nat → Nat → Nat → Nat → Nat} {cx : Cx} (h : Inv s) :
    EffInv (vecEff f nd n0 n1 n2 c2 lat F cx s) :=
  h

/-! ### The functions of Machine/VectorFloat -/

theorem EffInv.fpResult {cx : Cx} {f : TForm} {nd lat draws : Nat} {slot : Bool} {F : Nat → (Nat → Nat) → Nat × BitVec 5} (h : Inv s) :
    EffInv (s.fpResult cx f nd lat draws slot F) := by
  unfold State.fpResult
  dsimp only
  split
  · exact h
  · exact .ite (Inv.ite (.slotBusy (.ite h (.land h))) (.setSub (.slotBusy (.ite h (.land h))))) (Inv.ite h (.land h))

theorem EffInv.fpEff {t : FVar} {f : TForm} {nsrc : Nat} {x : Fv → Fv → Fv → Rm → Xv} {cx : Cx} (h : Inv s) : EffInv (fpEff t f nsrc x cx s) := by
  unfold Machine.fpEff
  exact .fpResult h

theorem EffInv.fpQuiet {t : FVar} {f : TForm} {two : Bool} {nd lat : Nat} {g : Nat → Nat → Nat} {cx : Cx} (h : Inv s) :
    EffInv (fpQuiet t f two nd lat g cx s) :=
  h

theorem EffInv.fpRooted {t : FVar} {f : TForm} {x : Fv → Xv × BitVec 5} {cx : Cx} (h : Inv s) : EffInv (fpRooted t f x cx s) := by
  unfold Machine.fpRooted
  exact .fpResult h

theorem EffInv.fpTranscendental {half : Bool} {f : TForm} {g : Nat → Nat × BitVec 5} {cx : Cx} (h : Inv s) :
    EffInv (fpTranscendental half f g cx s) := by
  unfold Machine.fpTranscendental
  exact .fpResult h

theorem OutInv.execVred {o : RedOp} {f : TForm} (h : Inv s) : OutInv (execVred o f s) := by
  refine .issue h fun _ _ h1 => ?_
  dsimp only
  split <;> exact h1

theorem OutInv.execVscan {o : RedOp} {f : TForm} (h : Inv s) : OutInv (execVscan o f s) := by
  refine .issue h fun _ _ h1 => ?_
  dsimp only
  split <;> exact h1

/-! ### The functions of Machine/Engine -/

theorem GotInv.tileAhead {b ring ahead : Nat} (h : Inv s) : GotInv (fun _ => True) (s.tileAhead b ring ahead) := .ite trivial (.ite h trivial)

theorem GotInv.readTile {b start len : Nat} {rs : List (Nat × Nat)} (h : Inv s) : GotInv (fun _ => True) (s.readTile b start len rs) := by
  unfold State.readTile
  split
  · trivial
  · dsimp only
    split
    · trivial
    · split
      next t ht => exact Inv.of_some ht (.wakeFor h)
      · split
        · exact h
        · split
          · trivial
          · trivial

theorem GotInv.feed {b mode ring base stride c ahead : Nat} {opB : Bool} (h : Inv s) :
    GotInv (fun _ => True) (s.feed b mode opB ring base stride c ahead) := by
  unfold State.feed
  dsimp only
  split
  · trivial
  next t ht => exact Inv.of_wait ht (.tileAhead h)
  · refine .ite (.ite trivial (.ite trivial ?_)) ?_
    · split
      · trivial
      next t _ ht => exact Inv.of_wait ht (.readTile h)
      · trivial
      · trivial
    · split
      · trivial
      next t ht => exact Inv.of_wait ht (.readTile h)
      · trivial

theorem GotInv.feedScale {b ring base ahead : Nat} {opB : Bool} (h : Inv s) : GotInv (fun _ => True) (s.feedScale b opB ring base ahead) := by
  unfold State.feedScale
  dsimp only
  split
  · trivial
  next t ht => exact Inv.of_wait ht (.tileAhead h)
  · split
    · trivial
    next t ht => exact Inv.of_wait ht (.readTile h)
    · trivial

theorem GotInv.drainByte {b : Nat} {m : MSlot} {o stride ofmt : Nat} {left : List Nat} (h : Inv s) :
    GotInv (fun r => Inv r.1) (s.drainByte b m o stride ofmt left) := by
  unfold State.drainByte
  have hc : Inv (s.choose left.length).2 := .choose h
  generalize s.choose left.length = c at hc ⊢
  obtain ⟨i, t⟩ := c
  dsimp only at hc ⊢
  generalize hw : t.wakeFor b _ = w
  generalize left.find? _ = found
  cases found with
  | none => exact .ok hc
  | some x =>
    cases w with
    | some u => exact Inv.of_some hw (.wakeFor hc)
    | none => exact .ite hc (.ok (.writeAt hc))

theorem Inv.drainClean {b o stride ofmt : Nat} (h : Inv s) : Inv (s.drainClean b o stride ofmt) := h
theorem Inv.routineArrives {b p off n : Nat} (h : Inv s) : Inv (s.routineArrives b p off n) := .barUpdate h
theorem Inv.routineEnds {u p : Nat} {m : MSlot} (h : Inv s) : Inv (s.routineEnds u p m) := .postOnce (.setMslot (.ite h (.routineArrives h)))

theorem Inv.routineFaults {u p reason off : Nat} (h : Inv s) : Inv (s.routineFaults u p reason off) :=
  .postOnce (.ite (.setMslot h) (.barUpdate (.setBlock (.setMslot h))))

theorem Inv.popTile {b ring : Nat} (h : Inv s) : Inv (s.popTile b ring) := .dropBanks (.setRing h)
theorem Inv.engineWaits {u p : Nat} (h : Inv s) : Inv (s.engineWaits u p) := .ite (.postOnce (.setMslot h)) h

theorem OutInv.micro {i : Instr} {w : MuWord} {f : Nat → Nat → MSlot → State → MuEff} (h : Inv s) (hf : ∀ u p m t, Inv t → MuInv (f u p m t)) :
    OutInv (micro i w f s) := by
  unfold Machine.micro
  split
  next u p _ =>
    refine .ite (Inv.routineFaults h) ?_
    have hr := hf u p (s.mslot u p) s h
    generalize f u p (s.mslot u p) s = r at hr ⊢
    cases r with
    | go t m => exact Inv.setMslot hr
    | jump t m x => exact Inv.setMslot hr
    | fault r o => exact Inv.routineFaults h
    | wait t => exact Inv.engineWaits hr
    | _ => exact hr
  · trivial

theorem OutInv.execMuFeed {w : MuWord} (h : Inv s) : OutInv (execMuFeed w s) := by
  refine .micro h fun _ _ m t ht => .ite trivial ?_
  split
  · trivial
  next r hr => exact Inv.of_wait hr (.feed ht)
  · exact ht

theorem OutInv.execMuScale {w : MuWord} (h : Inv s) : OutInv (execMuScale w s) := by
  refine .micro h fun _ _ m t ht => ?_
  dsimp only
  split
  · trivial
  next r hr => exact Inv.of_wait hr (.feedScale ht)
  · exact ht

theorem OutInv.execMuStep {w : MuWord} (h : Inv s) : OutInv (execMuStep w s) := by
  refine .micro h fun _ _ _ _ h1 => ?_
  split
  · trivial
  · exact h1

theorem OutInv.execMuAcc {w : MuWord} (h : Inv s) : OutInv (execMuAcc w s) := by
  refine .micro h fun _ _ _ _ h1 => ?_
  split
  · trivial
  · exact h1

theorem OutInv.execMuSparse {w : MuWord} (h : Inv s) : OutInv (execMuSparse w s) := .micro h (fun _ _ _ _ h1 => .ite trivial h1)

theorem MuInv.drainStep {p : Nat} {m : MSlot} {toring : Bool} {ring base stride ofmt : Nat} {clr : Bool} (h : Inv s) :
    MuInv (s.drainStep p m toring ring base stride ofmt clr) := by
  unfold State.drainStep
  dsimp only
  split
  · split
    · trivial
    next t ht => exact Inv.of_wait ht (.drainByte h)
    next t left ht =>
      have h1 : Inv t := .of_gotOk ht (.drainByte h)
      split
      · split
        · exact Inv.setMslot (.post (.setRing (.drainClean h1)))
        · exact Inv.drainClean h1
      · exact Inv.setMslot h1
  · split
    · exact .ite h h
    · refine .ite trivial (.ite trivial (.ite h ?_))
      split
      · trivial
      · exact Inv.setMslot (.ite (.setRing (.fresh h)) (.fresh h))

theorem OutInv.execMuDrain {w : MuWord} (h : Inv s) : OutInv (execMuDrain w s) := by
  refine .micro h fun _ p m t ht => ?_
  dsimp only
  split
  next r _ hr => exact Inv.of_muGo hr (.drainStep ht)
  · exact .drainStep ht

theorem OutInv.execMuClear {w : MuWord} (h : Inv s) : OutInv (execMuClear w s) := .micro h (fun _ _ _ _ h1 => h1)

theorem OutInv.execMuPop {w : MuWord} (h : Inv s) : OutInv (execMuPop w s) := by
  refine .micro h fun _ _ _ _ h1 => ?_
  dsimp only
  split
  · trivial
  · exact .popTile h1

theorem OutInv.execMuLoop {w : MuWord} (h : Inv s) : OutInv (execMuLoop w s) := .micro h (fun _ _ _ _ h1 => .ite h1 (.ite h1 (.ite h1 trivial)))

theorem OutInv.execMuSig {w : MuWord} (h : Inv s) : OutInv (execMuSig w s) :=
  .micro h (fun _ _ _ _ h1 => .ite trivial (Inv.ite (.routineArrives h1) (.ite h1 (.barUpdate h1))))

theorem OutInv.execMuYield {w : MuWord} (h : Inv s) : OutInv (execMuYield w s) := .micro h (fun _ _ _ _ h1 => .ite trivial h1)
theorem OutInv.execMuEnd {w : MuWord} (h : Inv s) : OutInv (execMuEnd w s) := .micro h (fun _ _ _ _ h1 => .routineEnds h1)
theorem Inv.libGo {u p : Nat} {m : MSlot} {l : Lib} (h : Inv s) : Inv (s.libGo u p m l) := .setMslot h

theorem Inv.libMm {u p : Nat} {m : MSlot} {l : Lib} (h : Inv s) : Inv (s.libMm u p m l) := by
  unfold State.libMm
  extract_lets b M N x ra rb rs fa fb mx mode m ja jb go got pop
  have hgo (m : MSlot) (l : Lib) {t : State} (ht : Inv t) : Inv (go t m l) := .libGo ht
  have hgot {r : Got State} (hr : GotInv Inv r) : Inv (got r) := by
    cases r with
    | ok t => exact hr
    | bad r o => exact .routineFaults h
    | wait t => exact .engineWaits hr
  have hpop (ring : Nat) {f : State → State} (hf : ∀ t, Inv t → Inv (f t)) : Inv (pop ring f) := by
    unfold pop
    split
    · exact .routineFaults h
    · exact hf _ (.popTile h)
  split
  · refine .ite (hgo _ _ h) (.ite (.routineFaults h) (hgot ?_))
    split
    · exact hgo _ _ h
    · trivial
    next t ht => exact Inv.of_wait ht (.feed h)
  · refine .ite (.routineFaults h) (hgot ?_)
    split
    · exact hgo _ _ h
    · trivial
    next t ht => exact Inv.of_wait ht (.feed h)
  · refine hgot ?_
    split
    · exact hgo _ _ h
    · trivial
    next t ht => exact Inv.of_wait ht (.feedScale h)
  · refine hgot ?_
    split
    · exact hgo _ _ h
    · trivial
    next t ht => exact Inv.of_wait ht (.feedScale h)
  · split
    · exact .routineFaults h
    · split
      · exact .routineFaults h
      · exact hgo _ _ h
  · exact hpop _ fun _ ht => hgo _ _ ht
  · exact hpop _ fun _ ht => hgo _ _ ht
  · exact .ite (hpop _ fun _ ht => hgo _ _ ht) (hgo _ _ h)
  · exact hgo _ _ h
  · exact .ite (hgo _ _ h) (hpop _ fun _ ht => hgo _ _ ht)
  · exact .ite (hpop _ fun _ ht => hgo _ _ ht) (hgo _ _ h)
  · exact .ite (hgo _ _ h) (hpop _ fun _ ht => hgo _ _ ht)
  · exact .routineEnds h

theorem Inv.libStep {u p : Nat} {m : MSlot} {l : Lib} (h : Inv s) : Inv (s.libStep u p m l) := by
  unfold State.libStep
  refine .ite (.routineFaults h) (.ite (.libMm h) (.ite (.ite (.routineEnds h) ?_) (.ite (.routineEnds h) (.libGo h))))
  dsimp only
  generalize hq : State.drainStep .. = r
  have hr : MuInv r := hq ▸ .drainStep h
  cases r with
  | go t m => exact .libGo hr
  | jump t m x => exact .libGo hr
  | fault r o => exact .routineFaults h
  | wait t => exact .engineWaits hr
  | _ => exact hr

theorem Inv.engineNext {u p : Nat} {t : State} (ht : s.engineNext u p = .inr t) (h : Inv s) : Inv t := by
  unfold State.engineNext at ht
  dsimp only at ht
  split at ht
  · cases ht
    exact .libStep h
  · split at ht
    · cases ht
      exact .routineFaults h
    · split at ht
      · cases ht
      · cases ht
        exact .routineFaults h

/-! ### The functions of Machine/Matrix -/

theorem Inv.startRoutine {k p slot bar routine : Nat} (h : Inv s) : Inv (s.startRoutine k p slot bar routine) := .setMslot h

theorem EffInv.callRoutine {slot bar routine : Nat} {cx : Cx} (h : Inv s) : EffInv (callRoutine slot bar routine cx s) := by
  unfold Machine.callRoutine
  split
  · exact h
  · exact .ite h (.startRoutine h)

theorem OutInv.execMstat {f : XForm} (h : Inv s) : OutInv (execMstat f s) := by
  refine .issue h fun _ _ h1 => ?_
  split <;> exact h1

theorem OutInv.execRset {p : RingPart} {f : XForm} (h : Inv s) : OutInv (execRset p f s) := by
  refine .issue h fun _ _ h1 => ?_
  dsimp only
  split
  · exact h1
  · exact .setRing h1

theorem OutInv.execMstatR {f : XForm} (h : Inv s) : OutInv (execMstatR f s) := .issue h (fun _ _ h1 => .ite h1 h1)
theorem Inv.longOp {cx : Cx} {wrs : List Wr} {data : List Byte} (h : Inv s) : Inv (s.longOp cx wrs data) := .post (.setSub h)
theorem Inv.finishTile {k b n t : Nat} (h : Inv s) : Inv (s.finishTile k b n t) := .post (.setRing h)

theorem EffInv.ringOp {f : XForm} {go : Nat → Nat → Ring → Cx → State → Eff} {cx : Cx} (hf : ∀ x0 x1 x2 x3 t, Inv t → EffInv (go x0 x1 x2 x3 t))
    (h1 : Inv s) :
    EffInv (ringOp f go cx s) :=
  .ite h1 (hf _ _ _ _ _ h1)

theorem OutInv.execRpushW {f : XForm} (h : Inv s) : OutInv (execRpushW f s) := by
  refine .issue h fun _ _ h1 => ?_
  refine .ringOp (fun _ _ _ _ _ h2 => ?_) h1
  refine .ite ?_ (.longOp h2)
  split
  · exact h2
  · exact .finishTile h2

theorem OutInv.execRpushT {f : XForm} (h : Inv s) : OutInv (execRpushT f s) := by
  refine .issue h fun _ _ h1 => ?_
  refine .ringOp (fun _ _ _ _ _ h2 => ?_) h1
  refine .ite ?_ (.ite h2 (.setRing h2))
  split
  · exact h2
  · exact .finishTile h2

theorem OutInv.execRpopW {f : XForm} (h : Inv s) : OutInv (execRpopW f s) :=
  .issue h (fun _ _ h1 => .ringOp (fun _ _ _ _ _ h2 => .ite (.ite h2 (.ite h2 (.popTile h2))) (.longOp h2)) h1)

theorem OutInv.execRpopT {f : XForm} (h : Inv s) : OutInv (execRpopT f s) :=
  .issue h (fun _ _ h1 => .ringOp (fun _ _ _ _ _ h2 => .ite (.ite h2 (.ite h2 (.popTile h2))) (.ite h2 h2)) h1)

theorem EffInv.withSlot {slot : Nat} {fill : Bool} {go : Nat → MSlot → Cx → State → Eff} {cx : Cx} (h : Inv s)
    (hf : ∀ x0 x1 x2 t, Inv t → EffInv (go x0 x1 x2 t)) :
    EffInv (withSlot slot fill go cx s) := by
  unfold Machine.withSlot
  split
  · exact h
  · exact .ite h (.ite h (hf _ _ _ _ h))

theorem EffInv.tileAccess {cx : Cx} {p : Nat} {m : MSlot} {a : Access} (h : Inv s) : EffInv (s.tileAccess cx p m a) := .setMslot (.newAccess h)

theorem EffInv.tileLocal {f : XForm} {fill : Bool} {kind : Nat → AccKind} {cx : Cx} (h : Inv s) : EffInv (tileLocal f fill kind cx s) := by
  unfold Machine.tileLocal
  dsimp only
  split
  · exact h
  · refine .withSlot h fun _ _ _ _ h1 => ?_
    split
    next t2 ht2 => exact .of_some ht2 (.wakeFor h1)
    · exact .tileAccess h1

theorem EffInv.tileGlobal {f : XForm} {fill : Bool} {kind : Nat → AccKind} {cx : Cx} (h : Inv s) : EffInv (tileGlobal f fill kind cx s) := by
  unfold Machine.tileGlobal
  dsimp only
  split
  · exact h
  · exact .withSlot h (fun _ _ _ _ h1 => .tileAccess h1)

theorem OutInv.execMclr {f : XForm} (h : Inv s) : OutInv (execMclr f s) := by
  refine .issue h fun _ _ h1 => ?_
  split
  · exact h1
  · exact .ite h1 (.setMslot h1)

theorem OutInv.execMclrAll {f : XForm} (h : Inv s) : OutInv (execMclrAll f s) := by
  refine .issue h fun _ _ h1 => ?_
  dsimp only
  split
  · exact Inv.foldl (fun _ _ h2 => .setMslot h2) h1
  · exact Inv.foldl (fun _ _ h3 => .setMslot h3) h1

theorem Inv.lapseEngine {u : Nat} (h : Inv s) : Inv (s.lapseEngine u) := by
  unfold State.lapseEngine
  dsimp only
  split
  · exact h
  · exact .ite h (.setCore h)

theorem OutInv.execMloadRt {f : XForm} (h : Inv s) : OutInv (execMloadRt f s) := by
  refine .issue h fun _ _ h1 => ?_
  split
  · exact h1
  · exact .slotDone (.ite (.setCore h1) h1)

theorem OutInv.execMloadCode {f : XForm} (h : Inv s) : OutInv (execMloadCode f s) := by
  refine .issue h fun _ _ h1 => ?_
  dsimp only
  split
  · exact h1
  · split
    · exact h1
    · exact .longOp h1

theorem Inv.finishSlot {ke j seq : Nat} {f : List Wr → List Wr} (h : Inv s) : Inv (s.finishSlot ke j seq f) := .ite (.setSub h) h

theorem Inv.loadCode {k e : Nat} {d : List Byte} (h : Inv s) : Inv (s.loadCode k e d).2.1 := by
  unfold State.loadCode
  dsimp only
  split
  · exact h
  · split
    · exact h
    · have hr : Inv (if leNat ((d.drop 17).take 4) = 0 then (none, s)
          else s.walkRange (s.ctxOf k) (leNat ((d.drop 2).take 4)) (leNat ((d.drop 6).take 1)) (leNat ((d.drop 7).take 6))
            (8 * leNat ((d.drop 17).take 4)) false).2 := .ite_snd h (.walkRange h)
      split
      · split
        · exact hr
        · exact .pausedRec hr
      · exact hr
      · exact .setCore (.foldl_snd (fun _ _ hp => .ite_snd (.freeWord hp) hp) hr)

theorem Inv.longOpStep (h : Inv s) : Inv s.longOpStep := by
  unfold State.longOpStep
  refine .ite h ?_
  split
  · exact .ite (.again h) (.finishSlot (.setRing h))
  · exact .ite (.again h) (.finishSlot h)
  · refine .ite (.again h) (.ite (.again h) ?_)
    split
    next t _ ht => exact .finishSlot (.of_snd_fst ht (.loadCode h))
    next t _ ht => exact .post (.of_snd_fst ht (.loadCode h))

/-! ### The functions of Machine/Traps -/

theorem Inv.codeCheck {k : Nat} {h : HandleReg} {pc n : Nat} (hi : Inv s) : Inv (s.codeCheck k h pc n).2 := by
  unfold State.codeCheck
  dsimp only
  split
  · exact hi
  · refine .foldl_snd (fun _ _ h1 => ?_) hi
    split
    · exact .walk h1
    · refine .ite_snd (.walk h1) ?_
      split <;> exact .walk h1

theorem Inv.codeWord {ctx obj : Nat} {exts : Tab Nat} {off : Nat} (h : Inv s) : Inv (s.codeWord ctx obj exts off).2 := by
  unfold State.codeWord
  split
  · exact .choose h
  · exact h

theorem Inv.codeWords {ctx obj : Nat} {exts : Tab Nat} {off n : Nat} (h : Inv s) : Inv (s.codeWords ctx obj exts off n).2 :=
  .foldl_snd (fun _ _ h1 => .codeWord h1) h

theorem Inv.clauseTrap {k e c : Nat} {t : TrapInfo} (h : Inv s) : Inv (s.clauseTrap k e c t) := .takeTrap h

theorem Inv.fetchFail {k e c : Nat} {h : HandleReg} {step off : Nat} (hi : Inv s) : Inv (s.fetchFail k e c h step off) :=
  .ite (.suspend hi) (.clauseTrap hi)

theorem Inv.enterClause {k e : Nat} {cl : Clause} (h : Inv s) : Inv (s.enterClause k e cl) := by
  unfold State.enterClause
  dsimp only
  split
  · exact .clauseTrap h
  · exact .ite (.takeMark (.setSub h)) (.setSub h)
  · exact .ite (.takeMark (.ite (.leaveClause (.setSub h)) (.setSub h))) (.ite (.leaveClause (.setSub h)) (.setSub h))

theorem Inv.fetchBody {k e c : Nat} {w : W64} (h : Inv s) : Inv (s.fetchBody k e c w) := by
  unfold State.fetchBody
  dsimp only
  split
  next t1 ht1 => exact .fetchFail (.of_snd ht1 (.codeCheck h))
  next t2 ht2 =>
    have h2 : Inv t2 := .of_snd ht2 (.codeCheck h)
    split
    · exact .clauseTrap (.codeWords h2)
    · refine .ite (.clauseTrap (.codeWords h2)) ?_
      split
      · exact .clauseTrap (.codeWords h2)
      · exact .enterClause (.codeWords h2)

theorem Inv.clauseFetch {k e : Nat} (h : Inv s) : Inv (s.clauseFetch k e) := by
  unfold State.clauseFetch
  split
  · exact .takeTrap (.setSub h)
  · refine .ite (.clauseTrap (.setSub h)) ?_
    dsimp only
    split
    next t1 ht1 => exact .fetchFail (.of_snd ht1 (.codeCheck h))
    next t2 ht2 =>
      have h2 : Inv t2 := .of_snd ht2 (.codeCheck h)
      split
      · exact .clauseTrap (.codeWord h2)
      · exact .ite (.setSub (.codeWord h2)) (.ite (.clauseTrap (.codeWord h2)) (.fetchBody (.codeWord h2)))

theorem OutInv.execClauseFetch (h : Inv s) : OutInv (execClauseFetch s) := by
  unfold Machine.execClauseFetch
  split
  · exact .clauseFetch h
  · trivial

theorem Inv.commitStep (h : Inv s) : Inv s.commitStep := by
  unfold State.commitStep
  refine .ite ?_ (.ite h (.ite (.commitSub h) (.again h)))
  split
  · exact h
  · exact .ite (.enterHandler h) (.again h)

theorem Inv.rollbackSub {k e : Nat} (h : Inv s) : Inv (s.rollbackSub k e) := .freeHolders (.rollback h)
theorem Inv.dropTrap {k : Nat} (h : Inv s) : Inv (s.dropTrap k) := .setGroup h

theorem Inv.latticeFailure {a : Access} {t : TrapInfo} (h : Inv s) : Inv (s.latticeFailure a t) := by
  unfold State.latticeFailure
  dsimp only
  split
  · exact .ite (.ite (.suspend (.dropTrap (.rollbackSub h))) (.takeTrap (.dropTrap (.rollbackSub h)))) (.rollbackSub h)
  · exact .ite (.suspend (.rollbackSub h)) (.takeTrap (.rollbackSub h))

theorem Inv.streamFailure {a : Access} {t : TrapInfo} (h : Inv s) : Inv (s.streamFailure a t) :=
  .ite (.pausedRec (.setAccess h)) (.setSub (.complete h))

theorem Inv.portFailure (h : Inv s) : Inv s.portFailure := by
  unfold State.portFailure
  split
  · exact h
  · split
    · exact h
    · exact .ite (.latticeFailure h) (.streamFailure h)

theorem Inv.umpire (h : Inv s) : Inv s.umpire := by
  unfold State.umpire
  dsimp only
  split
  · exact h
  · exact .ite (.takeTrap (.setSub (.ite (.setGroup (.ite (.setSub (.withdraw h)) h)) (.ite (.setSub (.withdraw h)) h)))) (.again h)

theorem EffInv.trapReturn {skip : Bool} {cx : Cx} (h : Inv s) : EffInv (trapReturn skip cx s) :=
  .ite h (.ite (.takeDouble h) (.returnTrap (.leaveClause (.retireCx h))))

theorem OutInv.execTesc {f : XForm} (h : Inv s) : OutInv (execTesc f s) := .issue h (fun _ _ h1 => .setGroup (.setSub (.record h1)))

theorem Inv.signalTokens (h : Inv s) : Inv s.signalTokens := by
  unfold State.signalTokens
  dsimp only
  split
  · exact h
  · refine .ite (.again h) ?_
    split
    · exact .ite (.vacate (.setGroup h)) (.again h)
    · exact .again h
    · exact .vacate (.postOnce (.setGroup (.setBlock h)))

theorem GateInv.signalGate {k : Nat} (h : Inv s) : GateInv (s.signalGate k) := by
  unfold State.signalGate
  refine .ite h ?_
  split
  · exact .ite (.clauseTrap (.setGroup h)) h
  · exact .waitFor h
  · exact h

theorem Inv.poisonSite {site : ErrorSite} (h : Inv s) : Inv (s.poisonSite site) := by
  unfold State.poisonSite
  split
  · exact .setGroup h
  · exact .setSub h
  · exact .setGroup h
  · exact .setSub h
  · exact .setMslot h
  · exact .poisonGranules h
  · exact .poisonGranules h

theorem OutInv.execUncorrectableError (h : Inv s) : OutInv (execUncorrectableError s) := by
  refine .event (fun _ h1 => ?_) h
  split
  · exact .poisonSite h1
  · exact h1

/-! ### The functions of Machine/Agents -/

theorem Inv.tick (h : Inv s) : Inv s.tick := .update rfl (.lookAll h)

/-! ### The functions of Machine/Launch -/

theorem Inv.hubReach {c obj a n : Nat} (h : Inv s) : Inv (s.hubReach c obj a n).2 :=
  .ite_snd h (.ite_snd (.portRead h) (.foldl_snd (fun _ _ h1 => .walkPage h1) (.portRead h)))

theorem Inv.hubWrite {ps : Tab Nat} {a : Nat} {bs : List Byte} (h : Inv s) : Inv (s.hubWrite ps a bs) := .writeAt h

theorem Inv.judgeLaunch {p : PendingLaunch} (h : Inv s) : Inv (s.judgeLaunch p).2 := by
  unfold State.judgeLaunch
  dsimp only
  split
  · exact h
  · exact h
  · split
    · exact .ite_snd h (.hubReach h)
    · exact .ite_snd h (.hubReach h)
    · refine .ite_snd (.ite_snd h (.hubReach h)) ?_
      split <;> exact .ite_snd h (.hubReach h)

theorem Inv.refusedRecord {p : PendingLaunch} {status : Nat} (h : Inv s) : Inv (s.refusedRecord p status) := by
  unfold State.refusedRecord
  refine .ite h ?_
  split
  next t1 ht1 => exact .hubWrite (.of_snd ht1 (.hubReach h))
  next t2 ht2 => exact .of_snd ht2 (.hubReach h)

theorem Inv.invalidateEdges {l : Launch} (h : Inv s) : Inv (s.invalidateEdges l) := .foldl (fun _ _ h1 => .foldl (fun _ _ h2 => .dropStream h2) h1) h
theorem Inv.hubRecord {c n region obj off : Nat} (h : Inv s) : Inv (s.hubRecord c n region obj off) := .record h

theorem Inv.finishLaunch {n : Nat} (h : Inv s) : Inv (s.finishLaunch n) := by
  unfold State.finishLaunch
  split
  · exact h
  · refine .ite ?_ ?_
    · refine .ite h ?_
      refine .foldl (fun _ _ h1 => ?_) h
      split
      · exact .semAdd h1
      · exact h1
    · split
      next t2 ht2 =>
        have h2 : Inv t2 := .of_snd ht2 (.hubReach h)
        refine .ite (.update rfl (.hubWrite h2)) ?_
        refine .foldl (fun _ _ h3 => ?_) (.update rfl (.hubWrite h2))
        split
        · exact .semAdd h3
        · exact h3
      next t4 ht4 =>
        have h4 : Inv t4 := .of_snd ht4 (.hubReach h)
        exact .ite (.setLaunch h4) (.hubRecord (.setLaunch h4))
      next t5 _ ht5 =>
        have h5 : Inv t5 := .of_snd ht5 (.hubReach h)
        refine .ite h5 ?_
        refine .foldl (fun _ _ h6 => ?_) h5
        split
        · exact .semAdd h6
        · exact h6

theorem Inv.deliver {k e j seq : Nat} {wrs : List Wr} (h : Inv s) : Inv (s.deliver k e j seq wrs) := .ite (.setSub h) h
theorem Inv.answerLaunch {p : PendingLaunch} {number status : Nat} (h : Inv s) : Inv (s.answerLaunch p number status) := .deliver h

theorem Inv.acceptLaunch {p : PendingLaunch} {rv : RegionVals} {e : List Byte} (h : Inv s) : Inv (s.acceptLaunch p rv e) :=
  .reevalEdges (.answerLaunch (.setLaunch h))

theorem Inv.edgeRecord {p : PendingLaunch} (h : Inv s) : Inv (s.edgeRecord p) := .hubRecord h

theorem Inv.decideLaunch {p : PendingLaunch} {again : Bool} (h : Inv s) : Inv (s.decideLaunch p again) := by
  unfold State.decideLaunch
  dsimp only
  split
  next t1 ht1 => exact .acceptLaunch (.of_snd ht1 (.judgeLaunch h))
  next t2 ht2 =>
    have h2 : Inv t2 := .of_snd ht2 (.judgeLaunch h)
    exact .answerLaunch (.ite (.refusedRecord h2) h2)
  next t3 ht3 =>
    have h3 : Inv t3 := .of_snd ht3 (.judgeLaunch h)
    exact .ite h3 (.edgeRecord h3)

theorem Inv.submit {a : Access} (h : Inv s) : Inv (s.submit a) := .decideLaunch h

theorem OutInv.execEdgeReadResume (h : Inv s) : OutInv (execEdgeReadResume s) := by
  refine .event (fun _ h1 => ?_) h
  split
  · exact .decideLaunch h1
  · exact h1

theorem Inv.edgesHold (h : Inv s) : Inv s.edgesHold := by
  unfold State.edgesHold
  split
  · exact h
  · exact .ite h (.ite (.finishLaunch (.setLaunch h)) (.postOnce (.update rfl (.setLaunch (.invalidateEdges h)))))

theorem Inv.grantEntry {b k kind n : Nat} (h : Inv s) : Inv (s.grantEntry b k kind n) := .foldl (fun _ _ h1 => .land h1) (.assign h)

theorem Inv.seat {l : Launch} {u idx : Nat} {hold : Bool} (h : Inv s) : Inv (s.seat l u idx hold).2 := by
  unfold State.seat
  dsimp only
  refine .grantEntry ?_
  refine .grantEntry ?_
  refine .foldl (fun _ _ h1 => ?_) (.foldl (fun _ _ h2 => .setGroup h2) (.update rfl (.setBlock (.ite (.dropLines (.update rfl (.takeAny h)))
    (.update rfl (.takeAny h))))))
  refine .ite ?_ h1
  refine .takeMark ?_
  split
  · exact .setCore (.setGroup (.grantEntry h1))
  · exact .setGroup (.grantEntry h1)

theorem PlacedInv.placeOn {l : Launch} {idx : Nat} {hold : Bool} {us : List Nat} (h : Inv s) : PlacedInv (s.placeOn l idx hold us) := by
  induction us with
  | nil => trivial
  | cons u t ih => exact .ite trivial (.ite (Inv.seat h) ih)

theorem PlacedInv.placeMembers {l : Launch} {idx : Nat} {hold : Bool} {us : List Nat} :
    ∀ {s : State} {bs : List Nat}, Inv s → PlacedInv (s.placeMembers l idx hold us bs) := by
  induction us with
  | nil => exact fun h => Inv.foldl (fun _ _ h => .setBlock h) h
  | cons u t ih => exact fun h => .ite (ih (.seat h)) trivial

theorem PlacedInv.placeSet {l : Launch} {idx : Nat} {hold : Bool} {us ps : List Nat} (h : Inv s) : PlacedInv (s.placeSet l idx hold us ps) := by
  induction ps with
  | nil => trivial
  | cons p t ih =>
    unfold State.placeSet
    refine .ite ih (.ite trivial ?_)
    dsimp only
    split
    · exact ih
    · exact .ite trivial (.placeMembers h)

theorem PlacedInv.placeNext {l : Launch} {idx : Nat} {hold : Bool} (h : Inv s) : PlacedInv (s.placeNext l idx hold) := .ite (.placeSet h) (.placeOn h)

theorem PlacedInv.placeGang {l : Launch} {fuel : Nat} : ∀ {s : State} {idx : Nat}, Inv s → PlacedInv (s.placeGang l fuel idx) := by
  induction fuel with
  | zero => exact fun _ => trivial
  | succ fuel ih =>
    intro s idx h
    unfold State.placeGang
    refine .ite h ?_
    split
    next t bs ht => exact ih (.of_placed ht (.placeNext h))
    · exact .placeNext h

theorem Inv.startGang {n : Nat} (h : Inv s) : Inv (s.startGang n) := h
theorem Inv.gangReady {n : Nat} {l : Launch} (h : Inv s) : Inv (s.gangReady n l) := .ite (.startGang h) (.post (.ite (.setLaunch h) h))
theorem Inv.passOver {n : Nat} {l : Launch} (h : Inv s) : Inv (s.passOver n l) := .ite h (.post (.setLaunch h))
theorem Inv.admitted {n next : Nat} (h : Inv s) : Inv (s.admitted n next) := .ite (.update rfl (.setLaunch h)) (.setLaunch h)

theorem Inv.placeLaunch {n fuel : Nat} : ∀ {s : State}, Inv s → Inv (s.placeLaunch n fuel) := by
  induction fuel with
  | zero => exact fun h => h
  | succ fuel ih =>
    intro s h
    unfold State.placeLaunch
    refine .ite h (.ite ?_ ?_)
    · split
      next t bs ht => exact .gangReady (.admitted (.of_placed ht (.placeGang h)))
      · exact .passOver h
      · exact .postOnce (.passOver h)
    · split
      next t bs ht => exact ih (.admitted (.of_placed ht (.placeNext h)))
      · exact .passOver h
      · exact .postOnce (.passOver h)

theorem Inv.considerAll {ns : List Nat} : ∀ {s : State} {done : List Nat}, Inv s → Inv (s.considerAll ns done) := by
  induction ns with
  | nil => exact fun h => h
  | cons n t ih => exact fun h => ih (.ite h (.placeLaunch h))

theorem Inv.schedule (h : Inv s) : Inv s.schedule := .considerAll (.foldl (fun _ _ h1 => .ite (.postOnce h1) h1) h)

theorem OutInv.execReservationTimeout (h : Inv s) : OutInv (execReservationTimeout s) :=
  .event (fun _ h1 => .ite h1 (.ite (.again h1) (.postOnce (.setLaunch h1)))) h

theorem OutInv.execKickoffFire (h : Inv s) : OutInv (execKickoffFire s) := by
  refine .event (fun _ h1 => ?_) h
  split
  · exact h1
  · exact .ite (.again h1) (.ite (.again (.setLaunch h1)) (.startGang (.ite h1 (.setLaunch h1))))

/-! ### The functions of Machine/Points -/

theorem Inv.atomAt {id key op : Nat} {d : List Byte} (h : Inv s) : Inv (s.atomAt id key op d).2.2 := by
  unfold State.atomAt
  dsimp only
  split
  · exact .settleDrops h
  · split
    · exact .storeAt (.settleDrops h)
    · exact .settleDrops h

theorem Inv.dropOwnLines {a : Access} {el : Elem} (h : Inv s) : Inv (s.dropOwnLines a el) := by
  unfold State.dropOwnLines
  refine .ite h ?_
  split
  · exact h
  · exact .dropLines h
  · exact .ite h h

theorem Inv.noteCaches {a : Access} {el : Elem} {key : Nat} (h : Inv s) : Inv (s.noteCaches a el key) := .ite (.ite h h) (.holdHost (.ite h h))

theorem Inv.readElem {a : Access} {el : Elem} {key : Nat} (h : Inv s) : Inv (s.readElem a el key).2.2 := by
  unfold State.readElem
  refine .ite_snd (.settleDrops h) ?_
  refine .foldl_snd (fun _ _ h1 => .readVia h1) ?_
  refine .ite ?_ (.settleDrops h)
  split
  next t2 ht2 => exact .fillLine (.of_snd ht2 (.walk (.settleDrops h)))
  next t3 _ ht3 => exact .of_snd ht3 (.walk (.settleDrops h))

theorem Inv.spillByte {m : MSlot} {id key i n : Nat} {left : List Nat} (h : Inv s) : Inv (s.spillByte m id key i n left) :=
  .ite (.poisonGranules (.storeAt h)) (.ite (.update rfl (.storeAt h)) (.storeAt h))

theorem Inv.redRecord {a : Access} (h : Inv s) : Inv (s.redRecord a) := by
  unfold State.redRecord
  split
  · exact .record h
  · exact h

theorem Inv.performMem {a : Access} {i : Nat} {el : Elem} {key : Nat} (h : Inv s) : Inv (s.performMem a i el key).2 := by
  unfold State.performMem
  dsimp only
  split
  · exact .readElem (.noteCaches h)
  · exact .readElem (.noteCaches h)
  · exact .dropOwnLines (.ite (.update rfl (.storeAt (.noteCaches h))) (.storeAt (.noteCaches h)))
  · exact .spillByte (.choose (.noteCaches h))
  · exact .setMslot (.settleDrops (.choose (.noteCaches h)))
  · split
    · exact .readElem (.noteCaches h)
    · exact .dropOwnLines (.storeAt (.noteCaches h))
    · exact .dropOwnLines (.atomAt (.noteCaches h))
    · exact .dropOwnLines (.atomAt (.noteCaches h))
    · exact .noteCaches h

theorem Inv.fabricError {a : Access} {addr : Nat} (h : Inv s) : Inv (s.fabricError a addr) := .setGroup h

theorem Inv.finish {a : Access} (h : Inv s) : Inv (s.finish a) :=
  .ite (.ite (.submit (.freeHolds (.dropAccess h))) (.complete h)) (.ite (.complete (.update rfl (.setGroup h))) (.complete (.fabricError
    (.update rfl (.setGroup h)))))

theorem Inv.elemDone {a : Access} {i : Nat} {el : Elem} (h : Inv s) : Inv (s.elemDone a i el) :=
  .ite (.finish (.redRecord (.setAccess h))) (.setAccess h)

/-! ### The functions of Machine/Fabric -/

theorem Inv.setPort {p : Nat} {x : Port} (h : Inv s) : Inv (s.setPort p x) := h

theorem EffInv.fabricOp {f : XForm} {op need e : Nat} {scalar : Bool} {data : Nat → List Byte} {cx : Cx} (h : Inv s) :
    EffInv (fabricOp f op need e scalar data cx s) :=
  .ite h (.handleAccess h)

theorem OutInv.execFfence {f : XForm} (h : Inv s) : OutInv (execFfence f s) := by
  refine .issue h fun _ _ h1 => ?_
  dsimp only
  refine .ite h1 ?_
  split <;> exact .setGroup h1

theorem EffInv.signalOp {f : XForm} {flag : Bool} {cx : Cx} (h : Inv s) : EffInv (signalOp f flag cx s) :=
  .ite h (.ite h (.ite h (.ite h (.newAccess h))))

theorem Inv.putOnPort {k : Nat} {p : Packet} (h : Inv s) : Inv (s.putOnPort k p) := .ite h (.ite h h)
theorem Inv.flushPort {k : Nat} (h : Inv s) : Inv (s.flushPort k) := .foldl (fun _ _ h1 => .putOnPort h1) h

theorem OptInv.transmit {p : Packet} (h : Inv s) : OptInv (s.transmit p) := by
  unfold State.transmit
  dsimp only
  split
  · split
    · exact .post h
    · exact h
  · exact .putOnPort h
  · trivial

theorem Inv.settleAccess {a : Access} (h : Inv s) : Inv (s.settleAccess a) := .ite (.finish (.setAccess h)) (.setAccess h)

theorem Inv.sendRequest {a : Access} {is : List Nat} {req : Nat → Packet} {addr2 : Nat} (h : Inv s) : Inv (s.sendRequest a is req addr2) := by
  unfold State.sendRequest
  refine .ite (.settleAccess h) ?_
  refine .ite (.settleAccess h) ?_
  split
  · exact .settleAccess h
  next t1 ht1 =>
    have h1 : Inv t1 := .of_some ht1 (.transmit h)
    exact .post (.setAccess h1)

theorem Inv.sendRun {a : Access} {i : Nat} (h : Inv s) : Inv (s.sendRun a i) := by
  unfold State.sendRun
  exact .sendRequest h

theorem Inv.sendSignal {a : Access} {flag : Bool} {chip vsem : Nat} {x : W64} (h : Inv s) : Inv (s.sendSignal a flag chip vsem x) :=
  .ite (.finish h) (.sendRequest h)

theorem Inv.replyTo {p : Packet} {opcode status : Nat} {lanes : W32} {data : List Byte} (h : Inv s) : Inv (s.replyTo p opcode status lanes data) :=
  .getD (.transmit h) h

theorem Inv.discardPacket {port : Nat} {p : Packet} (h : Inv s) : Inv (s.discardPacket port p) :=
  .ite (.replyTo (.ite (.setPort h) h)) (.ite (.setPort h) h)

theorem Inv.forward {p : Packet} (h : Inv s) : Inv (s.forward p) := .ite (.ite (.replyTo h) h) (.getD (.transmit h) (.ite (.replyTo h) h))

theorem Inv.packetLane {p : Packet} {l h : Nat} (hi : Inv s) : Inv (s.packetLane p l h).2.2 := by
  unfold State.packetLane
  dsimp only
  split
  · exact .writeAt hi
  · exact hi
  · exact .atomAt hi
  · exact .atomAt hi

theorem Inv.receive (h : Inv s) : Inv s.receive := by
  unfold State.receive
  dsimp only
  split
  · refine .ite (.again h) ?_
    refine .ite (.discardPacket h) ?_
    refine .ite (.forward h) ?_
    split
    · exact .replyTo h
    · refine .ite ?_ ?_
      · split
        · exact .replyTo (.semAdd h)
        · exact .replyTo h
      · split
        · exact .replyTo h
        · exact .ite (.post (.packetLane h)) (.ite (.replyTo (.packetLane h)) (.ite (.replyTo (.packetLane h)) (.replyTo (.packetLane h))))
  · exact .discardPacket h
  · exact h

theorem Inv.reply (h : Inv s) : Inv s.reply := by
  unfold State.reply
  dsimp only
  split
  · exact h
  · refine .ite ?_ ?_
    · split
      · exact .again h
      · exact h
    · refine .ite (.discardPacket h) ?_
      refine .ite (.forward h) ?_
      split
      · exact h
      · split
        · exact h
        · refine .ite (.settleAccess h) ?_
          split
          · exact .settleAccess (.foldl (fun _ _ h1 => .setMslot h1) h)
          · exact .settleAccess h

theorem Inv.failOutstanding {p : Outstanding → Bool} {status : Nat} (h : Inv s) : Inv (s.failOutstanding p status) := by
  unfold State.failOutstanding
  refine .foldl (fun _ _ h1 => ?_) h
  split
  · exact .settleAccess h1
  · exact h1

theorem Inv.responseExpire (h : Inv s) : Inv s.responseExpire := by
  unfold State.responseExpire
  dsimp only
  split
  · exact h
  · exact .ite (.failOutstanding h) (.again h)

theorem Inv.startTimer (h : Inv s) : Inv s.startTimer := .ite h (.post h)
theorem Inv.watchPaths (h : Inv s) : Inv s.watchPaths := .ite h (.postOnce h)
theorem Inv.lowerPort {p : Nat} (h : Inv s) : Inv (s.lowerPort p) := .watchPaths (.failOutstanding (.setPort h))
theorem Inv.replayRequest (h : Inv s) : Inv s.replayRequest := .ite (.postOnce (.setPort h)) (.setPort h)
theorem OutInv.execVcPause (h : Inv s) : OutInv (execVcPause s) := .event (fun _ h1 => .flushPort (.setPort h1)) h
theorem OutInv.execPortRetrain (h : Inv s) : OutInv (execPortRetrain s) := .event (fun _ h1 => .ite h1 (.ite (.lowerPort h1) (.post (.setPort h1)))) h
theorem Inv.portDown (h : Inv s) : Inv s.portDown := .ite h (.ite (.again h) (.lowerPort h))
theorem OutInv.execPortUp (h : Inv s) : OutInv (execPortUp s) := .event (fun _ h1 => .ite (.startTimer (.flushPort (.setPort h1))) h1) h

theorem Inv.timeExchange (h : Inv s) : Inv s.timeExchange :=
  .ite (.again h) (.post (.ite h (.ite (.foldl (fun _ _ h1 => .putOnPort h1) h) (.ite (.update rfl (.foldl (fun _ _ h2 => .putOnPort h2) h))
    (.update rfl (.foldl (fun _ _ h3 => .putOnPort h3) h))))))

theorem Inv.timePacket (h : Inv s) : Inv s.timePacket := by
  unfold State.timePacket
  split
  · exact h
  · exact .ite (.discardPacket h) (.ite (.ite (.update rfl (.ite (.setPort h) h)) (.ite (.update rfl (.ite (.setPort h) h)) (.update rfl (.ite
      (.setPort h) h)))) (.ite (.setPort h) h))

theorem OutInv.execLink (h : Inv s) : OutInv (execLink s) := by
  refine .event (fun _ h1 => ?_) h
  split
  · exact h1
  · exact .ite (.discardPacket h1) (.ite (.setPort h1) h1)

theorem Inv.pathLoss (h : Inv s) : Inv s.pathLoss := .ite h (.ite (.again h) h)

/-! ### The functions of Machine/Registers -/

theorem Inv.regStore {r : Reg} {o : Nat} {bs : List Byte} (h : Inv s) : Inv (s.regStore r o bs) := by
  cases r with
  | context c => exact .ite h (.setContext h)
  | ring c => exact h
  | mailbox => exact .update rfl h
  | payload => exact ⟨h.1, wf_mwrites _ _ h.2⟩
  | queue q => exact .setQueue h
  | place c => exact .postOnce (.setContext h)
  | fabContext c => exact .ite h (.setContext h)
  | fabStatus => exact .ite h (.update rfl h)
  | window c i => exact .ite h (.setContext h)
  | isolation => exact .ite h (.update rfl h)
  | subst i => exact .ite h (.update rfl h)
  | interrupt v => exact .ite h (.update rfl h)
  | start c g => exact .setCore h
  | trapVector c => exact .setCore h
  | _ => exact .update rfl h

theorem Inv.devDone {id : Nat} (h : Inv s) : Inv (s.devDone id) := by
  unfold State.devDone
  split
  · exact h
  · split
    · split
      · exact .elemDone h
      · exact h
    · exact h

theorem Inv.storeRegs (h : Inv s) : Inv s.storeRegs := by
  unfold State.storeRegs
  dsimp only
  refine .ite (.again h) ?_
  split
  · exact .post (.foldl (fun _ _ h1 => .regStore h1) h)
  · exact .devDone (.foldl (fun _ _ h2 => .regStore h2) h)

theorem Inv.storeSems (h : Inv s) : Inv s.storeSems := by
  unfold State.storeSems
  refine .devDone ?_
  refine .foldl (fun _ _ h1 => ?_) h
  split
  · exact .semChanged h1
  · exact h1

theorem OutInv.execSemaphoreAdd (h : Inv s) : OutInv (execSemaphoreAdd s) := by
  refine .event (fun _ h1 => ?_) h
  dsimp only
  split
  · exact .complete (.semAdd h1)
  · exact .semAdd h1

/-! ### The functions of Machine/Context -/

theorem OutInv.execContextBind (h : Inv s) : OutInv (execContextBind s) := .event (fun _ h1 => .devDone (.setContext h1)) h
theorem Inv.unbind (h : Inv s) : Inv s.unbind := .devDone (.setContext h)

theorem Inv.cancelLaunch {n : Nat} {l : Launch} (h : Inv s) : Inv (s.cancelLaunch n l) :=
  .ite (.finishLaunch (.setLaunch h)) (.update rfl (.setLaunch h))

theorem Inv.ackTeardown {c : Nat} (h : Inv s) : Inv (s.ackTeardown c) := .ite (.setContext h) h

theorem Inv.teardown (h : Inv s) : Inv s.teardown :=
  .post (.ackTeardown (.foldl (fun _ _ h1 => .ite (.cancelLaunch h1) h1) (.foldl (fun _ _ h2 => .ite (.post (.setQueue h2)) h2) (.setContext h))))

theorem Inv.askFetch {q : Nat} (h : Inv s) : Inv (s.askFetch q) := .ite (.postOnce h) h
theorem Inv.thenPop (h : Inv s) : Inv s.thenPop := .ite (.post h) (.devDone h)
theorem Inv.enableQueue (h : Inv s) : Inv s.enableQueue := .thenPop (.askFetch (.setQueue h))
theorem Inv.disableQueue (h : Inv s) : Inv s.disableQueue := .thenPop (.ite (.setQueue h) h)
theorem Inv.popQueue (h : Inv s) : Inv s.popQueue := .devDone (.askFetch (.setQueue h))

theorem Inv.doorbell (h : Inv s) : Inv s.doorbell := by
  unfold State.doorbell
  refine .devDone ?_
  refine .ite h ?_
  split
  · exact .ite (.setQueue h) h
  · exact .askFetch (.setQueue h)
  · exact .setQueue h
  · exact h

theorem Inv.endFetch {q : Nat} (h : Inv s) : Inv (s.endFetch q) := .askFetch (.setQueue h)

theorem Inv.fetchEntry (h : Inv s) : Inv s.fetchEntry :=
  .ite h (.ite (.post (.setQueue (.ite_snd (.coin h) h))) (.post (.setQueue (.ite_snd (.coin h) h))))

theorem Inv.landEntry (h : Inv s) : Inv s.landEntry := .ite h (.ite (.endFetch h) (.askFetch (.semAdd (.setQueue h))))
theorem Inv.pageDone (h : Inv s) : Inv s.pageDone := .ite h (.ite (.endFetch h) (.ite (.setQueue h) (.post (.setQueue h))))
theorem Inv.queueGone (h : Inv s) : Inv s.queueGone := .ite h (.ite (.again h) (.ackTeardown (.setQueue h)))
theorem Inv.startGroup {c g obj entry arg : Nat} (h : Inv s) : Inv (s.startGroup c g obj entry arg) := .setGroup h

theorem OutInv.execGroupStart (h : Inv s) : OutInv (execGroupStart s) := by
  refine .event (fun _ h1 => ?_) h
  dsimp only
  split
  · exact .devDone (.ite h1 (.startGroup h1))
  · exact .devDone h1

/-! ### The functions of Machine/Supervisor -/

theorem OutInv.execObjmapEnt {f : XForm} (h : Inv s) : OutInv (execObjmapEnt f s) := .issue h (fun _ _ h1 => .slotBusy (.ite (.write h1) h1))

theorem OutInv.execObjmapExt {f : XForm} (h : Inv s) : OutInv (execObjmapExt f s) := by
  refine .issue h fun _ _ h1 => ?_
  refine .slotBusy ?_
  split
  · exact h1
  · exact .write h1

theorem Inv.supOp {cx : Cx} {wrs : List Wr} {kind ctx obj idx v : Nat} (h : Inv s) : Inv (s.supOp cx wrs kind ctx obj idx v) := .longOp h
theorem Inv.copyRange {src dst n : Nat} {tags : Bool} (h : Inv s) : Inv (s.copyRange src dst n tags) := ⟨wf_copyRange src dst n tags h.1, h.2⟩
theorem Inv.dropExtent {c obj idx : Nat} (h : Inv s) : Inv (s.dropExtent c obj idx) := .dropEverywhere h

theorem Inv.withdrawStores {c obj idx : Nat} (h : Inv s) : Inv (s.withdrawStores c obj idx) := by
  unfold State.withdrawStores
  dsimp only
  refine .foldl (fun _ _ h1 => ?_) h
  split
  · exact h1
  · exact .ite (.post (.setAccess h1)) h1

theorem Inv.moveStep {c obj idx v : Nat} (h : Inv s) : Inv (s.moveStep c obj idx v) := by
  unfold State.moveStep
  dsimp only
  split
  · refine .ite (.again h) ?_
    split
    · exact .finishSlot h
    · exact .ite (.finishSlot h) (.again (.update rfl (.withdrawStores (.dropExtent (.write h)))))
  · exact .ite (.again h) (.ite (.finishSlot (.dropExtent (.write h))) (.finishSlot (.dropExtent (.write (.copyRange h)))))

theorem Inv.reexamine {c : Nat} (h : Inv s) : Inv (s.reexamine c) :=
  .foldl (fun _ _ h1 => .ite (.finishLaunch h1) h1) (.foldl (fun _ _ h2 => .ite (.post h2) h2) (.foldl (fun _ _ h3 => .post h3) (.foldl
    (fun _ _ h4 => .post h4) h)))

theorem Inv.invalidateObject {c obj : Nat} {all : Bool} (h : Inv s) : Inv (s.invalidateObject c obj all) := .reexamine (.dropEverywhere h)

theorem Inv.supStep (h : Inv s) : Inv s.supStep := by
  unfold State.supStep
  dsimp only
  split
  · exact .moveStep h
  · exact .finishSlot (.invalidateObject h)
  · exact .finishSlot (.invalidateObject h)
  · exact .ite h (.ite (.again h) (.finishSlot h))

theorem OutInv.execSemmap {f : XForm} (h : Inv s) : OutInv (execSemmap f s) :=
  .issue h (fun _ _ h1 => .slotBusy (.ite (.reevalEdges (.setContext h1)) h1))

/-! ### The functions of Machine/Preempt -/

theorem Inv.removeBlock {b : Nat} (h : Inv s) : Inv (s.removeBlock b) := .startScan (.settleBanks (.setCore (.update rfl (.dropBanks (.setBlock h)))))
theorem Inv.endLaunch {n : Nat} (h : Inv s) : Inv (s.endLaunch n) := .ite h (.finishLaunch (.setLaunch h))
theorem Inv.countLost {n idx unit : Nat} (h : Inv s) : Inv (s.countLost n idx unit) := .setLaunch h
theorem Inv.addDiscards {n d : Nat} (h : Inv s) : Inv (s.addDiscards n d) := .setLaunch h

theorem Inv.retireBlock (h : Inv s) : Inv s.retireBlock :=
  .ite h (.ite (.again h) (.endLaunch (.ite (.countLost (.setLaunch (.lapseEngine (.removeBlock h)))) (.setLaunch (.lapseEngine (.removeBlock h))))))

theorem Inv.endSaves (h : Inv s) : Inv s.endSaves := h
theorem Inv.terminateBlock {b : Nat} (h : Inv s) : Inv (s.terminateBlock b) := .postOnce (.endSaves (.freeHolders (.setBlock (.setCore h))))

theorem Inv.terminate {n status : Nat} (h : Inv s) : Inv (s.terminate n status) := by
  unfold State.terminate
  dsimp only
  split
  · exact h
  · exact .postOnce (.endLaunch (.foldl (fun _ _ h1 => .terminateBlock h1) (.foldl (fun _ _ h2 => .lapseEngine h2) (.foldl
      (fun _ _ h3 => .countLost (.addDiscards h3)) (.update rfl (.setLaunch h))))))

theorem Inv.writePieces {a : Nat} {ps : Pieces} (h : Inv s) : Inv (s.writePieces a ps) := .foldl (fun _ _ h1 => .write h1) h

theorem Inv.writeImage {b frame : Nat} {hold : Bool} (h : Inv s) : Inv (s.writeImage b frame hold) :=
  .foldl (fun _ _ h1 => .ite h1 (.copyRange h1)) (.foldl (fun _ _ h2 => .foldl (fun _ _ h3 => .poisonGranules (.write h3)) h2) (.writePieces h))

theorem Inv.dropAnswers {b : Nat} (h : Inv s) : Inv (s.dropAnswers b) := .foldl (fun _ _ h1 => .ite (.release h1) h1) (.setCore h)

theorem Inv.saveBlock (h : Inv s) : Inv s.saveBlock := by
  unfold State.saveBlock
  dsimp only
  split
  · exact h
  · exact .ite (.again h) (.postOnce (.endSaves (.removeBlock (.update rfl (.setCore (.writeImage (.dropAnswers h)))))))

theorem Inv.beginSave {b frame : Nat} {hold : Bool} {q : Nat} (h : Inv s) : Inv (s.beginSave b frame hold q) :=
  .post (.ite (.foldl (fun _ _ h1 => .foldl (fun _ _ h2 => .post h2) h1) (.foldl (fun _ _ h3 => .setGroup h3) (.setBlock h))) (.foldl
    (fun _ _ h4 => .setGroup h4) (.setBlock h)))

theorem OutInv.execCpreempt {f : XForm} (h : Inv s) : OutInv (execCpreempt f s) :=
  .issue h (fun _ _ h1 => .ite (.slotBusy h1) (.ite (.slotBusy h1) (.ite (.slotBusy h1) (.ite (.slotBusy h1) (.ite (.slotBusy h1) (.setSub
    (.foldl (fun _ _ h2 => .beginSave h2) (.fresh h1))))))))

theorem Inv.restoreSlots {f : Frame} {fb b : Nat} (h : Inv s) : Inv (s.restoreSlots f fb b) := .foldl (fun _ _ h1 => .setMslot h1) h

theorem Inv.restoreSpm {f : Frame} {fb b : Nat} (h : Inv s) : Inv (s.restoreSpm f fb b) :=
  .foldl (fun _ _ h1 => .ite (.setCore h1) (.copyRange h1)) (.openGranules h)

theorem Inv.rejoin {b k : Nat} (h : Inv s) : Inv (s.rejoin b k) := by
  unfold State.rejoin
  refine .foldl (fun _ _ h1 => ?_) h
  refine .foldl (fun _ _ h2 => ?_) h1
  split
  · exact .setCore h2
  · exact h2

theorem Inv.deliverFired {b : Nat} {f : Frame} (h : Inv s) : Inv (s.deliverFired b f) :=
  .update rfl (.foldl (fun _ _ h1 => .barCycle h1) (.foldl (fun _ _ h2 => .barUpdate h2) h))

theorem Inv.resumeBlock {f : Frame} (h : Inv s) : Inv (s.resumeBlock f) :=
  .deliverFired (.ite (.dropLines (.foldl (fun _ _ h1 => .foldl (fun _ _ h2 => .takeMark h2) (.setGroup (.rejoin h1))) (.foldl
    (fun _ _ h3 => .setCore h3) (.restoreSlots (.restoreSpm (.foldl (fun _ _ h4 => .setGroup h4) (.update rfl (.setBlock h)))))))) (.foldl
    (fun _ _ h5 => .foldl (fun _ _ h6 => .takeMark h6) (.setGroup (.rejoin h5))) (.foldl (fun _ _ h7 => .setCore h7) (.restoreSlots (.restoreSpm
    (.foldl (fun _ _ h8 => .setGroup h8) (.update rfl (.setBlock h))))))))

theorem OptInv.resumeAll {fs : List Frame} : ∀ {s : State}, Inv s → OptInv (s.resumeAll fs) := by
  induction fs with
  | nil => exact fun h => h
  | cons f t ih => exact fun h => .ite trivial (.ite (Inv.terminate h) (ih (.resumeBlock h)))

theorem Inv.resumeFrame (h : Inv s) : Inv s.resumeFrame := by
  unfold State.resumeFrame
  split
  · exact h
  · refine .ite h ?_
    refine .ite (.postOnce h) ?_
    split
    next t1 ht1 => exact .postOnce (.of_some ht1 (.resumeAll h))
    · exact h

theorem OutInv.execCresume {f : XForm} (h : Inv s) : OutInv (execCresume f s) :=
  .issue h (fun _ _ h1 => .slotBusy (.ite_snd h1 (.ite_snd h1 (.postOnce h1))))

theorem OutInv.execCresumeEsc {f : XForm} (h : Inv s) : OutInv (execCresumeEsc f s) := by
  refine .issue h fun _ _ h1 => ?_
  refine .slotBusy ?_
  refine .ite_snd h1 ?_
  refine .ite_snd h1 ?_
  split
  · split
    · exact .setGroup h1
    · exact h1
  · split
    · exact .ite_snd (.write h1) h1
    · exact h1

theorem Inv.terminateAll {cx : Cx} {dst : Nat} {ns : List Nat} (h : Inv s) : Inv (s.terminateAll cx dst ns) :=
  .longOp (.foldl (fun _ _ h1 => .terminate h1) h)

theorem Inv.endDoubles {c : Nat} (h : Inv s) : Inv (s.endDoubles c) := h

theorem OutInv.execCterm {f : XForm} (h : Inv s) : OutInv (execCterm f s) := by
  refine .issue h fun _ _ h1 => ?_
  dsimp only
  split
  · exact .slotBusy h1
  · exact .terminateAll (.endDoubles h1)

theorem OutInv.execCtermL {f : XForm} (h : Inv s) : OutInv (execCtermL f s) := .issue h (fun _ _ h1 => .ite (.slotBusy h1) (.terminateAll h1))

/-! ### The functions of Machine/Power -/

theorem Inv.setPower {p : Nat} {x : Power} (h : Inv s) : Inv (s.setPower p x) := h
theorem Inv.applyPower {p : Nat} (h : Inv s) : Inv (s.applyPower p) := .ite h (.post (.setPower h))
theorem Inv.applyAll (h : Inv s) : Inv s.applyAll := .foldl (fun _ _ h1 => .applyPower h1) h

theorem Inv.storePower (h : Inv s) : Inv s.storePower := by
  unfold State.storePower
  refine .devDone ?_
  refine .postOnce ?_
  refine .foldl (fun _ _ h1 => ?_) h
  split
  · exact .applyPower (.setPower h1)
  · exact h1

theorem Inv.relocked (h : Inv s) : Inv s.relocked := .ite h (.postOnce (.applyPower (.setPower h)))
theorem OutInv.execThermalTrip (h : Inv s) : OutInv (execThermalTrip s) := .event (fun _ h1 => .applyPower (.setPower h1)) h
theorem OutInv.execThermalTripClear (h : Inv s) : OutInv (execThermalTripClear s) := .event (fun _ h1 => .applyPower (.setPower h1)) h

theorem OutInv.execCurrentClampStep (h : Inv s) : OutInv (execCurrentClampStep s) :=
  .event (fun _ h1 => .foldl (fun _ _ h2 => .applyPower (.setPower h2)) h1) h

theorem OutInv.execHeartbeatBeat (h : Inv s) : OutInv (execHeartbeatBeat s) := .event (fun _ h1 => .devDone (.ite h1 h1)) h

theorem OutInv.execHeartbeatSignin (h : Inv s) : OutInv (execHeartbeatSignin s) :=
  .event (fun _ h1 => .devDone (.postOnce (.postOnce (.applyAll h1)))) h

theorem Inv.lapse (h : Inv s) : Inv s.lapse := .ite h (.ite (.again h) (.postOnce (.applyAll h)))

theorem Inv.loseBlock {die b : Nat} (h : Inv s) : Inv (s.loseBlock die b) :=
  .removeBlock (.countLost (.addDiscards (.setCore (.update rfl (.record h)))))

theorem Inv.loseFrame {die : Nat} {f : Frame} (h : Inv s) : Inv (s.loseFrame die f) := .countLost (.addDiscards (.update rfl (.record h)))
theorem Inv.failAimed {die : Nat} (h : Inv s) : Inv (s.failAimed die) := .foldl (fun _ _ h1 => .complete h1) h

theorem Inv.isolateDie {die : Nat} (h : Inv s) : Inv (s.isolateDie die) :=
  .foldl (fun _ _ h1 => .endLaunch h1) (.update rfl (.foldl (fun _ _ h2 => .terminate h2) (.endSaves (.foldl (fun _ _ h3 => .loseFrame h3)
    (.foldl (fun _ _ h4 => .loseBlock h4) (.ite (.watchPaths (.failOutstanding (.update rfl (.failAimed h)))) (.failAimed h)))))))

theorem Inv.isoDone (h : Inv s) : Inv s.isoDone := h
theorem Inv.isoBegin (h : Inv s) : Inv s.isoBegin := h
theorem Inv.isolate (h : Inv s) : Inv s.isolate := .ite (.isoDone h) (.post (.devDone (.isolateDie (.isoBegin h))))
theorem Inv.fenceDie {die : Nat} (h : Inv s) : Inv (s.fenceDie die) := h
theorem Inv.setTest {u r d : Nat} (h : Inv s) : Inv (s.setTest u r d) := .ite (.fenceDie h) h
theorem Inv.selfTestDie {die : Nat} (h : Inv s) : Inv (s.selfTestDie die) := .foldl (fun _ _ h1 => .setTest h1) h
theorem Inv.enumerateDie {die : Nat} (h : Inv s) : Inv (s.enumerateDie die) := .ite (.setTest h) h
theorem Inv.trainPorts {die : Nat} (h : Inv s) : Inv (s.trainPorts die) := .foldl (fun _ _ h1 => .setPort h1) h

theorem Inv.resetDie (h : Inv s) : Inv s.resetDie :=
  .ite (.isoDone h) (.ite (.devDone h) (.post (.devDone (.postOnce (.ite (.trainPorts (.update rfl (.enumerateDie (.selfTestDie (.isoBegin h)))))
    (.update rfl (.enumerateDie (.selfTestDie (.isoBegin h)))))))))

theorem Inv.answer {rc : Nat} {out : List Byte} (h : Inv s) : Inv (s.answer rc out) := .ite (.raiseVector h) h
theorem Inv.completeCommand {rc : Nat} {out : List Byte} (h : Inv s) : Inv (s.completeCommand rc out) := .ite (.answer h) h
theorem Inv.enterSafe (h : Inv s) : Inv s.enterSafe := .completeCommand h
theorem Inv.poisonDirty (h : Inv s) : Inv s.poisonDirty := .foldl (fun _ _ h1 => .ite (.update rfl (.poisonGranules h1)) h1) h

theorem OutInv.execUcieLinkFailure (h : Inv s) : OutInv (execUcieLinkFailure s) :=
  .event (fun _ h1 => .ite (.enterSafe (.poisonDirty h1)) (.ite (.isolateDie h1) h1)) h

/-! ### The functions of Machine/Boot -/

theorem Inv.supervisorAnswers {opcode : Nat} {f : State → List Byte × State} (h : Inv s) (hf : ∀ t, Inv t → Inv (f t).2) :
    Inv (s.supervisorAnswers opcode f) := .ite (.completeCommand (hf s h)) h

theorem Inv.bootLog {step unit status : Nat} (h : Inv s) : Inv (s.bootLog step unit status) := .update rfl h
theorem Inv.flashWrite {o : Nat} {bs : List Byte} (h : Inv s) : Inv (s.flashWrite o bs).2 := .ite_snd h (.write h)
theorem Inv.setVersion {unit kind : Nat} {bs : List Byte} (h : Inv s) : Inv (s.setVersion unit kind bs) := h
theorem Inv.restart (h : Inv s) : Inv s.restart := ⟨wf_restart h.1, rfl⟩

theorem Inv.startSupervisor (h : Inv s) : Inv s.startSupervisor :=
  .startGroup (.update rfl (.setContext (.foldl (fun _ _ h1 => .write h1) (.write (.write h)))))

theorem Inv.logFailures {step cls : Nat} {rs : List Nat} (h : Inv s) : Inv (s.logFailures step cls rs) :=
  .foldl (fun _ _ h1 => .ite (.bootLog h1) h1) h

theorem Inv.powerOn (h : Inv s) : Inv s.powerOn := by
  unfold State.powerOn
  dsimp only
  split
  · exact .post (.bootLog (.update rfl (.post (.restart h))))
  · exact .post (.bootLog (.update rfl (.post (.restart h))))
  · exact .ite (.post (.bootLog h)) (.ite (.post (.bootLog (.update rfl (.bootLog h)))) (.enterSafe (.update rfl (.bootLog (.bootLog h)))))
  · exact .post (.bootLog h)
  · exact .post (.update rfl (.foldl (fun _ _ h1 => .selfTestDie h1) h))
  · split
    · exact .enterSafe (.update rfl (.bootLog (.logFailures h)))
    · split
      · exact .enterSafe (.update rfl (.logFailures (.foldl (fun _ _ h2 => .enumerateDie h2) (.bootLog (.logFailures h)))))
      · exact .enterSafe (.update rfl (.bootLog (.logFailures (.foldl (fun _ _ h3 => .enumerateDie h3) (.bootLog (.logFailures h))))))
      · exact .post (.bootLog (.update rfl (.logFailures (.foldl (fun _ _ h4 => .enumerateDie h4) (.bootLog (.logFailures h))))))
  · exact .ite h (.bootLog (.update rfl (.startSupervisor (.foldl (fun _ _ h5 => .trainPorts h5) (.foldl (fun _ _ h6 => .foldl
      (fun _ _ h7 => .setVersion h7) h6) h)))))

theorem OutInv.execSelfTestTimeout (h : Inv s) : OutInv (execSelfTestTimeout s) :=
  .event (fun _ h1 => .ite (.setTest (.freeWord h1)) (.freeWord h1)) h

theorem OutInv.execCxlLinkTraining (h : Inv s) : OutInv (execCxlLinkTraining s) := by
  unfold Machine.execCxlLinkTraining
  dsimp only
  exact .event (fun _ h1 => .update rfl (.choose (.choose h1))) h

theorem OutInv.execCxlReset (h : Inv s) : OutInv (execCxlReset s) := .event (fun _ h1 => .post (.restart h1)) h
theorem Inv.configWrite {o : Nat} {x : Byte} (h : Inv s) : Inv (s.configWrite o x) := .ite h h

theorem Inv.barWrite {bar o : Nat} {bs : List Byte} (h : Inv s) : Inv (s.barWrite bar o bs) := by
  unfold State.barWrite
  split
  · exact .post h
  · exact .ite (.post h) h
  · exact h

theorem Inv.hostAccess (h : Inv s) : Inv s.hostAccess := by
  unfold State.hostAccess
  dsimp only
  split
  · exact .ite h (.ite (.write h) h)
  · exact .ite (.foldl (fun _ _ h1 => .configWrite h1) h) h
  · exact .ite (.ite h h) (.ite (.barWrite h) h)

theorem OutInv.execHostSnoop (h : Inv s) : OutInv (execHostSnoop s) := .event (fun _ h1 => .ite h1 (.write h1)) h
theorem OutInv.execMsixUnmask (h : Inv s) : OutInv (execMsixUnmask s) := .event (fun _ h1 => .ite h1 (.ite h1 h1)) h

theorem Inv.command (h : Inv s) : Inv s.command := by
  unfold State.command
  refine .ite h (.ite (.answer (.update rfl h)) ?_)
  split
  · exact .ite (.answer (.update rfl h)) (.post (.update rfl h))
  · refine .ite (.answer (.update rfl h)) (.ite (.answer (.update rfl h)) ?_)
    have hp : Inv { s with hub := { s.hub with msixOn := s.arg.flag, mailbox := { s.hub.mailbox with
        pend := true, len := s.arg.data.length, opcode := s.arg.a % 65536, olen := 0, payload := mwrites s.hub.mailbox.payload 0 s.arg.data } } } :=
      ⟨h.1, wf_mwrites _ _ h.2⟩
    split
    · exact .post (.semAdd hp)
    · exact .semAdd hp

theorem Inv.backgroundDone (h : Inv s) : Inv s.backgroundDone := .ite (.raiseVector h) h
theorem Inv.signin (h : Inv s) : Inv s.signin := .devDone (.bootLog (.ite h (.backgroundDone h)))
theorem Inv.mailboxDone (h : Inv s) : Inv s.mailboxDone := .devDone (.completeCommand h)
theorem OutInv.execGetSelfTestTable (h : Inv s) : OutInv (execGetSelfTestTable s) := .event (fun _ h1 => .answer h1) h
theorem OutInv.execGetBootLog (h : Inv s) : OutInv (execGetBootLog s) := .event (fun _ h1 => .answer h1) h
theorem OutInv.execGetIdentity (h : Inv s) : OutInv (execGetIdentity s) := .event (fun _ h1 => .answer h1) h
theorem OutInv.execResetDevice (h : Inv s) : OutInv (execResetDevice s) := .event (fun _ h1 => .post (.restart (.answer h1))) h
theorem Inv.answerCxl {op : Nat} (h : Inv s) : Inv (s.answerCxl op) := .answer h

theorem OutInv.execGrantHostRange (h : Inv s) : OutInv (execGrantHostRange s) :=
  .event (fun _ h1 => .supervisorAnswers h1 (fun _ h2 => .ite_snd h2 h2)) h

theorem OutInv.execReleaseHostRange (h : Inv s) : OutInv (execReleaseHostRange s) := by
  refine .event (fun _ h1 => ?_) h
  dsimp only
  refine .supervisorAnswers h1 fun _ h2 => ?_
  split <;> exact h2

theorem OutInv.execListHostRanges (h : Inv s) : OutInv (execListHostRanges s) := .event (fun _ h1 => .supervisorAnswers h1 (fun _ h2 => h2)) h

theorem OutInv.execStageImage (h : Inv s) : OutInv (execStageImage s) := by
  refine .event (fun t ht => ?_) h
  refine .supervisorAnswers ht fun u hu => ?_
  extract_lets +onlyGivenNames kind bs st
  refine .ite_snd hu ?_
  extract_lets +onlyGivenNames ps
  have hv := Inv.choose (n := ps.length) hu
  generalize u.choose ps.length = c at hv ⊢
  obtain ⟨i, v⟩ := c
  dsimp only at hv ⊢
  cases ps[i]? with
  | none => exact hv
  | some o => exact .ite_snd (.flashWrite (.flashWrite hv)) hv

theorem Inv.beginActivation {kind unit : Nat} (h : Inv s) : Inv (s.beginActivation kind unit) := by
  unfold State.beginActivation
  split
  · exact h
  · exact .applyAll h
  · exact h
  · exact h

theorem Inv.endActivation (h : Inv s) : Inv s.endActivation := by
  unfold State.endActivation
  split
  · exact h
  · exact .ite (.again h) (.update rfl (.setVersion h))

theorem Inv.activate (h : Inv s) : Inv s.activate :=
  .ite (.endActivation h) (.ite h (.ite (.completeCommand h) (.post (.beginActivation (.ite (.completeCommand h) (.completeCommand h))))))

theorem OutInv.execCommitCounter (h : Inv s) : OutInv (execCommitCounter s) := .event (fun _ h1 => .supervisorAnswers h1 (fun _ h2 => h2)) h
theorem OutInv.execGetVersions (h : Inv s) : OutInv (execGetVersions s) := .event (fun _ h1 => .supervisorAnswers h1 (fun _ h2 => h2)) h

/-! ### The functions of Machine/Perform -/

theorem Inv.portElem {a : Access} {el : Elem} (h : Inv s) : Inv (s.portElem a el).2 := by
  unfold State.portElem
  dsimp only
  split
  · exact .walkRange h
  · split
    next t1 ht1 => exact .of_snd ht1 (.walk (.walkRange h))
    next t2 ht2 =>
      have h2 : Inv t2 := .of_snd ht2 (.walk (.walkRange h))
      split
      · exact .ite_snd h2 (.ite_snd h2 h2)
      · exact .ite_snd h2 h2
      · exact h2

theorem Inv.extentOrd {ctx obj gen a : Nat} (h : Inv s) : Inv (s.extentOrd ctx obj gen a).2 := by
  unfold State.extentOrd
  split
  next t1 ht1 =>
    have h1 : Inv t1 := .of_snd ht1 (.walkEntry h)
    exact .ite_snd h1 (.portRead h1)
  next t2 ht2 => exact .of_snd ht2 (.walkEntry h)

theorem Inv.portFails {a : Access} {t : TrapInfo} {suspends : Bool} (h : Inv s) : Inv (s.portFails a t suspends) := .post (.setAccess h)

theorem Inv.acceptHandle {a : Access} (h : Inv s) : Inv (s.acceptHandle a) := by
  unfold State.acceptHandle
  dsimp only
  split
  · exact .setAccess (.foldl_snd (fun _ _ h1 => .portElem h1) h)
  · exact .ite (.complete (.foldl_snd (fun _ _ h2 => .ite_snd (.extentOrd h2) h2) (.foldl_snd (fun _ _ h3 => .portElem h3) h))) (.portFails
      (.foldl_snd (fun _ _ h4 => .ite_snd (.extentOrd h4) h4) (.foldl_snd (fun _ _ h5 => .portElem h5) h)))

theorem Inv.acceptMember {a : Access} {b : Nat} (h : Inv s) : Inv (s.acceptMember a b) := by
  unfold State.acceptMember
  refine .ite (.portFails h) ?_
  split
  · exact .portFails h
  · split
    next t1 ht1 => exact .again (.of_some ht1 (.wakeFor h))
    · exact .setAccess h

theorem Inv.acceptAccess (h : Inv s) : Inv s.acceptAccess := by
  unfold State.acceptAccess
  split
  · exact h
  · refine .ite h ?_
    split
    · exact h
    · exact h
    · exact h
    · split
      · exact .acceptMember h
      · exact .acceptHandle h

theorem Inv.performDev {a : Access} {i : Nat} {el : Elem} {pa : Nat} (h : Inv s) : Inv (s.performDev a i el pa) := by
  unfold State.performDev
  dsimp only
  split
  · exact .elemDone h
  · exact .post (.setAccess h)
  · split
    · exact .elemDone h
    · split
      · exact .elemDone (.semChanged h)
      · exact .post (.setAccess h)
  · split
    · exact .elemDone h
    · split
      · exact .elemDone (.semChanged h)
      · exact .post (.setAccess h)
  · exact .elemDone h

theorem Inv.composeRun {a : Access} {i : Nat} (h : Inv s) : Inv (s.composeRun a i) := by
  unfold State.composeRun
  dsimp only
  split
  · exact .ite (.settleAccess h) (.sendRun h)
  · exact h

theorem OptInv.wakeElem {el : Elem} (h : Inv s) : OptInv (s.wakeElem el) := by
  unfold State.wakeElem
  split
  · exact .wakeKeys h
  · trivial

theorem Inv.performElem {a : Access} {i : Nat} {el : Elem} (h : Inv s) : Inv (s.performElem a i el) := by
  unfold State.performElem
  split
  · exact .elemDone (.performMem h)
  · exact .performDev h
  · exact .ite (.composeRun h) (.sendRun h)
  · exact h

theorem Inv.performInit {a : Access} {bar parties : Nat} {once : Bool} (h : Inv s) : Inv (s.performInit a bar parties once) := by
  unfold State.performInit
  refine .ite (.complete (.settleDrops h)) ?_
  refine .complete ?_
  refine .foldl (fun _ _ h1 => ?_) (.storeAt (.settleDrops h))
  split
  · exact .setReg h1
  · exact h1

theorem Inv.performBar {a : Access} {bar : Nat} {u : BarUpdate} (h : Inv s) : Inv (s.performBar a bar u) := .barUpdate (.setAccess h)
theorem Inv.armBinding {a : Access} {n value bar : Nat} (h : Inv s) : Inv (s.armBinding a n value bar) := .fireBindings (.complete h)

theorem Inv.performAccess {a : Access} {i : Instr} (h : Inv s) : Inv (s.performAccess a i) := by
  unfold State.performAccess
  split
  · exact .complete h
  · split
    · exact .post (.setAccess h)
    · exact .portFails h
  · split
    · exact .complete h
    · exact .portFails h
  · split
    · exact .armBinding h
    · exact .portFails h
  · exact .ite (.again h) (.sendSignal h)
  · refine .ite ?_ (.again h)
    split
    next t1 ht1 => exact .again (.of_some ht1 (.wakeKeys h))
    · exact .performInit h
  · exact .performBar h
  · exact .performBar h
  · exact .performBar h
  · exact .performBar h
  · dsimp only
    split
    · exact .again (.choose h)
    · split
      · split
        next t2 ht2 => exact .again (.of_some ht2 (.wakeElem (.choose h)))
        · exact .ite (.post (.performElem (.choose h))) (.performElem (.choose h))
      · exact .choose h

theorem Inv.pollAccess {i : Instr} (h : Inv s) : Inv (s.pollAccess i) := by
  unfold State.pollAccess
  split
  · exact h
  · exact .ite (.performAccess h) (.again h)

theorem Inv.completeSlot (h : Inv s) : Inv s.completeSlot := .ite (.pollAccess h) (.ite (.ite (.longOpStep h) (.supStep h)) (.finishSlot h))

/-! ### The functions of Machine/Dispatch -/

theorem OutInv.exec {i : Instr} (h : Inv s) : OutInv (exec i s) := by
  cases i with
  | sadd | ssub | smul | smulh | sand | sor | sxor | sandn | sshl | sshr | ssra | smin | smax | sclz | spop | sbfx | sbfi | ssel | scmp
  | smov => exact .issue h fun _ _ h1 => .aluEff h1
  | sdiv | srem => exact .issue h fun _ _ h1 => .divEff h1
  | smovi | smoviHi | bl | nop | trap | brk | pfroms | ptos | pany | pall | ppop | sget | sset | vmovs | vmovsGet | vcmp | vfcmp | vpack
  | vunpack | vperm | vxshf | vrot | vbcl | vcompress | vexpand | hget | hmov | hvalid | hintX | mset | msetI | mget | rget
  | mloadQ => exact .issue h fun _ _ h1 => h1
  | br | bz | bnz => exact .issue h fun _ _ h1 => .branchIf h1
  | jr | jl => exact .issue h fun _ _ h1 => .jumpTo h1
  | split => exact .execSplit h
  | fuse => exact .execFuse h
  | exit => exact .execExit h
  | yield => exact .execYield h
  | swait => exact .execSwait h
  | pand | por | pxor | pandn | pnot => exact .issue h fun _ _ h1 => .predEff h1
  | pmov => exact .execPmov h
  | acqRegW | acqSpmW | acqMslW => exact .issue h fun _ _ h1 => .acquireW h1
  | acqRegT | acqSpmT | acqMslT => exact .issue h fun _ _ h1 => .acquireT h1
  | relReg => exact .execRelReg h
  | relSpm => exact .execRelSpm h
  | relMsl => exact .execRelMsl h
  | rwake => exact .execRwake h
  | rsleep => exact .execRsleep h
  | spdrop => exact .execSpdrop h
  | launch | stRel | hld | hst => exact .issue h fun _ _ h1 => .handleAccess h1
  | lquery | semmapQ | hmint | cquery | cqueryU => exact .issue h fun _ _ h1 => .slotBusy h1
  | objmapEnt => exact .execObjmapEnt h
  | objmapExt => exact .execObjmapExt h
  | objmapMv | objinv | objinvCtx => exact .issue h fun _ _ h1 => .supOp h1
  | semmap => exact .execSemmap h
  | vadd | vsub | vmul | vmulh | vmad | vand | vor | vxor | vandn | vshl | vshr | vsra | vmin | vmax | vabs | vclz | vpop | vbfx | vbfi | vsel
  | vmov => exact .issue h fun _ _ h1 => .vecEff h1
  | vfadd | vfsub | vfmul | vfma => exact .issue h fun _ _ h1 => .fpEff h1
  | vfmin | vfmax | vfrnd | vfclass => exact .issue h fun _ _ h1 => .fpQuiet h1
  | vfdot2 | vcvt | vmxq | vmxd => exact .issue h fun _ _ h1 => .fpResult h1
  | vrcp | vrsqrt | vsqrt => exact .issue h fun _ _ h1 => .fpRooted h1
  | vexp2 | vlog2 | vsin | vcos => exact .issue h fun _ _ h1 => .fpTranscendental h1
  | vred => exact .execVred h
  | vscan => exact .execVscan h
  | ldG | ldwG | ldGs => exact .issue h fun _ _ h1 => .loadG h1
  | stG | stwG | stGs => exact .issue h fun _ _ h1 => .storeG h1
  | ldL | stL => exact .issue h fun _ _ h1 => .spmAccess h1
  | ldC | stC => exact .issue h fun _ _ h1 => .clusterAccess h1
  | ldP | stP => exact .issue h fun _ _ h1 => .privateAccess h1
  | ldAcq => exact .execLdAcq h
  | fence => exact .execFence h
  | qsync => exact .issue h fun _ _ h1 => .hold h1
  | cpGo => exact .execCpGo h
  | cclean => exact .execCclean h
  | ccleanAll => exact .issue h fun _ _ h1 => .cleanBy h1
  | cinval => exact .execCinval h
  | cinvalAll => exact .execCinvalAll h
  | pf | pfRo => exact .issue h fun _ _ h1 => .prefetchG h1
  | hderive => exact .execHderive h
  | hrestrict => exact .execHrestrict h
  | hintPf => exact .execHintPf h
  | hintBank => exact .execHintBank h
  | mcall | mcallR => exact .issue h fun _ _ h1 => .callRoutine h1
  | mstat => exact .execMstat h
  | mstatR => exact .execMstatR h
  | rset => exact .execRset h
  | rpushW => exact .execRpushW h
  | rpushT => exact .execRpushT h
  | rpopW => exact .execRpopW h
  | rpopT => exact .execRpopT h
  | mspillL | mfillL => exact .issue h fun _ _ h1 => .tileLocal h1
  | mspillG | mfillG => exact .issue h fun _ _ h1 => .tileGlobal h1
  | mclr => exact .execMclr h
  | mclrAll => exact .execMclrAll h
  | mloadRt => exact .execMloadRt h
  | mloadCode => exact .execMloadCode h
  | muFeed => exact .execMuFeed h
  | muStep => exact .execMuStep h
  | muAcc => exact .execMuAcc h
  | muSparse => exact .execMuSparse h
  | muScale => exact .execMuScale h
  | muDrain => exact .execMuDrain h
  | muClear => exact .execMuClear h
  | muPop => exact .execMuPop h
  | muLoop => exact .execMuLoop h
  | muSig => exact .execMuSig h
  | muYield => exact .execMuYield h
  | muEnd => exact .execMuEnd h
  | binit => exact .execBinit h
  | bjoin => exact .execBjoin h
  | bleave => exact .execBleave h
  | barr => exact .execBarr h
  | bdrop => exact .execBdrop h
  | bexp => exact .execBexp h
  | bwait => exact .execBwait h
  | bpoll => exact .execBpoll h
  | atomG | atomL | redG | redL => exact .issue h fun _ _ h1 => .atomic h1
  | semSig => exact .execSemSig h
  | semPoll => exact .execSemPoll h
  | semBind => exact .execSemBind h
  | fst | fld | ffadd | fred => exact .issue h fun _ _ h1 => .fabricOp h1
  | ffence => exact .execFfence h
  | ffenceF | fsig => exact .issue h fun _ _ h1 => .signalOp h1
  | tret | tretN => exact .issue h fun _ _ h1 => .trapReturn h1
  | tesc => exact .execTesc h
  | cpreempt => exact .execCpreempt h
  | cresume => exact .execCresume h
  | cresumeEsc => exact .execCresumeEsc h
  | cterm => exact .execCterm h
  | ctermL => exact .execCtermL h
  | powerOnReset => exact .event (fun _ h1 => .powerOn h1) h
  | selfTestTimeout => exact .execSelfTestTimeout h
  | cxlLinkTraining => exact .execCxlLinkTraining h
  | cxlReset => exact .execCxlReset h
  | hostCxlMemAccess => exact .event (fun _ h1 => .hostAccess h1) h
  | msixUnmask => exact .execMsixUnmask h
  | mailboxCommand => exact .event (fun _ h1 => .command h1) h
  | mailboxSignin => exact .event (fun _ h1 => .signin h1) h
  | mailboxComplete => exact .event (fun _ h1 => .mailboxDone h1) h
  | getSelfTestTable => exact .execGetSelfTestTable h
  | getBootLog => exact .execGetBootLog h
  | getIdentity => exact .execGetIdentity h
  | resetDevice => exact .execResetDevice h
  | identifyMemoryDevice | getSupportedLogs | getLog | getHealthInfo => exact .event (fun _ h1 => .answerCxl h1) h
  | grantHostRange => exact .execGrantHostRange h
  | releaseHostRange => exact .execReleaseHostRange h
  | listHostRanges => exact .execListHostRanges h
  | stageImage => exact .execStageImage h
  | activate => exact .event (fun _ h1 => .activate h1) h
  | commitCounter => exact .execCommitCounter h
  | getVersions => exact .execGetVersions h
  | contextBind => exact .execContextBind h
  | contextUnbind => exact .event (fun _ h1 => .unbind h1) h
  | contextTeardown => exact .event (fun _ h1 => .teardown h1) h
  | queueEnable => exact .event (fun _ h1 => .enableQueue h1) h
  | queueDisable => exact .event (fun _ h1 => .disableQueue h1) h
  | queuePop => exact .event (fun _ h1 => .popQueue h1) h
  | doorbellWrite => exact .event (fun _ h1 => .doorbell h1) h
  | queueEntryFetch => exact .event (fun _ h1 => .fetchEntry h1) h
  | queueFetchComplete => exact .event (fun _ h1 => .landEntry h1) h
  | pageRequestComplete => exact .event (fun _ h1 => .pageDone h1) h
  | queueTornDown => exact .event (fun _ h1 => .queueGone h1) h
  | edgeReadResume => exact .execEdgeReadResume h
  | edgeSatisfied => exact .event (fun _ h1 => .edgesHold h1) h
  | schedulerPass => exact .event (fun _ h1 => .schedule h1) h
  | reservationTimeout => exact .execReservationTimeout h
  | kickoffFire => exact .execKickoffFire h
  | checkerNextCheck => exact .execCheckerNextCheck h
  | claimCheckResult => exact .execClaimCheckResult h
  | semaphoreAdd => exact .execSemaphoreAdd h
  | semaphoreTableStore => exact .event (fun _ h1 => .storeSems h1) h
  | groupStart => exact .execGroupStart h
  | clauseFetch => exact .execClauseFetch h
  | slotComplete => exact .event (fun _ h1 => .completeSlot h1) h
  | tokenSignal => exact .event (fun _ h1 => .signalTokens h1) h
  | bankRetentionEnter => exact .event (fun _ h1 => .retainBank h1) h
  | bankWakeComplete => exact .event (fun _ h1 => .bankOn h1) h
  | rsleepExpire => exact .execRsleepExpire h
  | umpireExpire => exact .event (fun _ h1 => .umpire h1) h
  | commit => exact .event (fun _ h1 => .commitStep h1) h
  | portFailureReport => exact .event (fun _ h1 => .portFailure h1) h
  | copyStart => exact .event (fun _ h1 => .copyBegin h1) h
  | copyLineLanded => exact .event (fun _ h1 => .copyLand h1) h
  | copyComplete => exact .event (fun _ h1 => .copyDone h1) h
  | copyFault => exact .event (fun _ h1 => .copyStop h1) h
  | ringPush => exact .event (fun _ h1 => .pushTile h1) h
  | barrierCycle => exact .event (fun _ h1 => .barCycle h1) h
  | blockRetire => exact .event (fun _ h1 => .retireBlock h1) h
  | saveComplete => exact .event (fun _ h1 => .saveBlock h1) h
  | resume => exact .event (fun _ h1 => .resumeFrame h1) h
  | isolate => exact .event (fun _ h1 => .isolate h1) h
  | dieReset => exact .event (fun _ h1 => .resetDie h1) h
  | ucieLinkFailure => exact .execUcieLinkFailure h
  | powerRegisterWrite => exact .event (fun _ h1 => .storePower h1) h
  | relockComplete => exact .event (fun _ h1 => .relocked h1) h
  | thermalTrip => exact .execThermalTrip h
  | thermalTripClear => exact .execThermalTripClear h
  | currentClampStep => exact .execCurrentClampStep h
  | heartbeatBeat => exact .execHeartbeatBeat h
  | heartbeatSignin => exact .execHeartbeatSignin h
  | heartbeatLapse => exact .event (fun _ h1 => .lapse h1) h
  | store | load | atomic | reduce | signal | flag => exact .event (fun _ h1 => .receive h1) h
  | ack | loadr | atomr | err => exact .event (fun _ h1 => .reply h1) h
  | time => exact .event (fun _ h1 => .timePacket h1) h
  | link => exact .execLink h
  | responseLimitExpire => exact .event (fun _ h1 => .responseExpire h1) h
  | replayRequest => exact .event (fun _ h1 => .replayRequest h1) h
  | vcPause => exact .execVcPause h
  | portRetrain => exact .execPortRetrain h
  | portDown => exact .event (fun _ h1 => .portDown h1) h
  | timeExchangeTimer => exact .event (fun _ h1 => .timeExchange h1) h
  | grandmasterPathLoss => exact .event (fun _ h1 => .pathLoss h1) h
  | registerWrite => exact .event (fun _ h1 => .storeRegs h1) h
  | uncorrectableError => exact .execUncorrectableError h
  | accessAccepted => exact .event (fun _ h1 => .acceptAccess h1) h
  | storePerformed => exact .event (fun _ h1 => .pollAccess h1) h
  | portUp => exact .execPortUp h
  | hostSnoop => exact .execHostSnoop h

/-! ### The functions of Machine/Select -/

theorem OutInv.moveSub {k e : Nat} (h : Inv s) : OutInv (moveSub s k e) := by
  unfold Machine.moveSub
  dsimp only
  split
  next t1 ht1 => exact .of_blocked ht1 (.ite (.signalGate h) h)
  next t2 ht2 =>
    have h2 : Inv t2 := .of_met ht2 (.ite (.signalGate h) h)
    split
    · exact .exec h2
    · split
      · exact .exec h2
      · exact .issueUndefined h2

theorem OutInv.moveEngine {u p : Nat} (h : Inv s) : OutInv (moveEngine s u p) := by
  unfold Machine.moveEngine
  dsimp only
  split
  · exact .exec h
  next t ht => exact Inv.engineNext ht h

theorem OutInv.moveEvent {ev : Event} (h : Inv s) : OutInv (moveEvent s ev) := .exec h

theorem OutInv.move {m : Turn} (h : Inv s) : OutInv (move s m) := by
  unfold Machine.move
  split
  · split
    · exact .moveEvent h
    · exact h
  · exact .moveEvent h
  · exact .moveSub h
  · exact .moveEngine h

/-! ### The functions of Machine/Step -/

theorem OutInv.after {r : Host.Outcome State Fault Refusal} (hr : OutInv r) : OutInv (after r) := by
  cases r with
  | next t => exact Inv.tick hr
  | fault f => trivial
  | refused f => trivial

theorem OutInv.step (h : Inv s) : OutInv (step s) := by
  unfold Machine.step
  refine .after ?_
  split
  · exact .move (.choose h)
  · exact .choose h

/-! ### What reset leaves in the tables -/

@[simp] theorem context_reset (c : Nat) : State.reset.context c = {} := rfl
@[simp] theorem queue_reset (q : Nat) : State.reset.queue q = {} := rfl
@[simp] theorem rings_reset : State.reset.rings = [] := rfl
@[simp] theorem hub_reset : State.reset.hub = {} := rfl
@[simp] theorem core_reset (u : Nat) : State.reset.core u = {} := rfl
@[simp] theorem group_reset (k : Nat) : State.reset.group k = {} := rfl
@[simp] theorem tget_empty {α : Type} (d : α) (i : Nat) : tget d [] i = d := rfl

theorem regImage_context_reset (c : Nat) : State.reset.regImage (.context c) = 0 := by simp [State.regImage, b2n, -Nat.reducePow]
theorem regImage_ring_reset (c : Nat) : State.reset.regImage (.ring c) = 0 := by simp [State.regImage, b2n, -Nat.reducePow]
theorem regImage_queue_reset (q : Nat) : State.reset.regImage (.queue q) = 0 := by simp [State.regImage, -Nat.reducePow]
theorem regImage_inbox_reset (q : Nat) : State.reset.regImage (.inbox q) = 0 := by
  have hz (i : Nat) : leNat [] * 2 ^ (512 * i) = 0 := Nat.zero_mul _
  simp [State.regImage, hz, -Nat.reducePow]
theorem regImage_place_reset (c : Nat) : State.reset.regImage (.place c) = 0 := by simp [State.regImage, -Nat.reducePow]
theorem regImage_fabContext_reset (c : Nat) : State.reset.regImage (.fabContext c) = 0 := by simp [State.regImage, b2n, -Nat.reducePow]
theorem regImage_subst_reset (i : Nat) : State.reset.regImage (.subst i) = 0 := by simp [State.regImage, substImage, -Nat.reducePow]
theorem regImage_interrupt_reset (v : Nat) : State.reset.regImage (.interrupt v) = 0 := by simp [State.regImage, b2n, -Nat.reducePow]
theorem regImage_start_reset (c g : Nat) : State.reset.regImage (.start c g) = 0 := by simp [State.regImage, b2n, -Nat.reducePow]
theorem regImage_port_reset (p : Nat) : State.reset.regImage (.port p) = 0 := by simp [State.regImage, -Nat.reducePow]
theorem regImage_pool_reset : State.reset.regImage .pool = 0 := by simp [State.regImage, b2n, -Nat.reducePow]
theorem regImage_power_reset (p : Nat) : State.reset.regImage (.power p) = (if p < 32 then 8 else 1) * 2 ^ 40 + 7 := by
  simp [State.regImage, b2n, -Nat.reducePow]

end Sys2Proof.Machine

namespace Sys2Proof.Proofs
open Machine Laws

/-- Settles O52: what a step runs is one of the model's operations, and each of them
leaves the memory and the payload alone or writes them through an operation that keeps their canonical form. -/
theorem stepKeepsInvariant : Obligations.StepKeepsInvariant := by
  unfold Obligations.StepKeepsInvariant
  exact ⟨fun _ _ hs h => OutInv.of_next h (OutInv.step hs), fun _ _ _ hs h => OutInv.of_next h (OutInv.exec hs)⟩

/-- Settles O50, register by register: the tables of the reset state are empty, so each reads as its record's default. -/
theorem resetLeaves : Obligations.ResetLeaves := by
  unfold Obligations.ResetLeaves
  refine ⟨fun n => ⟨regImage_context_reset n, regImage_ring_reset n, regImage_queue_reset n, regImage_inbox_reset n, regImage_place_reset n,
    regImage_fabContext_reset n, regImage_subst_reset n, regImage_interrupt_reset n, rfl, rfl, rfl, regImage_port_reset n,
    fun m => ⟨rfl, regImage_start_reset n m⟩⟩, ?_⟩
  exact ⟨rfl, rfl, rfl, regImage_pool_reset, rfl, rfl, rfl, regImage_power_reset, rfl, rfl, rfl, rfl, rfl, rfl, rfl, rfl⟩

/-- Settles O51: the memory and the payload are empty at reset. -/
theorem invariantAtReset : Obligations.InvariantAtReset := by
  unfold Obligations.InvariantAtReset
  exact ⟨wf_reset, rfl⟩

end Sys2Proof.Proofs
end

section
/-! Power-on and the host (O47), the mailbox (O48). The first part says once what the functions that these events share do: bits of the
interrupt masks, a unit's test, an addition to a semaphore, a write of the flash, an answer of the supervisor. The parts after it say what each
event does in each of its cases, and put the obligations together from that. -/
namespace Sys2Proof.Machine
open Laws

/-! ### Bits of a mask (R38) -/

theorem bitAt_eq_testBit (x i : Nat) : bitAt x i = x.testBit i := by
  rw [bitAt, Nat.testBit_eq_decide_div_mod_eq, beq_eq_decide]

theorem bitAt_add_two_pow {x v : Nat} (h : bitAt x v = false) : bitAt (x + 2 ^ v) v = true := by
  rw [bitAt_eq_testBit] at h ⊢
  rw [Nat.add_comm, Nat.testBit_two_pow_add_eq, h, Bool.not_false]

theorem bitAt_sub_two_pow {x v : Nat} (h : bitAt x v = true) : bitAt (x - 2 ^ v) v = false := by
  rw [bitAt_eq_testBit] at h ⊢
  have hle : 2 ^ v ≤ x := Nat.ge_two_pow_of_testBit h
  have hflip := Nat.testBit_two_pow_add_eq (x - 2 ^ v) v
  rw [Nat.add_sub_cancel' hle, h] at hflip
  simpa using hflip.symm

/-! ### A field that every step of a fold keeps -/

theorem foldl_keeps {β γ : Type} (p : State → γ) {f : State → β → State} (hf : ∀ s b, p (f s b) = p s) (l : List β) (s : State) :
    p (l.foldl f s) = p s :=
  List.foldlRecOn (motive := fun t => p t = p s) l f rfl (fun t ht b _ => (hf t b).trans ht)

/-! ### The boot log (R33): an entry changes nothing else -/

section
variable (s : State) (step unit status : Nat)

theorem bootLog_mem : (s.bootLog step unit status).mem = s.mem := by
  unfold State.bootLog
  rfl

theorem bootLog_hub : (s.bootLog step unit status).hub = s.hub := by
  unfold State.bootLog
  rfl

theorem bootLog_boot : ∃ l, (s.bootLog step unit status).boot = { s.boot with log := l } := ⟨_, rfl⟩
end

/-! ### A unit's self-test (R31) -/

theorem tget_fold_fence (die u : Nat) (bs : List Nat) (t : Tab (Nat × Nat)) :
    tget (0, 0) (bs.foldl (fun t b => tput t (die * 256 + b) (8, (tget (0, 0) t (die * 256 + b)).2)) t) u =
      if u ∈ bs.map (die * 256 + ·) then (8, (tget (0, 0) t u).2) else tget (0, 0) t u := by
  induction bs generalizing t with
  | nil => simp
  | cons b bs ih =>
    rw [List.foldl_cons, ih]
    by_cases hu : die * 256 + b = u
    · simp [hu]
    · simp [hu, Ne.symm hu]

/-- A failed adapter fences every other unit of its die with result 8 and changes no other entry. -/
theorem tget_fenceDie (s : State) (die u : Nat) :
    tget (0, 0) (s.fenceDie die).boot.tests u =
      if u ∈ ((unitBytes (die / 16)).filter (· != 0xF0)).map (die * 256 + ·) then (8, (tget (0, 0) s.boot.tests u).2)
      else tget (0, 0) s.boot.tests u :=
  tget_fold_fence die u _ _

theorem tget_setTest_unit {s : State} {u : Nat} (r d v : Nat) (hu : u % 256 ≠ 0xF0) :
    tget (0, 0) (s.setTest u r d).boot.tests v = if u = v then (r, if r = 0 then 0 else d % 256) else tget (0, 0) s.boot.tests v := by
  simp [State.setTest, hu]

theorem setTest_adapter {s : State} {u r : Nat} (d : Nat) (hu : u % 256 = 0xF0) (hr : passes r = false) :
    s.setTest u r d = ({ s with boot := { s.boot with tests := tput s.boot.tests u (r, if r = 0 then 0 else d % 256) } } : State).fenceDie (u / 256) := by
  simp [State.setTest, hu, hr]

theorem tget_setTest_adapter_self {s : State} {u r : Nat} (d : Nat) (hu : u % 256 = 0xF0) (hr : passes r = false) :
    tget (0, 0) (s.setTest u r d).boot.tests u = (r, if r = 0 then 0 else d % 256) := by
  have hout : u ∉ ((unitBytes (u / 256 / 16)).filter (· != 0xF0)).map (u / 256 * 256 + ·) := by
    simp only [List.mem_map, List.mem_filter, bne_iff_ne]
    rintro ⟨b, ⟨_, hb⟩, hub⟩
    omega
  rw [setTest_adapter d hu hr, tget_fenceDie, if_neg hout, tget_tput, if_pos rfl]

theorem tget_setTest_adapter_other {s : State} {u r b : Nat} (d : Nat) (hu : u % 256 = 0xF0) (hr : passes r = false)
    (hb : b ∈ unitBytes (u / 256 / 16)) (hne : b ≠ 0xF0) : (tget (0, 0) (s.setTest u r d).boot.tests (u / 256 * 256 + b)).1 = 8 := by
  have hin : u / 256 * 256 + b ∈ ((unitBytes (u / 256 / 16)).filter (· != 0xF0)).map (u / 256 * 256 + ·) :=
    List.mem_map.2 ⟨b, List.mem_filter.2 ⟨hb, bne_iff_ne.2 hne⟩, rfl⟩
  rw [setTest_adapter d hu hr, tget_fenceDie, if_pos hin]

/-! ### Interrupts and semaphores (R38, R335): what an addition leaves alone -/

section
variable (s : State)

@[simp] theorem raiseVector_mem (v : Nat) : (s.raiseVector v).mem = s.mem := by unfold State.raiseVector; split <;> rfl
@[simp] theorem raiseVector_boot (v : Nat) : (s.raiseVector v).boot = s.boot := by unfold State.raiseVector; split <;> rfl
@[simp] theorem raiseVector_sems (v : Nat) : (s.raiseVector v).hub.sems = s.hub.sems := by unfold State.raiseVector; split <;> rfl
@[simp] theorem raiseVector_mailbox (v : Nat) : (s.raiseVector v).hub.mailbox = s.hub.mailbox := by unfold State.raiseVector; split <;> rfl

theorem backgroundDone_boot : s.backgroundDone.boot = s.boot := by unfold State.backgroundDone; split <;> simp
theorem backgroundDone_mailbox : s.backgroundDone.hub.mailbox = s.hub.mailbox := by unfold State.backgroundDone; split <;> simp

@[simp] theorem reevalEdges_hub : s.reevalEdges.hub = s.hub :=
  foldl_keeps (·.hub) (fun t _ => by dsimp only; split <;> [split; rfl] <;> simp) _ s
@[simp] theorem reevalEdges_mem : s.reevalEdges.mem = s.mem :=
  foldl_keeps (·.mem) (fun t _ => by dsimp only; split <;> [split; rfl] <;> simp) _ s

@[simp] theorem barUpdate_hub (b off : Nat) (u : BarUpdate) : (s.barUpdate b off u).hub = s.hub := postOnce_hub _ _ _
@[simp] theorem barUpdate_mem (b off : Nat) (u : BarUpdate) : (s.barUpdate b off u).mem = s.mem := postOnce_mem _ _ _
end

/-- A field that no barrier update changes is kept by the bindings that fire. -/
theorem fireList_keeps {γ : Type} (p : State → γ) (hp : ∀ s b off u, p (State.barUpdate s b off u) = p s) (n : Nat) (bs : List Binding) :
    ∀ (s : State) (i : Nat), p (fireList s n i bs).1 = p s := by
  induction bs with
  | nil => exact fun _ _ => rfl
  | cons b bs ih =>
    intro s i
    unfold fireList
    split
    · split
      · exact (ih _ _).trans (hp ..)
      · exact ih _ _
    · exact ih _ _

theorem semChanged_hub (s : State) (n : Nat) : (s.semChanged n).hub = s.hub :=
  (fireList_keeps (·.hub) barUpdate_hub n _ _ 0).trans (reevalEdges_hub s)
theorem semChanged_mem (s : State) (n : Nat) : (s.semChanged n).mem = s.mem :=
  (fireList_keeps (·.mem) barUpdate_mem n _ _ 0).trans (reevalEdges_mem s)

@[simp] theorem semAdd_mem (s : State) (n v : Nat) : (s.semAdd n v).mem = s.mem :=
  (semChanged_mem _ n).trans (foldl_keeps (·.mem) (fun t _ => by dsimp only; split <;> simp) _ _)
@[simp] theorem semAdd_mailbox (s : State) (n v : Nat) : (s.semAdd n v).hub.mailbox = s.hub.mailbox :=
  (congrArg (·.mailbox) (semChanged_hub _ n)).trans (foldl_keeps (·.hub.mailbox) (fun t _ => by dsimp only; split <;> simp) _ _)
@[simp] theorem semAdd_sems (s : State) (n v : Nat) : (s.semAdd n v).hub.sems = tput s.hub.sems n (tget 0 s.hub.sems n + BitVec.ofNat 64 v) :=
  (congrArg (·.sems) (semChanged_hub _ n)).trans (foldl_keeps (·.hub.sems) (fun t _ => by dsimp only; split <;> simp) _ _)

/-! ### Free choices -/

theorem choose_lt (s : State) {n : Nat} (hn : 0 < n) : (s.choose n).1 < n := by
  unfold State.choose
  split
  · exact hn
  · exact Nat.mod_lt _ hn

/-! ### The flash (R29, R451) -/

/-- The main region is written whether or not the recovery region is protected. -/
theorem flashWrite_main (s : State) {o : Nat} {bs : List Byte} (h : o + bs.length ≤ 2 ^ 23) : s.flashWrite o bs = (true, s.write (2 ^ 42 + o) bs) := by
  have hend : ¬ 2 ^ 24 < o + bs.length := by omega
  have hmain : ¬ 2 ^ 23 < o + bs.length := by omega
  simp only [State.flashWrite, decide_eq_false hend, decide_eq_false hmain, Bool.and_false, Bool.or_false, Bool.false_eq_true, if_false]

theorem stagePlaces_fits {s : State} {kind len o : Nat} (h : o ∈ s.stagePlaces kind len) : o + len ≤ 2 ^ 23 := by
  simp only [State.stagePlaces, List.mem_filter, Bool.and_eq_true, decide_eq_true_eq] at h
  exact h.2.1.2

theorem length_leBytes (n x : Nat) : (leBytes n x).length = n := by
  induction n generalizing x with
  | zero => rfl
  | succ n ih => exact congrArg (· + 1) (ih _)

/-! ### The supervisor's answers (R39) -/

theorem supervisorAnswers_idle {s : State} (op : Nat) (f : State → List Byte × State) (h : s.hub.mailbox.pend = false) :
    s.supervisorAnswers op f = s := by
  simp [State.supervisorAnswers, h]

theorem supervisorAnswers_pending {s : State} {op : Nat} (f : State → List Byte × State) (hp : s.hub.mailbox.pend = true)
    (ho : s.hub.mailbox.opcode = op) : s.supervisorAnswers op f = (f s).2.completeCommand 0 (f s).1 := by
  simp [State.supervisorAnswers, hp, ho]

end Sys2Proof.Machine
end

section
/-! What power-on, the host's link, interrupts and poisoned sites do, case by case, and O47. -/
namespace Sys2Proof.Machine
open Laws

section
variable {s : State}

/-! ### Power-on (R26) -/

/-- Step `k - 1` of power-on has ended: its entry of the boot log is written and step `k` is pending. -/
def State.toStep (s : State) (k : Nat) : State :=
  ({ s with boot := { s.boot with step := k - 1 } }.bootLog (k - 1) 0xFFFF 0).post .powerOnReset { a := k }

theorem powerOn_restart (h : s.arg.a ≤ 1) : s.powerOn = (s.restart.post .cxlLinkTraining).toStep 2 := by
  unfold State.powerOn
  obtain h0 | h1 : s.arg.a = 0 ∨ s.arg.a = 1 := by omega
  · rw [h0]; rfl
  · rw [h1]; rfl

theorem powerOn_images (h : s.arg.a = 2) :
    s.powerOn =
      if s.mainStatus = 0 then s.toStep 3
      else
        let t := s.bootLog 2 0xFFFF (s.mainStatus * 2 ^ 24)
        if t.recoveryOk then { t with boot := { t.boot with recovery := true } }.toStep 3
        else ({ t.bootLog 2 0xFFFF (2 ^ 24) with boot := { (t.bootLog 2 0xFFFF (2 ^ 24)).boot with step := 2 } } : State).enterSafe := by
  unfold State.powerOn
  rw [h]; rfl

theorem imageAt_bootLog (step unit status region kind : Nat) : (s.bootLog step unit status).imageAt region kind = s.imageAt region kind := by
  unfold State.imageAt State.num State.bytes State.byte
  rw [bootLog_mem]

/-- The boot log has no part in the recovery set's check. -/
theorem recoveryOk_bootLog (step unit status : Nat) : (s.bootLog step unit status).recoveryOk = s.recoveryOk := by
  simp only [State.recoveryOk, State.imageBytes, State.bytes, State.byte, bootLog_mem, imageAt_bootLog]

theorem powerOn_power (h : s.arg.a = 3) : s.powerOn = ({ s with hub := { s.hub with power := [] } } : State).toStep 4 := by
  unfold State.powerOn
  rw [h]; rfl

theorem powerOn_selfTest (h : s.arg.a = 4) :
    s.powerOn =
      (let t := allDies.foldl (fun s d => s.selfTestDie d) s
       ({ t with boot := { t.boot with step := 4 } } : State).post .powerOnReset { a := 5 }) := by
  unfold State.powerOn
  rw [h]; rfl

theorem startGroup_group (c g obj entry arg : Nat) : ((s.startGroup c g obj entry arg).group (groupKey (12288 + c) g)).present = true ∧
    (((s.startGroup c g obj entry arg).group (groupKey (12288 + c) g)).sub 0).st = 1 := by
  simp [State.startGroup, Group.sub, tget]

/-- The supervisor starts as group 0 of control core 0. -/
theorem startSupervisor_group : (s.startSupervisor.group (groupKey 12288 0)).present = true ∧
    ((s.startSupervisor.group (groupKey 12288 0)).sub 0).st = 1 :=
  startGroup_group 0 0 0 _ 0

/-- Step 6 ends with the supervisor just started; the rest of the step is the state it starts in. -/
theorem powerOn_supervisor (h : 5 < s.arg.a) (hstep : s.boot.step = 5) :
    ∃ u : State, s.powerOn = { u.startSupervisor with boot := { u.startSupervisor.boot with step := 6, linkRun := 3 } }.bootLog 6 0xFFFF 0 := by
  unfold State.powerOn
  split
  iterate 6 omega
  exact ⟨_, if_neg (not_not_intro hstep)⟩

theorem selfTestTimeout_unit (hstep : s.boot.step = 4) (ha : s.arg.a < 65536) (hd : s.arg.a / 256 ∈ allDies)
    (hu : s.arg.a % 256 ∈ unitBytes (s.arg.a / 4096)) : exec .selfTestTimeout s = .next (s.freeWord.2.setTest s.arg.a 4 s.freeWord.1) := by
  have hmod : s.arg.a % 65536 = s.arg.a := Nat.mod_eq_of_lt ha
  refine congrArg Host.Outcome.next ?_
  simp only [State.freeWord, hmod]
  exact if_pos ⟨hstep, List.contains_iff_mem.2 hd, List.contains_iff_mem.2 hu⟩

/-! ### The host's link and memory (R35-R37) -/

theorem linkTraining_result : ∃ t, exec .cxlLinkTraining s = .next t ∧ t.boot.linkWidth ∈ [8, 4, 2] ∧ t.boot.linkSpeed ∈ [64, 32, 16, 8] := by
  have hw : ∀ i < 3, 8 / 2 ^ i ∈ [8, 4, 2] := by decide
  have hr : ∀ j < 4, 64 / 2 ^ j ∈ [64, 32, 16, 8] := by decide
  exact ⟨_, rfl, hw _ (choose_lt s (by decide)), hr _ (choose_lt _ (by decide))⟩

/-- The bytes that the host's access spans. -/
def State.hostLength (s : State) : Nat := if s.arg.flag then s.arg.data.length else s.arg.b

/-- An access to the HDM range takes effect where the range is offered and holds it whole. -/
theorem hostAccess_memory (h : s.arg.c = 0) :
    s.hostAccess =
      if !s.boot.memActive || s.boot.hdmSize < s.arg.a + s.hostLength then s
      else if s.arg.flag then s.write s.arg.a s.arg.data
      else { s with hub := { s.hub with
        hostReads := s.hub.hostReads ++ [(s.arg.a, s.bytes s.arg.a s.hostLength, s.poisoned s.arg.a s.hostLength)] } } := by
  have hk : s.arg.c * 2 ^ 64 + s.arg.a = s.arg.a := by omega
  unfold State.hostAccess
  dsimp only
  rw [hk, h]
  rfl

theorem hostAccess_offered (h : s.arg.c = 0) (hm : s.boot.memActive = true) (hn : s.arg.a + s.hostLength ≤ s.boot.hdmSize) :
    s.hostAccess =
      if s.arg.flag then s.write s.arg.a s.arg.data
      else { s with hub := { s.hub with
        hostReads := s.hub.hostReads ++ [(s.arg.a, s.bytes s.arg.a s.hostLength, s.poisoned s.arg.a s.hostLength)] } } := by
  rw [hostAccess_memory h, if_neg]
  simp [hm, hn]

theorem hostAccess_outside (h : s.arg.c = 0) (hn : s.boot.memActive = false ∨ s.boot.hdmSize < s.arg.a + s.hostLength) : s.hostAccess = s := by
  rw [hostAccess_memory h, if_pos]
  simpa using hn

theorem hostAccess_configRead (h : s.arg.c = 3) (hf : s.arg.flag = false) :
    s.hostAccess = { s with hub := { s.hub with
      hostReads := s.hub.hostReads ++ [(3 * 2 ^ 64 + s.arg.a, (List.range s.arg.b).map (fun i => s.configRead (s.arg.a + i)), false)] } } := by
  unfold State.hostAccess
  rw [h, hf]; rfl

/-- The doorbell pages of BAR 0-1 are those of the device's own rows, at the same offset. -/
theorem barWrite_doorbell {o : Nat} (bs : List Byte) (h : o < 2 ^ 20) :
    s.barWrite 1 o bs = s.post .doorbellWrite { a := 2 ^ 41 + 0x100000 + o, data := bs, flag := true } := by
  have hp : hostPlace 1 o = .doorbell (o / 4096) (o % 4096) := by rw [hostPlace, if_pos rfl, if_pos h]
  have ho : 2 ^ 41 + 0x100000 + 0x1000 * (o / 4096) + o % 4096 = 2 ^ 41 + 0x100000 + o := by omega
  unfold State.barWrite
  rw [hp, ← ho]

theorem hostAccess_doorbell (h : s.arg.c = 1) (hf : s.arg.flag = true) (hs : s.boot.safe = false) (ha : s.arg.a < 2 ^ 20) :
    s.hostAccess = s.post .doorbellWrite { a := 2 ^ 41 + 0x100000 + s.arg.a, data := s.arg.data, flag := true } := by
  unfold State.hostAccess
  rw [h, hs, hf]
  exact barWrite_doorbell _ ha

theorem hostSnoop_line (h : 2 ^ 60 ≤ s.arg.a) :
    exec .hostSnoop s = .next (({ s with llcHost := s.llcHost.filter (· != s.arg.a / 128) } : State).write (128 * (s.arg.a / 128)) (s.arg.data.take 128)) :=
  congrArg Host.Outcome.next (if_neg (Nat.not_lt.2 h))

/-! ### Masks (R38) -/

theorem msixUnmask_opens (hf : s.arg.flag = false) :
    ∃ t, exec .msixUnmask s = .next t ∧ bitAt t.hub.msixMask (s.arg.a % 512) = false ∧
      t.hub.msixSent = (if bitAt s.hub.msixPend (s.arg.a % 512) then s.hub.msixSent ++ [s.arg.a % 512] else s.hub.msixSent) ∧
      bitAt t.hub.msixPend (s.arg.a % 512) = false := by
  have hmask : bitAt (if bitAt s.hub.msixMask (s.arg.a % 512) then s.hub.msixMask - 2 ^ (s.arg.a % 512) else s.hub.msixMask) (s.arg.a % 512) = false := by
    split
    next hm => exact bitAt_sub_two_pow hm
    next hm => exact Bool.eq_false_iff.2 hm
  refine ⟨_, rfl, ?_⟩
  simp only [hf, Bool.false_eq_true, if_false]
  split
  next hp => exact ⟨hmask, rfl, bitAt_sub_two_pow hp⟩
  next hp => exact ⟨hmask, rfl, Bool.eq_false_iff.2 hp⟩

theorem msixUnmask_masks (hf : s.arg.flag = true) :
    ∃ t, exec .msixUnmask s = .next t ∧ bitAt t.hub.msixMask (s.arg.a % 512) = true ∧ t.hub.msixSent = s.hub.msixSent := by
  refine ⟨_, rfl, ?_⟩
  simp only [hf, if_true, and_true]
  split
  next hm => exact hm
  next hm => exact bitAt_add_two_pow (Bool.eq_false_iff.2 hm)

theorem uncorrectableError_site {site : ErrorSite} (h : s.arg.site = some site) : exec .uncorrectableError s = .next (s.poisonSite site) := by
  refine congrArg Host.Outcome.next ?_
  dsimp only
  rw [h]

end
end Sys2Proof.Machine

namespace Sys2Proof.Proofs
open Machine Laws

/-- Settles O47: each event has its lemma above; a unit's test that times out is `setTest` with result 4. -/
theorem powerOnAndHost : Obligations.PowerOnAndHost := by
  unfold Obligations.PowerOnAndHost
  intro s
  extract_lets a next
  refine ⟨fun h => congrArg Host.Outcome.next (powerOn_restart h), fun h hm => ?main, fun h hm hr => ?recovery,
    fun h => congrArg Host.Outcome.next (powerOn_power h), fun h => ⟨_, congrArg Host.Outcome.next (powerOn_selfTest h), rfl, by simp⟩,
    fun h hs => ?supervisor, fun hs ha hd hu => ⟨_, selfTestTimeout_unit hs ha hd hu, ?timeout⟩, ?link, rfl, ?memory,
    fun h hf => congrArg Host.Outcome.next (hostAccess_configRead h hf),
    fun h hf hs ha => congrArg Host.Outcome.next (hostAccess_doorbell h hf hs ha), hostSnoop_line, msixUnmask_opens, msixUnmask_masks,
    fun _ => uncorrectableError_site⟩
  case main =>
    have hp := powerOn_images h
    rw [if_pos hm] at hp
    exact congrArg Host.Outcome.next hp
  case recovery =>
    have hp := powerOn_images h
    rw [if_neg hm] at hp
    exact congrArg Host.Outcome.next (hp.trans (if_pos ((recoveryOk_bootLog ..).trans hr)))
  case supervisor =>
    obtain ⟨u, hu⟩ := powerOn_supervisor h hs
    exact ⟨_, congrArg Host.Outcome.next hu, rfl, startSupervisor_group⟩
  case timeout =>
    refine ⟨?_, fun hf => ?_, fun hf u hne => ?_⟩
    · by_cases hf : a % 256 = 0xF0
      · exact tget_setTest_adapter_self _ hf rfl
      · exact (tget_setTest_unit _ _ _ hf).trans (if_pos rfl)
    · have hkind : a / 256 / 16 = a / 4096 := Nat.div_div_eq_div_mul ..
      exact fun b hb => tget_setTest_adapter_other _ hf rfl (hkind ▸ hb)
    · exact (tget_setTest_unit _ _ _ hf).trans (if_neg (Ne.symm hne))
  case link =>
    obtain ⟨t, ht, hw, hr⟩ := linkTraining_result (s := s)
    exact ⟨_, _, t, ht, rfl, rfl, hw, hr⟩
  case memory =>
    intro hc
    exact ⟨fun hm hf hn => congrArg Host.Outcome.next ((hostAccess_offered hc hm hn).trans (if_pos hf)),
      fun hm hf hn => congrArg Host.Outcome.next ((hostAccess_offered hc hm hn).trans (if_neg (Bool.eq_false_iff.1 hf))),
      fun hn => congrArg Host.Outcome.next (hostAccess_outside hc hn)⟩

end Sys2Proof.Proofs
end

section
/-! What the mailbox's commands do, case by case, and O48. -/
namespace Sys2Proof.Machine
open Laws

section
variable {s : State}

/-! ### The host's command (R39, R40) -/

/-- The command states whether the host has enabled mailbox interrupts. -/
def State.noteMsixOn (s : State) : State := { s with hub := { s.hub with msixOn := s.arg.flag } }

/-- The command awaits the supervisor, whose semaphore tells it so. -/
def State.passCommand (s : State) : State :=
  ({ s with hub := { s.hub with
      msixOn := s.arg.flag
      mailbox := { s.hub.mailbox with
        pend := true, len := s.arg.data.length, opcode := s.arg.a % 65536, olen := 0
        payload := mwrites s.hub.mailbox.payload 0 s.arg.data } } } : State).semAdd s.hub.mailbox.ssem 1

theorem command_pending (hp : s.hub.mailbox.pend = true) : s.command = s.noteMsixOn := if_pos hp

theorem command_long (hp : s.hub.mailbox.pend = false) (hl : 2048 < s.arg.data.length) : s.command = s.noteMsixOn.answer rcLength [] :=
  (if_neg (Bool.eq_false_iff.1 hp)).trans (if_pos hl)

section
variable (hp : s.hub.mailbox.pend = false) (hl : s.arg.data.length ≤ 2048)
include hp hl

theorem command_hub {i : Instr} (hc : hubCommand (s.arg.a % 65536) = some i) (hs : s.boot.safe = false ∨ 0xC000 ≤ s.arg.a % 65536) :
    s.command = s.noteMsixOn.post i { data := s.arg.data } := by
  have hserved : ¬ (s.boot.safe = true ∧ s.arg.a % 65536 < 0xC000) := by
    rintro ⟨hsafe, hop⟩
    exact hs.elim (fun h => absurd hsafe (Bool.eq_false_iff.1 h)) (fun h => absurd hop (Nat.not_lt.2 h))
  unfold State.command
  dsimp only
  rw [if_neg (Bool.eq_false_iff.1 hp), if_neg (Nat.not_lt.2 hl), hc]
  exact if_neg hserved

/-- A command that is not the hub's own goes to the supervisor where one runs and has signed in; one of the supervisor's opcodes has the event of
its answer posted. -/
theorem command_supervisor (hc : hubCommand (s.arg.a % 65536) = none) :
    s.command =
      if s.boot.safe then s.noteMsixOn.answer rcUnsupported []
      else if !s.hub.mailbox.signed then s.noteMsixOn.answer rcBusy []
      else (supervisorCommand (s.arg.a % 65536)).elim s.passCommand (s.passCommand.post · {}) := by
  unfold State.command
  dsimp only
  rw [if_neg (Bool.eq_false_iff.1 hp), if_neg (Nat.not_lt.2 hl), hc]
  cases supervisorCommand (s.arg.a % 65536) <;> rfl
end

theorem passCommand_effect : s.passCommand.hub.mailbox.pend = true ∧ s.passCommand.hub.mailbox.opcode = s.arg.a % 65536 ∧
    s.passCommand.hub.mailbox.len = s.arg.data.length ∧
    tget 0 s.passCommand.hub.sems s.hub.mailbox.ssem = tget 0 s.hub.sems s.hub.mailbox.ssem + 1 ∧ s.passCommand.mem = s.mem := by
  simp [State.passCommand]

/-! ### Sign-in (R26 step 7) -/

/-- The supervisor has signed in: memory is offered, but in the safe state, and doorbells are no longer latched. -/
def State.signedIn (s : State) : State :=
  { s with
    hub := { s.hub with mailbox := { s.hub.mailbox with signed := true } }
    boot := { s.boot with step := 7, latch := false, memActive := !s.boot.safe, hdmSize := if s.boot.safe then 0 else s.hbmTop } }

/-- A sign-in after the first reports the end of no background operation. -/
def State.signinReport (s : State) : State := if s.hub.mailbox.signed then s.signedIn else s.signedIn.backgroundDone

theorem signin_eq : s.signin = (s.signinReport.bootLog 7 0xFFFF 0).devDone s.arg.d := rfl

theorem signinReport_mailbox : s.signinReport.hub.mailbox = { s.hub.mailbox with signed := true } := by
  unfold State.signinReport
  split
  · rfl
  · exact backgroundDone_mailbox _

theorem signinReport_boot : s.signinReport.boot = s.signedIn.boot := by
  unfold State.signinReport
  split
  · rfl
  · exact backgroundDone_boot _

theorem signin_effect : ∃ u : State, s.signin = u.devDone s.arg.d ∧ u.hub.mailbox = { s.hub.mailbox with signed := true } ∧ u.boot.step = 7 ∧
    u.boot.latch = false ∧ u.boot.memActive = !s.boot.safe ∧ u.boot.hdmSize = if s.boot.safe then 0 else s.hbmTop := by
  obtain ⟨l, hl⟩ := bootLog_boot s.signinReport 7 0xFFFF 0
  refine ⟨_, signin_eq, ?_⟩
  rw [bootLog_hub, signinReport_mailbox, hl, signinReport_boot]
  exact ⟨rfl, rfl, rfl, rfl, rfl⟩

/-! ### Host ranges (R40) -/

theorem grantHostRange_refused (hp : s.hub.mailbox.pend = true) (ho : s.hub.mailbox.opcode = 0xC020)
    (h : s.payload 8 8 % 2 ^ 28 ≠ 0 ∨ s.payload 16 8 % 2 ^ 28 ≠ 0 ∨ s.boot.hdmSize < s.payload 8 8 + s.payload 16 8 ∨ Config.policy s.count = false) :
    exec .grantHostRange s = .next (({ s with count := s.count + 1 } : State).completeCommand 0 [1]) := by
  refine congrArg Host.Outcome.next ((supervisorAnswers_pending _ hp ho).trans ?_)
  dsimp only
  rw [if_neg]
  · rfl
  · simp only [Bool.and_eq_true, decide_eq_true_eq]
    rintro ⟨⟨⟨hb, hn⟩, hr⟩, hc⟩
    obtain h | h | h | h := h
    · exact h hb
    · exact h hn
    · exact Nat.not_lt.2 hr h
    · exact Bool.eq_false_iff.1 h hc

theorem grantHostRange_granted (hp : s.hub.mailbox.pend = true) (ho : s.hub.mailbox.opcode = 0xC020) (hb : s.payload 8 8 % 2 ^ 28 = 0)
    (hn : s.payload 16 8 % 2 ^ 28 = 0) (hr : s.payload 8 8 + s.payload 16 8 ≤ s.boot.hdmSize) (hc : Config.policy s.count = true) :
    exec .grantHostRange s = .next (({ s with count := s.count + 1, hub := { s.hub with
      grants := s.hub.grants ++ [(s.payload 0 1, s.payload 8 8, s.payload 16 8)] } } : State).completeCommand 0 [0]) := by
  refine congrArg Host.Outcome.next ((supervisorAnswers_pending _ hp ho).trans ?_)
  dsimp only
  rw [if_pos]
  · rfl
  · simp only [Bool.and_eq_true, decide_eq_true_eq]
    exact ⟨⟨⟨hb, hn⟩, hr⟩, hc⟩

theorem releaseHostRange_one (hp : s.hub.mailbox.pend = true) (ho : s.hub.mailbox.opcode = 0xC021) {g : Nat × Nat × Nat} (hg : s.hub.grants = [g]) :
    exec .releaseHostRange s = .next (if g.2.1 = s.payload 8 8 ∧ g.2.2 = s.payload 16 8
      then ({ s with hub := { s.hub with grants := [] } } : State).completeCommand 0 [0] else s.completeCommand 0 [1]) := by
  refine congrArg Host.Outcome.next ((supervisorAnswers_pending _ hp ho).trans ?_)
  by_cases hmine : g.2.1 = s.payload 8 8 ∧ g.2.2 = s.payload 16 8
  · have hfind : [g].findIdx? (fun g => g.2.1 == s.payload 8 8 && g.2.2 == s.payload 16 8) = some 0 := by simp [List.findIdx?_cons, hmine]
    dsimp only
    rw [hg, hfind, if_pos hmine]
    rfl
  · have hfind : [g].findIdx? (fun g => g.2.1 == s.payload 8 8 && g.2.2 == s.payload 16 8) = none := by simpa using hmine
    dsimp only
    rw [hg, hfind, if_neg hmine]
    rfl

theorem listHostRanges_pending (hp : s.hub.mailbox.pend = true) (ho : s.hub.mailbox.opcode = 0xC022) :
    exec .listHostRanges s = .next (s.completeCommand 0
      ((s.hub.grants.take 64).flatMap (fun g => leBytes 8 g.1 ++ leBytes 8 g.2.1 ++ leBytes 8 g.2.2))) :=
  congrArg Host.Outcome.next (supervisorAnswers_pending _ hp ho)

/-! ### Firmware (R451-R453) -/

/-- The image of a STAGE_IMAGE command. -/
def State.stagedImage (s : State) : List Byte := (List.range (s.hub.mailbox.len - 1)).map (fun i => mread s.hub.mailbox.payload (i + 1))

theorem map_payload_stagedImage : (List.range (s.hub.mailbox.len - 1)).map (fun i => mread s.hub.mailbox.payload (i + 1)) = s.stagedImage := rfl

theorem stageImage_refused (hp : s.hub.mailbox.pend = true) (ho : s.hub.mailbox.opcode = 0xC010)
    (h : s.imageStatus (s.payload 0 1 % 4) s.stagedImage ≠ 0) :
    exec .stageImage s = .next (s.completeCommand 0 [BitVec.ofNat 8 (s.imageStatus (s.payload 0 1 % 4) s.stagedImage)]) := by
  refine congrArg Host.Outcome.next ((supervisorAnswers_pending _ hp ho).trans ?_)
  dsimp only
  rw [map_payload_stagedImage, if_pos h]
  rfl

/-- An accepted image goes to the one place that is clear, and its directory entry says where. -/
theorem stageImage_placed (hp : s.hub.mailbox.pend = true) (ho : s.hub.mailbox.opcode = 0xC010)
    (h : s.imageStatus (s.payload 0 1 % 4) s.stagedImage = 0) {o : Nat} (hps : s.stagePlaces (s.payload 0 1 % 4) s.stagedImage.length = [o]) :
    exec .stageImage s = .next (((s.write (2 ^ 42 + o) s.stagedImage).write (2 ^ 42 + 16 * (s.payload 0 1 % 4))
      (leBytes 16 (o + s.stagedImage.length * 2 ^ 40))).completeCommand 0 [0]) := by
  have hfit : o + s.stagedImage.length ≤ 2 ^ 23 := stagePlaces_fits (hps ▸ List.mem_singleton_self o)
  have hdir : 16 * (s.payload 0 1 % 4) + (leBytes 16 (o + s.stagedImage.length * 2 ^ 40)).length ≤ 2 ^ 23 := by
    rw [length_leBytes]; omega
  have hone : s.choose [o].length = (0, s) := rfl
  refine congrArg Host.Outcome.next ((supervisorAnswers_pending _ hp ho).trans ?_)
  simp only [map_payload_stagedImage, h, hps, hone, flashWrite_main s hfit, flashWrite_main _ hdir, ne_eq, not_true_eq_false, if_false, List.getElem?_cons_zero,
    Bool.and_self, if_true]
  rfl

section
variable (hf : s.arg.flag = false) (hp : s.hub.mailbox.pend = true) (ho : s.hub.mailbox.opcode = 0xC011)
include hf hp ho

/-- A command that awaits ACTIVATE is answered with its status; an activation that is allowed begins, and its end is posted. -/
theorem activate_pending :
    s.activate =
      (let kind := s.payload 0 1 % 4
       let unit := s.payload 2 2
       let st := s.activateStatus kind unit ((s.imageBytes 0 kind).getD [])
       if st ≠ 0 then s.completeCommand 0 (statusByte st)
       else ((if kind = 0 then s.completeCommand rcAborted [] else s.completeCommand 0 (statusByte 0)).beginActivation kind unit).post .activate
        { flag := true }) := by
  unfold State.activate
  rw [if_neg (Bool.eq_false_iff.1 hf)]
  dsimp only
  rw [if_neg]
  simp [hp, ho]
end

theorem commitCounter_pending (hp : s.hub.mailbox.pend = true) (ho : s.hub.mailbox.opcode = 0xC012) :
    ∃ v, exec .commitCounter s = .next (({ s with boot := { s.boot with
      counters := tput s.boot.counters (s.payload 0 1 % 4) (max (tget 0 s.boot.counters (s.payload 0 1 % 4)) v) } } : State).completeCommand 0 [0]) :=
  ⟨_, congrArg Host.Outcome.next (supervisorAnswers_pending _ hp ho)⟩

theorem getVersions_pending (hp : s.hub.mailbox.pend = true) (ho : s.hub.mailbox.opcode = 0xC013) :
    exec .getVersions s = .next (s.completeCommand 0 (Config.versionsPayload s.boot.versions)) :=
  congrArg Host.Outcome.next (supervisorAnswers_pending _ hp ho)

/-- The supervisor answers nothing where no command awaits it. -/
theorem supervisorCommands_idle (hp : s.hub.mailbox.pend = false) :
    ∀ i, i ∈ [Instr.stageImage, .commitCounter, .getVersions, .grantHostRange, .releaseHostRange, .listHostRanges] → exec i s = .next s := by
  simp only [List.forall_mem_cons]
  have hidle (op : Nat) (f : State → List Byte × State) : Host.Outcome.next (s.supervisorAnswers op f) = (.next s : Host.Outcome State Fault Refusal) :=
    congrArg Host.Outcome.next (supervisorAnswers_idle op f hp)
  exact ⟨hidle _ _, hidle _ _, hidle _ _, hidle _ _, hidle _ _, hidle _ _, List.forall_mem_nil _⟩

theorem cxlCommands_answer :
    ∀ i o, (i, o) ∈ [(Instr.identifyMemoryDevice, 0x4000), (.getSupportedLogs, 0x0400), (.getLog, 0x0401), (.getHealthInfo, 0x4200)] →
      exec i s = .next (s.answerCxl o) := by
  intro i o h
  simp only [List.mem_cons, Prod.mk.injEq, List.not_mem_nil, or_false] at h
  obtain ⟨rfl, rfl⟩ | ⟨rfl, rfl⟩ | ⟨rfl, rfl⟩ | ⟨rfl, rfl⟩ := h <;> rfl

end
end Sys2Proof.Machine

namespace Sys2Proof.Proofs
open Machine Laws

/-- Settles O48: the host's command by the answer it gets, then each command by its lemma above. -/
theorem mailboxCommands : Obligations.MailboxCommands := by
  unfold Obligations.MailboxCommands
  intro s
  refine ⟨fun hp => congrArg Host.Outcome.next (command_pending hp), fun hp hl => congrArg Host.Outcome.next (command_long hp hl),
    fun _ hp hl hc hs => congrArg Host.Outcome.next (command_hub hp hl hc hs), fun hp hc hs hl => ?safe, fun hp hc hs hl hm => ?busy,
    fun hp hc hs hl hm => ?passed, ?signin, rfl, rfl, rfl, rfl, rfl,
    cxlCommands_answer, fun i hi hp => supervisorCommands_idle hp i hi,
    fun hp ho => ⟨grantHostRange_refused hp ho, grantHostRange_granted hp ho⟩, fun _ hp ho hg => releaseHostRange_one hp ho hg, listHostRanges_pending,
    fun hp ho => ⟨stageImage_refused hp ho, fun _ h hps => stageImage_placed hp ho h hps⟩,
    fun hf hp ho => ⟨fun h => ?refused, fun h => ?activated⟩, commitCounter_pending, getVersions_pending⟩
  case safe =>
    exact congrArg Host.Outcome.next ((command_supervisor hp hl hc).trans (if_pos hs))
  case busy =>
    have h := command_supervisor hp hl hc
    rw [if_neg (Bool.eq_false_iff.1 hs), if_pos (by simp [hm])] at h
    exact congrArg Host.Outcome.next h
  case passed =>
    have h := command_supervisor hp hl hc
    rw [if_neg (Bool.eq_false_iff.1 hs), if_neg (by simp [hm])] at h
    refine ⟨_, congrArg Host.Outcome.next h, ?_⟩
    cases supervisorCommand (s.arg.a % 65536) <;> exact passCommand_effect
  case signin =>
    obtain ⟨u, hu, heff⟩ := signin_effect (s := s)
    exact ⟨u, congrArg Host.Outcome.next hu, heff⟩
  case refused =>
    exact congrArg Host.Outcome.next ((activate_pending hf hp ho).trans (if_pos h))
  case activated =>
    refine congrArg Host.Outcome.next ((activate_pending hf hp ho).trans ((if_neg (not_not_intro h)).trans ?_))
    split <;> rfl

end Sys2Proof.Proofs
end

section
/-! The claim checker's decision (O60): the passes of `Safe` find an order in which the blocks can finish wherever there is one. -/
namespace Sys2Proof.Machine

/-! ### Amounts -/

theorem gt_eq_false_iff {a b : Res} : a.gt b = false ↔ a.reg ≤ b.reg ∧ a.spm ≤ b.spm ∧ a.msl ≤ b.msl := by
  simp [Res.gt, and_assoc]

theorem gt_add_eq_false {a w : Res} (h : Res) (hfit : a.gt w = false) : a.gt (w.add h) = false := by
  simp only [gt_eq_false_iff, Res.add] at *
  omega

theorem add_right_comm (a b c : Res) : (a.add b).add c = (a.add c).add b := by
  simp only [Res.add, Nat.add_right_comm]

/-! ### Blocks that can finish in some order -/

/-- The blocks can finish, in some order, from what is free. -/
def Finishable (w : Res) (bs : List (Res × Res)) : Prop := ∃ order, order.Perm bs ∧ canFinish w order

/-- A block that gives up its holdings ahead of its turn, whatever its need, leaves an order for the rest. -/
theorem canFinish_erase {b : Res × Res} {order : List (Res × Res)} :
    ∀ {w : Res}, canFinish w order → b ∈ order → canFinish (w.add b.2) (order.erase b) := by
  induction order with
  | nil => exact fun _ hb => absurd hb List.not_mem_nil
  | cons a t ih =>
    rintro w ⟨hfit, ht⟩ hb
    by_cases hab : a = b
    · subst hab
      rwa [List.erase_cons_head]
    · have hbt : b ∈ t := (List.mem_cons.1 hb).resolve_left (Ne.symm hab)
      rw [List.erase_cons_tail (by simpa using hab)]
      exact ⟨gt_add_eq_false b.2 hfit, add_right_comm w a.2 b.2 ▸ ih ht hbt⟩

theorem Finishable.perm {w : Res} {bs bs' : List (Res × Res)} (h : Finishable w bs) (hp : bs.Perm bs') : Finishable w bs' := by
  obtain ⟨order, ho, hf⟩ := h
  exact ⟨order, ho.trans hp, hf⟩

theorem Finishable.release {w : Res} {b : Res × Res} {bs : List (Res × Res)} (h : Finishable w (b :: bs)) : Finishable (w.add b.2) bs := by
  obtain ⟨order, ho, hf⟩ := h
  have hb : b ∈ order := ho.mem_iff.2 List.mem_cons_self
  exact ⟨order.erase b, by simpa using ho.erase b, canFinish_erase hf hb⟩

theorem Finishable.exists_fits {w : Res} {bs : List (Res × Res)} (h : Finishable w bs) (hne : bs ≠ []) :
    ∃ b ∈ bs, (b.1.sub b.2).gt w = false := by
  obtain ⟨order, ho, hf⟩ := h
  cases order with
  | nil => exact absurd ho.nil_eq.symm hne
  | cons b t => exact ⟨b, ho.mem_iff.1 List.mem_cons_self, hf.1⟩

/-! ### One pass of `Safe` -/

theorem safePass_cons_waits {w : Res} {b : Res × Res} (t : List (Res × Res)) (h : (b.1.sub b.2).gt w = true) :
    safePass w (b :: t) = ((safePass w t).1, b :: (safePass w t).2) := by
  rw [safePass, if_pos h]

theorem safePass_cons_fits {w : Res} {b : Res × Res} (t : List (Res × Res)) (h : (b.1.sub b.2).gt w = false) :
    safePass w (b :: t) = safePass (w.add b.2) t := by
  rw [safePass, h]
  rfl

/-- The blocks of a pass that finish can go first in any order that finishes those it leaves. -/
theorem finishable_of_safePass {bs : List (Res × Res)} :
    ∀ {w : Res}, Finishable (safePass w bs).1 (safePass w bs).2 → Finishable w bs := by
  suffices key : ∀ w, ∃ done, (done ++ (safePass w bs).2).Perm bs ∧ ∀ rest, canFinish (safePass w bs).1 rest → canFinish w (done ++ rest) by
    rintro w ⟨order, ho, hf⟩
    obtain ⟨done, hd, hfirst⟩ := key w
    exact ⟨done ++ order, (ho.append_left done).trans hd, hfirst order hf⟩
  induction bs with
  | nil => exact fun _ => ⟨[], .refl _, fun _ h => h⟩
  | cons b t ih =>
    intro w
    cases hb : (b.1.sub b.2).gt w with
    | true =>
      rw [safePass_cons_waits t hb]
      obtain ⟨done, hd, hfirst⟩ := ih w
      exact ⟨done, List.perm_middle.trans (hd.cons b), hfirst⟩
    | false =>
      rw [safePass_cons_fits t hb]
      obtain ⟨done, hd, hfirst⟩ := ih (w.add b.2)
      exact ⟨b :: done, hd.cons b, fun rest h => ⟨hb, hfirst rest h⟩⟩

/-- A pass keeps an order for what it leaves, whatever blocks `kept` it has already left. -/
theorem Finishable.safePass_append {bs : List (Res × Res)} :
    ∀ {w : Res} {kept : List (Res × Res)}, Finishable w (kept ++ bs) → Finishable (safePass w bs).1 (kept ++ (safePass w bs).2) := by
  induction bs with
  | nil => exact fun h => h
  | cons b t ih =>
    intro w kept h
    cases hb : (b.1.sub b.2).gt w with
    | true =>
      rw [safePass_cons_waits t hb, List.append_cons]
      exact ih (List.append_cons kept b t ▸ h)
    | false =>
      rw [safePass_cons_fits t hb]
      exact ih (h.perm List.perm_middle).release

theorem length_safePass_le (bs : List (Res × Res)) : ∀ w, (safePass w bs).2.length ≤ bs.length := by
  induction bs with
  | nil => exact fun _ => Nat.le_refl 0
  | cons b t ih =>
    intro w
    cases hb : (b.1.sub b.2).gt w with
    | true => rw [safePass_cons_waits t hb]; exact Nat.succ_le_succ (ih w)
    | false => rw [safePass_cons_fits t hb]; exact (ih _).trans (Nat.le_succ _)

/-- A pass finishes a block where the need of any fits. -/
theorem length_safePass_lt {w : Res} {bs : List (Res × Res)} (h : ∃ b ∈ bs, (b.1.sub b.2).gt w = false) :
    (safePass w bs).2.length < bs.length := by
  obtain ⟨b, hmem, hfit⟩ := h
  induction bs with
  | nil => exact absurd hmem List.not_mem_nil
  | cons a t ih =>
    cases ha : (a.1.sub a.2).gt w with
    | true =>
      have hbt : b ∈ t := (List.mem_cons.1 hmem).resolve_left fun hba => by simp [← hba, hfit] at ha
      rw [safePass_cons_waits t ha]
      exact Nat.succ_lt_succ (ih hbt)
    | false =>
      rw [safePass_cons_fits t ha]
      exact Nat.lt_succ_of_le (length_safePass_le t _)

/-! ### All passes -/

theorem finishable_of_safePasses {n : Nat} : ∀ {w : Res} {bs : List (Res × Res)}, safePasses n w bs = [] → Finishable w bs := by
  induction n with
  | zero => rintro w bs rfl; exact ⟨[], .refl _, trivial⟩
  | succ n ih => exact fun h => finishable_of_safePass (ih h)

theorem safePasses_eq_nil {n : Nat} :
    ∀ {w : Res} {bs : List (Res × Res)}, bs.length ≤ n → Finishable w bs → safePasses n w bs = [] := by
  induction n with
  | zero => exact fun hn _ => List.eq_nil_of_length_eq_zero (Nat.le_zero.1 hn)
  | succ n ih =>
    intro w bs hn h
    have hrest : (safePass w bs).2.length ≤ n := by
      by_cases hne : bs = []
      · subst hne; exact Nat.zero_le n
      · exact Nat.le_of_lt_succ ((length_safePass_lt (h.exists_fits hne)).trans_le hn)
    exact ih hrest (h.safePass_append (kept := []))

theorem isSafe_iff {t : Res} {bs : List (Res × Res)} (hn : bs.length ≤ 16) : isSafe t bs = true ↔ Finishable (avail t bs) bs := by
  rw [isSafe, List.isEmpty_iff]
  exact ⟨finishable_of_safePasses, safePasses_eq_nil hn⟩

/-! ### The check of a request -/

section
variable {t c h q : Res} {bs : List (Res × Res)}

theorem claimCheck_eq_zero : claimCheck t bs c h q = 0 ↔
    q.gt (c.sub h) = false ∧ q.gt (avail t ((c, h) :: bs)) = false ∧ isSafe t ((c, h.add q) :: bs) = true := by
  unfold claimCheck
  split_ifs <;> simp_all

theorem isSafe_of_claimCheck_eq_two : claimCheck t bs c h q = 2 → isSafe t ((c, h.add q) :: bs) = false := by
  unfold claimCheck
  split_ifs <;> simp_all

theorem claimCheck_eq_three : claimCheck t bs c h q = 3 ↔ q.gt (c.sub h) = true := by
  unfold claimCheck
  split_ifs <;> simp_all
end

end Sys2Proof.Machine

namespace Sys2Proof.Proofs
open Machine

/-- Settles O60: the passes of `Safe` find an order exactly where there is one (`isSafe_iff`), and a grant is a check of the state it leaves. -/
theorem claimCheckIsBankers : Obligations.ClaimCheckIsBankers := by
  unfold Obligations.ClaimCheckIsBankers
  refine ⟨fun t bs hn => isSafe_iff hn, fun t bs c h q hn => ?check⟩
  have hsafe : isSafe t ((c, h.add q) :: bs) = true ↔ Finishable _ _ := isSafe_iff (Nat.succ_le_succ hn)
  refine ⟨fun h0 => ?granted, claimCheck_eq_three, fun h2 hfin => ?refused⟩
  case granted =>
    obtain ⟨hclaim, havail, hs⟩ := claimCheck_eq_zero.1 h0
    exact ⟨hclaim, havail, hsafe.1 hs⟩
  case refused => exact Bool.eq_false_iff.1 (isSafe_of_claimCheck_eq_two h2) (hsafe.2 hfin)

end Sys2Proof.Proofs
end

section
/-! Contexts and queues (O40). The first part says that a cancelled launch, whatever its completion record and its signals do, leaves every context
and every queue alone; from that a teardown's effect follows. The parts after it say what each event does, case by case. -/
namespace Sys2Proof.Machine
open Laws

/-! ### The tables of contexts and queues -/

/-- The contexts and the queues of a state. -/
def State.hostTables (s : State) : Tab Context × Tab Queue := (s.contexts, s.queues)

theorem hostTables_eq {s t : State} (hc : t.contexts = s.contexts) (hq : t.queues = s.queues) : t.hostTables = s.hostTables :=
  congrArg₂ Prod.mk hc hq

section
variable (s : State)

theorem choose_hostTables (n : Nat) : (s.choose n).2.hostTables = s.hostTables := by
  unfold State.choose
  split <;> rfl

theorem portRead_hostTables (ctx obj key addr : Nat) : (s.portRead ctx obj key addr).2.hostTables = s.hostTables := by
  unfold State.portRead
  dsimp only
  split
  · rfl
  · split
    · rfl
    · exact choose_hostTables s 2

theorem walkPage_hostTables (ctx obj v page : Nat) (ctl : Bool) : (s.walkPage ctx obj v page ctl).2.hostTables = s.hostTables := by
  have hp := portRead_hostTables s ctx obj (1 + page) (entBase v + 16 * page)
  unfold State.walkPage
  dsimp only
  split_ifs
  · rfl
  all_goals exact hp

theorem hubReach_hostTables (c obj a n : Nat) : (s.hubReach c obj a n).2.hostTables = s.hostTables := by
  have hp := portRead_hostTables s c obj 0 ((s.context c).otBase + 16 * obj)
  unfold State.hubReach
  dsimp only
  split_ifs
  · rfl
  · exact hp
  · exact List.foldlRecOn (motive := fun r : Except Nat (Tab Nat) × State => r.2.hostTables = s.hostTables) _ _ hp
      fun _ hr _ _ => (walkPage_hostTables ..).trans hr

theorem write_hostTables (k : Nat) (bs : List Byte) : (s.write k bs).hostTables = s.hostTables := rfl
theorem zero_hostTables (k n : Nat) : (s.zero k n).hostTables = s.hostTables := rfl
theorem setCore_hostTables (u : Nat) (c : Core) : (s.setCore u c).hostTables = s.hostTables := rfl
theorem setLaunch_hostTables (n : Nat) (l : Launch) : (s.setLaunch n l).hostTables = s.hostTables := rfl
theorem withRings_hostTables (r : Tab RecRing) : ({ s with rings := r } : State).hostTables = s.hostTables := rfl
theorem withLaunches_hostTables (l : Tab Launch) (r : List Nat) : ({ s with launches := l, ready := r } : State).hostTables = s.hostTables := rfl

theorem settleDrops_hostTables (id key : Nat) : (s.settleDrops id key).hostTables = s.hostTables := by
  unfold State.settleDrops
  dsimp only
  split
  · rw [zero_hostTables, setCore_hostTables]
  · rfl

theorem hubWrite_hostTables (ps : Tab Nat) (a : Nat) (bs : List Byte) : (s.hubWrite ps a bs).hostTables = s.hostTables := by
  have hh : (s.holdHost (placeKey ps a)).hostTables = s.hostTables := by unfold State.holdHost; split <;> rfl
  unfold State.hubWrite State.writeAt State.storeAt
  dsimp only
  split
  · rw [write_hostTables, zero_hostTables, setCore_hostTables, settleDrops_hostTables, hh]
  · rw [write_hostTables, settleDrops_hostTables, hh]

theorem raiseVector_hostTables (v : Nat) : (s.raiseVector v).hostTables = s.hostTables := by
  unfold State.raiseVector
  split <;> rfl

theorem postOnce_hostTables (i : Instr) (arg : EventArg) : (s.postOnce i arg).hostTables = s.hostTables :=
  hostTables_eq (postOnce_contexts ..) (postOnce_queues ..)

theorem reevalEdges_hostTables : s.reevalEdges.hostTables = s.hostTables :=
  foldl_keeps State.hostTables (fun t _ => by
    dsimp only
    split
    · split
      · exact postOnce_hostTables ..
      · rfl
    · rfl) _ s

theorem barUpdate_hostTables (b off : Nat) (u : BarUpdate) : (s.barUpdate b off u).hostTables = s.hostTables :=
  hostTables_eq (postOnce_contexts ..) (postOnce_queues ..)

theorem semChanged_hostTables (n : Nat) : (s.semChanged n).hostTables = s.hostTables :=
  (fireList_keeps State.hostTables barUpdate_hostTables n _ _ 0).trans (reevalEdges_hostTables s)

theorem semAdd_hostTables (n v : Nat) : (s.semAdd n v).hostTables = s.hostTables :=
  (semChanged_hostTables _ n).trans
    (foldl_keeps State.hostTables (fun t _ => by dsimp only; split <;> [exact raiseVector_hostTables ..; rfl]) _ _)

theorem record_hostTables (c kind : Nat) (r : Rec) : (s.record c kind r).hostTables = s.hostTables := by
  unfold State.record
  dsimp only
  split
  · exact withRings_hostTables s _
  · rw [semAdd_hostTables, withRings_hostTables, write_hostTables]

theorem finishLaunch_hostTables (n : Nat) : (s.finishLaunch n).hostTables = s.hostTables := by
  unfold State.finishLaunch
  split
  · rfl
  next l hl =>
    extract_lets d lost flags bs signal
    have hsignal (t : State) : (signal t).hostTables = t.hostTables := by
      refine (apply_ite State.hostTables _ _ _).trans ?_
      have hlaunches := withLaunches_hostTables t (tdel t.launches n) (t.ready.filter (· != n))
      split
      · exact hlaunches
      · exact (foldl_keeps State.hostTables (fun u i => by split <;> [exact semAdd_hostTables ..; rfl]) _ _).trans hlaunches
    have hreach := hubReach_hostTables s l.ctx (dsCrObj d) (dsCrOff d) 64
    split
    · exact hsignal s
    · split
      next t ht => rw [ht] at hreach; exact (hsignal _).trans ((hubWrite_hostTables ..).trans hreach)
      next t ht =>
        rw [ht] at hreach
        dsimp only
        split
        · exact (setLaunch_hostTables ..).trans hreach
        · exact (record_hostTables ..).trans ((setLaunch_hostTables ..).trans hreach)
      next t _ ht => rw [ht] at hreach; exact (hsignal _).trans hreach

theorem cancelLaunch_hostTables (n : Nat) (l : Launch) : (s.cancelLaunch n l).hostTables = s.hostTables := by
  unfold State.cancelLaunch
  dsimp only
  split
  · exact (finishLaunch_hostTables ..).trans (setLaunch_hostTables ..)
  · exact (withLaunches_hostTables ..).trans (setLaunch_hostTables ..)
end

/-! ### Teardown (R94) -/

/-- A torn-down queue: its inbox is gone, and the hub has still to give it up. -/
def Queue.Dead (x : Queue) : Prop := x.st = 4 ∧ x.pend = 0 ∧ x.inbox = []
/-- Live, full or faulted: what a teardown of its context ends. -/
def Queue.Open (x : Queue) : Prop := x.st = 1 ∨ x.st = 2 ∨ x.st = 3

/-- A teardown of context `c` comes to a queue. -/
def State.tearQueue (c : Nat) (s : State) (q : Nat × Queue) : State :=
  if q.2.ctx = c ∧ (q.2.st = 1 ∨ q.2.st = 2 ∨ q.2.st = 3) then
    (s.setQueue q.1 { q.2 with st := 4, pend := 0, inbox := [] }).post .queueTornDown { a := q.1 }
  else s
/-- A teardown of context `c` comes to a launch. -/
def State.tearLaunch (c : Nat) (s : State) (l : Nat × Launch) : State :=
  if l.2.ctx = c ∧ !l.2.started ∧ l.2.st ≤ 2 then s.cancelLaunch l.1 l.2 else s

section
variable {s : State} {c k : Nat}

theorem tearQueue_contexts (q : Nat × Queue) : (s.tearQueue c q).contexts = s.contexts := by
  unfold State.tearQueue
  split <;> rfl

theorem tearQueue_keeps_dead (q : Nat × Queue) (h : (s.queue k).Dead) : ((s.tearQueue c q).queue k).Dead := by
  unfold State.tearQueue
  split
  · change ((s.setQueue q.1 _).queue k).Dead
    rw [queue_setQueue]
    split
    · exact ⟨rfl, rfl, rfl⟩
    · exact h
  · exact h

theorem tearQueue_open {x : Queue} (hc : x.ctx = c) (ho : x.Open) : ((s.tearQueue c (k, x)).queue k).Dead := by
  rw [State.tearQueue, if_pos ⟨hc, ho⟩]
  change ((s.setQueue k _).queue k).Dead
  rw [queue_setQueue_self]
  exact ⟨rfl, rfl, rfl⟩

/-- Every open queue of the context ends dead. -/
theorem foldl_tearQueue_dead {x : Queue} (hc : x.ctx = c) (ho : x.Open) {qs : Tab Queue} (hx : tfind qs k = some x) :
    ∀ s : State, ((qs.foldl (State.tearQueue c) s).queue k).Dead := by
  induction qs with
  | nil => cases hx
  | cons q qs ih =>
    obtain ⟨j, y⟩ := q
    intro s
    rw [List.foldl_cons]
    rw [tfind] at hx
    split at hx
    next hj =>
      obtain rfl := hj
      obtain rfl : y = x := Option.some.inj hx
      exact List.foldlRecOn (motive := fun t : State => (t.queue j).Dead) qs _ (tearQueue_open hc ho) fun t ht q _ => tearQueue_keeps_dead q ht
    next => exact ih hx _

/-- A queue that is open is in the table. -/
theorem tfind_of_open (h : (s.queue k).Open) : tfind s.queues k = some (s.queue k) := by
  have hq : s.queue k = (tfind s.queues k).getD {} := tget_eq_tfind ..
  cases hf : tfind s.queues k with
  | none =>
    rw [hf] at hq
    rw [hq] at h
    rcases h with h | h | h <;> cases h
  | some x => rw [hq, hf]; rfl

theorem tearLaunch_hostTables (l : Nat × Launch) : (s.tearLaunch c l).hostTables = s.hostTables := by
  unfold State.tearLaunch
  split
  · exact cancelLaunch_hostTables ..
  · rfl

theorem ackTeardown_queues : (s.ackTeardown c).queues = s.queues := by
  unfold State.ackTeardown
  split <;> rfl

theorem ackTeardown_torn (h : (s.context c).torn = true) : ((s.ackTeardown c).context c).torn = true := by
  unfold State.ackTeardown
  split
  · rw [context_setContext_self]; exact h
  · exact h

/-- Context `c` is marked torn down, and its teardown has come to every queue. -/
def State.tearQueues (s : State) (c : Nat) : State := s.queues.foldl (State.tearQueue c) (s.setContext c { s.context c with torn := true })
/-- Context `c` torn down: its queues, then its launches, then the acknowledgement if no queue is left to give up. -/
def State.tornDown (s : State) (c : Nat) : State := ((s.tearQueues c).launches.foldl (State.tearLaunch c) (s.tearQueues c)).ackTeardown c

theorem tearQueues_context : (s.tearQueues c).context c = { s.context c with torn := true } := by
  have hq : (s.tearQueues c).contexts = (s.setContext c { s.context c with torn := true }).contexts :=
    foldl_keeps (·.contexts) (fun t q => tearQueue_contexts (s := t) (c := c) q) s.queues _
  rw [State.context, hq]
  exact context_setContext_self s c _

theorem tearLaunches_hostTables (ls : Tab Launch) : (ls.foldl (State.tearLaunch c) s).hostTables = s.hostTables :=
  foldl_keeps State.hostTables (fun t l => tearLaunch_hostTables (s := t) (c := c) l) ls s

theorem tornDown_torn : ((s.tornDown c).context c).torn = true := by
  obtain ⟨hcontexts, -⟩ := Prod.mk.inj (tearLaunches_hostTables (s := s.tearQueues c) (c := c) (s.tearQueues c).launches)
  refine ackTeardown_torn ?_
  rw [State.context, hcontexts]
  exact congrArg Context.torn tearQueues_context

theorem tornDown_dead (hc : (s.queue k).ctx = c) (ho : (s.queue k).Open) : ((s.tornDown c).queue k).Dead := by
  obtain ⟨-, hqueues⟩ := Prod.mk.inj (tearLaunches_hostTables (s := s.tearQueues c) (c := c) (s.tearQueues c).launches)
  rw [State.queue, State.tornDown, ackTeardown_queues, hqueues]
  exact foldl_tearQueue_dead hc ho (tfind_of_open ho) _
end

/-! ### The register that an event writes -/

section
variable {s : State} {c q : Nat}

/-- Bit 1, `bound`, of what the event's store carries. -/
def State.wroteBound (s : State) : Bool := bitAt (wroteBits (regAt s.arg.a).2 s.arg.data) 1

theorem argContext_eq (h : (regAt s.arg.a).1 = .context c) : s.argContext = c := by
  rw [State.argContext, h]

theorem argQueue_eq (h : (regAt s.arg.a).1 = .queue q) : s.argQueue = q := by
  rw [State.argQueue, h]

theorem argQueue_eq_doorbell (h : (regAt s.arg.a).1 = .doorbell q) : s.argQueue = q := by
  rw [State.argQueue, h]

/-! ### Contexts (R68, R94) -/

theorem contextBind_eq (h : (regAt s.arg.a).1 = .context c) : exec .contextBind s =
    .next ((s.setContext c { s.context c with bound := true, tdack := false, torn := false, urefused := false }).devDone s.arg.d) := by
  obtain rfl := argContext_eq h
  rfl

theorem unbind_eq (h : (regAt s.arg.a).1 = .context c) : exec .contextUnbind s =
    .next ((s.setContext c (if s.wroteBound || !(s.context c).bound then { s.context c with urefused := false }
      else if s.holdsNothing c then { s.context c with bound := false, urefused := false }
      else { s.context c with urefused := true })).devDone s.arg.d) := by
  obtain rfl := argContext_eq h
  rfl

theorem unbind_frees (h : (regAt s.arg.a).1 = .context c) (hone : s.wroteBound = false) (hb : (s.context c).bound = true)
    (hn : s.holdsNothing c = true) :
    exec .contextUnbind s = .next ((s.setContext c { s.context c with bound := false, urefused := false }).devDone s.arg.d) := by
  rw [unbind_eq h, if_neg (by simp [hone, hb]), if_pos hn]

theorem unbind_refused (h : (regAt s.arg.a).1 = .context c) (hone : s.wroteBound = false) (hb : (s.context c).bound = true)
    (hn : s.holdsNothing c = false) :
    exec .contextUnbind s = .next ((s.setContext c { s.context c with urefused := true }).devDone s.arg.d) := by
  rw [unbind_eq h, if_neg (by simp [hone, hb]), if_neg (by simp [hn])]

theorem unbind_clears (h : (regAt s.arg.a).1 = .context c) (hone : s.wroteBound = true ∨ (s.context c).bound = false) :
    exec .contextUnbind s = .next ((s.setContext c { s.context c with urefused := false }).devDone s.arg.d) := by
  rw [unbind_eq h, if_pos (by simpa using hone)]

theorem teardown_eq (h : (regAt s.arg.a).1 = .context c) :
    s.teardown = (s.tornDown c).post (if s.wroteBound && !((s.tornDown c).context c).bound then .contextBind else .contextUnbind) s.arg := by
  obtain rfl := argContext_eq h
  rfl

theorem teardown_spec (h : (regAt s.arg.a).1 = .context c) : ∃ t, exec .contextTeardown s = .next t ∧ (t.context c).torn = true ∧
    (∀ q, (s.queue q).ctx = c → (s.queue q).Open → (t.queue q).Dead) ∧
    ∃ i, (i = .contextBind ∨ i = .contextUnbind) ∧ ({ step := i, arg := s.arg } : Event) ∈ t.agenda :=
  ⟨_, congrArg Host.Outcome.next (teardown_eq h), tornDown_torn, fun _ => tornDown_dead,
    _, ite_eq_or_eq _ _ _, List.mem_append_right _ (List.mem_singleton_self _)⟩

/-! ### Queues (R69-R73) -/

/-- A queue that is off cannot be enabled so: its ring is too short, its place not in memory the hub reads it from, or its context torn down. -/
def State.badQueue (s : State) (x : Queue) : Bool :=
  decide (x.log2n < 4) || x.loc % 2 == 1 || (x.loc == 0 && !s.inHbm x.base (64 * 2 ^ x.log2n)) || (s.context x.ctx).torn

theorem enableQueue_off (h : (regAt s.arg.a).1 = .queue q) (hst : (s.queue q).st = 0) (hbad : s.badQueue (s.queue q) = false) :
    exec .queueEnable s = .next (((s.setQueue q { s.queue q with st := 1, head := 0, pend := 0, inbox := [] }).askFetch q).thenPop) := by
  obtain rfl := argQueue_eq h
  refine congrArg Host.Outcome.next ?_
  unfold State.badQueue at hbad
  simp only [State.enableQueue, hst, hbad, Bool.false_eq_true, if_false]

theorem enableQueue_full (h : (regAt s.arg.a).1 = .queue q) (hst : (s.queue q).st = 2) :
    exec .queueEnable s = .next (((s.setQueue q { s.queue q with st := 1, tail := (s.queue q).head }).askFetch q).thenPop) := by
  obtain rfl := argQueue_eq h
  refine congrArg Host.Outcome.next ?_
  simp only [State.enableQueue, hst]

theorem enableQueue_fault (h : (regAt s.arg.a).1 = .queue q) (hst : (s.queue q).st = 3) :
    exec .queueEnable s = .next (((s.setQueue q { s.queue q with st := 1 }).askFetch q).thenPop) := by
  obtain rfl := argQueue_eq h
  refine congrArg Host.Outcome.next ?_
  simp only [State.enableQueue, hst]

theorem disableQueue_open (h : (regAt s.arg.a).1 = .queue q) (ho : (s.queue q).Open) :
    exec .queueDisable s = .next ((s.setQueue q { s.queue q with st := 0 }).thenPop) := by
  obtain rfl := argQueue_eq h
  refine congrArg (fun t : State => Host.Outcome.next t.thenPop) (if_pos ?_)
  rcases ho with ho | ho | ho <;> simp [ho]

theorem queuePop_eq (h : (regAt s.arg.a).1 = .queue q) :
    exec .queuePop s =
      (let x := s.queue q
       let n := min (field (wroteBits (regAt s.arg.a).2 s.arg.data) 8 8) x.pend
       let gone := (List.range n).map (fun i => (x.head + 65536 - x.pend + i) % 8)
       .next (((s.setQueue q { x with pend := x.pend - n, inbox := x.inbox.filter (fun e => !gone.contains e.1) }).askFetch q).devDone s.arg.d)) := by
  obtain rfl := argQueue_eq h
  rfl

theorem doorbell_live (h : regAt s.arg.a = (.doorbell q, 0)) (hn : s.arg.data.length = 4) (hst : (s.queue q).st = 1) :
    exec .doorbellWrite s =
      (let x := s.queue q
       let v := leNat s.arg.data % 65536
       .next (((s.setQueue q { x with tail := v, st := if 2 ^ x.log2n < (v + 65536 - x.head) % 65536 then 2 else 1 }).askFetch q).devDone s.arg.d)) := by
  have hoff : ¬ ((regAt s.arg.a).2 ≠ 0 ∨ s.arg.data.length ≠ 4) := by simp [h, hn]
  obtain rfl := argQueue_eq_doorbell (congrArg Prod.fst h)
  refine congrArg Host.Outcome.next ?_
  simp only [State.doorbell, if_neg hoff, hst]
end

section
variable {s : State}

/-- The fetch of the entry at head of a live queue that is not in host memory. -/
theorem fetchEntry_device (hst : (s.queue s.arg.a).st = 1) (hne : (s.queue s.arg.a).head ≠ (s.queue s.arg.a).tail) (hp : (s.queue s.arg.a).pend < 8)
    (hf : (s.queue s.arg.a).fetching = false) (hg : (s.queue s.arg.a).paging = false) (hl : (s.queue s.arg.a).loc ≠ 2) :
    exec .queueEntryFetch s = .next ((s.setQueue s.arg.a { s.queue s.arg.a with fetching := true }).post .queueFetchComplete { a := s.arg.a }) := by
  refine congrArg Host.Outcome.next ?_
  unfold State.fetchEntry
  dsimp only
  rw [if_neg (by simp [hst, hne, hf, hg, hp]), if_neg hl]
  rfl

theorem landEntry_live (hf : (s.queue s.arg.a).fetching = true) (hst : (s.queue s.arg.a).st = 1) :
    exec .queueFetchComplete s =
      (let q := s.arg.a
       let x := s.queue q
       let place := x.base + 64 * (x.head % 2 ^ x.log2n)
       let e := leNat (s.bytes (if x.loc = 2 then hostKey (s.context x.ctx).pasid place else place) 64)
       .next (((s.setQueue q { x with
         fetching := false, pend := x.pend + 1, head := (x.head + 1) % 65536
         inbox := tput x.inbox (x.head % 8) (leBytes 64 (putField e 504 8 (if field e 128 384 = 0 then 0 else 1))) }).semAdd x.ssem 1).askFetch q)) :=
  congrArg Host.Outcome.next ((if_neg (by simp [hf])).trans (if_neg (not_not_intro hst)))

theorem pageDone_live (hg : (s.queue s.arg.a).paging = true) (hst : (s.queue s.arg.a).st = 1) :
    exec .pageRequestComplete s = .next (if s.coin.1 then s.coin.2.setQueue s.arg.a { s.queue s.arg.a with paging := false, st := 3 }
      else (s.coin.2.setQueue s.arg.a { s.queue s.arg.a with paging := false, fetching := true }).post .queueFetchComplete { a := s.arg.a }) :=
  congrArg Host.Outcome.next ((if_neg (by simp [hg])).trans (if_neg (not_not_intro hst)))

theorem queueGone_idle (hst : (s.queue s.arg.a).st = 4) (hf : (s.queue s.arg.a).fetching = false) (hg : (s.queue s.arg.a).paging = false) :
    exec .queueTornDown s = .next ((s.setQueue s.arg.a { s.queue s.arg.a with st := 5 }).ackTeardown (s.queue s.arg.a).ctx) :=
  congrArg Host.Outcome.next ((if_neg (not_not_intro hst)).trans (if_neg (by simp [hf, hg])))
end

end Sys2Proof.Machine

namespace Sys2Proof.Proofs
open Machine

/-- Settles O40: each event has its lemma above; a teardown is `teardown_spec`. -/
theorem contextsAndQueues : Obligations.ContextsAndQueues := by
  unfold Obligations.ContextsAndQueues
  refine ⟨fun s c h => ⟨contextBind_eq h, unbind_frees h, unbind_refused h, unbind_clears h, teardown_spec h⟩,
    fun s q h => ⟨fun hst hn hl hbase ht => enableQueue_off h hst ?ok, enableQueue_full h, enableQueue_fault h, disableQueue_open h, queuePop_eq h⟩,
    fun s q h hn => doorbell_live h hn,
    fun s => ⟨fetchEntry_device, landEntry_live, fun hg hst => ?page, queueGone_idle⟩⟩
  case ok =>
    have hplace : ((s.queue q).loc == 0 && !s.inHbm (s.queue q).base (64 * 2 ^ (s.queue q).log2n)) = false := by
      simpa using hbase
    simp [State.badQueue, hplace, hn, hl, ht]
  case page =>
    rw [pageDone_live hg hst]
    cases s.coin.1
    · exact .inr rfl
    · exact .inl rfl

end Sys2Proof.Proofs
end

section
/-! The claim checker's work (O41): its next check (R87) and a check's result (R85, R86, R95). -/
namespace Sys2Proof.Machine
open Laws

section
variable {s : State} {q : Request}

theorem exec_checkerNextCheck (hr : s.relocking s.arg.a = false) : exec .checkerNextCheck s = .next s.nextCheck :=
  congrArg Host.Outcome.next (if_neg (Bool.eq_false_iff.1 hr))

theorem exec_claimCheckResult (hr : s.relocking s.arg.a = false) : exec .claimCheckResult s = .next s.checkResult :=
  congrArg Host.Outcome.next (if_neg (Bool.eq_false_iff.1 hr))

/-- A check that begins is judged on the blocks, whatever the core's other work. -/
theorem beginCheck_setCore (u : Nat) (c : Core) (q : Request) :
    (s.setCore u c).beginCheck u q =
      ((s.setCore u c).setCore u { c with check := some (q, s.judge q.block (Res.of q.kind q.n)), released := false }).post .claimCheckResult { a := u } := by
  unfold State.beginCheck
  rw [core_setCore_self]
  rfl

theorem nextCheck_request {rest : List Request} (hc : (s.core s.arg.a).check = none) (hs : (s.core s.arg.a).scan = [])
    (hq : (s.core s.arg.a).requests = q :: rest) :
    s.nextCheck = (s.setCore s.arg.a { s.core s.arg.a with requests := rest }).beginCheck s.arg.a q := by
  simp only [State.nextCheck, hc, hs, hq, Option.isSome_none, Bool.false_eq_true, if_false]

theorem nextCheck_scan {id : Nat} {rest : List Nat} (hc : (s.core s.arg.a).check = none) (hs : (s.core s.arg.a).scan = id :: rest)
    (hq : (s.core s.arg.a).waiters.find? (fun w => w.id == id) = some q) :
    s.nextCheck = (s.setCore s.arg.a { s.core s.arg.a with scan := rest }).beginCheck s.arg.a q := by
  simp only [State.nextCheck, hc, hs, hq, Option.isSome_none, Bool.false_eq_true, if_false]

/-! ### A check's result -/

/-- The checker is free of its check, and looks for its next. -/
def State.endCheck (s : State) : State :=
  (s.setCore s.arg.a { s.core s.arg.a with check := none }).postOnce .checkerNextCheck { a := s.arg.a }
/-- The block of a request once its check has answered `r`. -/
def State.settledBlock (s : State) (q : Request) (r : Nat) : Block :=
  { s.block q.block with
    asked := (s.block q.block).asked.sub (Res.of q.kind q.n)
    held := if r = 0 then (s.block q.block).held.add (Res.of q.kind q.n) else (s.block q.block).held }

@[simp] theorem endCheck_core_self : s.endCheck.core s.arg.a = { s.core s.arg.a with check := none } := by
  rw [State.core, State.endCheck, postOnce_cores]
  exact core_setCore_self s _ _
@[simp] theorem endCheck_block (b : Nat) : s.endCheck.block b = s.block b := by
  rw [State.block, State.endCheck, postOnce_blocks]
  rfl

/-- The answer of a `.t` request is noted for its sub-group. -/
theorem checkResult_answer {r : Nat} (hc : (s.core s.arg.a).check = some (q, r)) (hid : q.id ≠ 0) (hs : q.slot = none) :
    s.checkResult = (s.endCheck.setBlock q.block (s.settledBlock q r)).setCore s.arg.a { s.core s.arg.a with
      check := none, answers := tput (s.core s.arg.a).answers (8 * q.group + q.entry) (r + 4 * q.kind + 16 * q.n) } := by
  have hcore := endCheck_core_self (s := s)
  have hblock := endCheck_block (s := s) q.block
  unfold State.endCheck at hcore hblock
  simp only [State.checkResult, hc, hid, if_false, hs, hcore, hblock]
  rfl

/-- A `.w` request that is refused waits. -/
theorem checkResult_waits {r j : Nat} (hc : (s.core s.arg.a).check = some (q, r)) (hid : q.id ≠ 0) (hs : q.slot = some j) (hr : r ≠ 0)
    (hw : ∀ w ∈ (s.core s.arg.a).waiters, w.id ≠ q.id) :
    s.checkResult = s.endCheck.setCore s.arg.a { s.core s.arg.a with
      check := none, waiters := (s.core s.arg.a).waiters ++ [q]
      scan := if (s.core s.arg.a).released then (s.core s.arg.a).scan ++ [q.id] else (s.core s.arg.a).scan } := by
  have hcore := endCheck_core_self (s := s)
  have hnot : (s.core s.arg.a).waiters.any (fun w => w.id == q.id) = false := by simpa using hw
  unfold State.endCheck at hcore
  simp only [State.checkResult, hc, hid, if_false, hs, hr, hcore, hnot, Bool.false_eq_true]
  rfl

/-- A `.w` request that is granted leaves the waiters, and its slot completes. -/
theorem checkResult_grants {j : Nat} (hc : (s.core s.arg.a).check = some (q, 0)) (hid : q.id ≠ 0) (hs : q.slot = some j) :
    s.checkResult = ((s.endCheck.setBlock q.block { s.block q.block with
        asked := (s.block q.block).asked.sub (Res.of q.kind q.n), held := (s.block q.block).held.add (Res.of q.kind q.n) }).setCore s.arg.a
      { s.core s.arg.a with check := none, waiters := (s.core s.arg.a).waiters.filter (fun w => w.id != q.id) }).grantSlot q j := by
  have hcore := endCheck_core_self (s := s)
  have hblock := endCheck_block (s := s) q.block
  unfold State.endCheck at hcore hblock
  simp only [State.checkResult, hc, hid, if_false, hs, hcore, hblock, if_true]
  rfl

theorem claimCheckResult_answer {r : Nat} (hr : s.relocking s.arg.a = false) (hc : (s.core s.arg.a).check = some (q, r)) (hid : q.id ≠ 0)
    (hs : q.slot = none) : ∃ t, exec .claimCheckResult s = .next t ∧ (t.core s.arg.a).check = none ∧
      tfind (t.core s.arg.a).answers (8 * q.group + q.entry) = some (r + 4 * q.kind + 16 * q.n) ∧
      (t.block q.block).held = (if r = 0 then (s.block q.block).held.add (Res.of q.kind q.n) else (s.block q.block).held) := by
  refine ⟨_, (exec_claimCheckResult hr).trans (congrArg _ (checkResult_answer hc hid hs)), ?_⟩
  rw [core_setCore_self, tfind_tput, if_pos rfl]
  exact ⟨rfl, rfl, congrArg Block.held (block_setBlock_self s.endCheck q.block (s.settledBlock q r))⟩

theorem claimCheckResult_waits {r j : Nat} (hr : s.relocking s.arg.a = false) (hc : (s.core s.arg.a).check = some (q, r)) (hid : q.id ≠ 0)
    (hs : q.slot = some j) (hn : r ≠ 0) (hw : ∀ w ∈ (s.core s.arg.a).waiters, w.id ≠ q.id) :
    ∃ t, exec .claimCheckResult s = .next t ∧ (t.core s.arg.a).waiters = (s.core s.arg.a).waiters ++ [q] ∧ (t.core s.arg.a).check = none ∧
      (t.core s.arg.a).scan = (if (s.core s.arg.a).released = true then (s.core s.arg.a).scan ++ [q.id] else (s.core s.arg.a).scan) ∧
      ∀ b, t.block b = s.block b := by
  refine ⟨_, (exec_claimCheckResult hr).trans (congrArg _ (checkResult_waits hc hid hs hn hw)), ?_⟩
  rw [core_setCore_self]
  exact ⟨rfl, rfl, rfl, endCheck_block⟩
end

end Sys2Proof.Machine
end

section
/-! Launches (O41): the decision of a submitted descriptor, its edges, kickoff, and the start of a control group. -/
namespace Sys2Proof.Machine
open Laws

/-! ### The decision of a launch (R65, R75) -/

/-- The state in which pending launch `p` is judged: `p` is pending no more. -/
def State.takePending (s : State) (p : PendingLaunch) : State := { s with pendingLaunches := s.pendingLaunches.filter (fun q => q.seq != p.seq) }

section
variable {s t : State} {p : PendingLaunch} {st : Nat}

theorem edgeReadResume_eq (h : s.pendingLaunches.find? (fun p => p.seq == s.arg.a) = some p) :
    exec .edgeReadResume s = .next (s.decideLaunch p true) := by
  refine congrArg Host.Outcome.next ?_
  dsimp only
  rw [h]

theorem decideLaunch_accept {rv : RegionVals} {e : List Byte} (h : (s.takePending p).judgeLaunch p = (.accept rv e, t)) :
    s.decideLaunch p true = t.acceptLaunch p rv e := by
  unfold State.takePending at h
  simp only [State.decideLaunch, h]

theorem decideLaunch_status (h : (s.takePending p).judgeLaunch p = (.status st, t)) :
    s.decideLaunch p true = (if st < 0x0C then t.refusedRecord p st else t).answerLaunch p 0 st := by
  unfold State.takePending at h
  simp only [State.decideLaunch, h]

theorem decideLaunch_wait (h : (s.takePending p).judgeLaunch p = (.wait, t)) :
    s.decideLaunch p true = { t with pendingLaunches := t.pendingLaunches ++ [p] } := by
  unfold State.takePending at h
  simp only [State.decideLaunch, h, if_true]
end

/-! ### Edges (R77), reservation (R78) and kickoff (R81) -/

section
variable {s : State} {l : Launch}

theorem launchOf_eq {n : Nat} (h : tfind s.launches n = some l) : s.launchOf n = l := by
  rw [State.launchOf, tget_eq_tfind, h]
  rfl

theorem edgesHold_eq (h : tfind s.launches s.arg.a = some l) (h1 : l.st = 1) (hin : l.edgesIn ≤ l.satisfied.length) :
    s.edgesHold = if l.total = 0 then (s.setLaunch l.num { l with st := 4 }).finishLaunch l.num
      else
        let t := (s.invalidateEdges l).setLaunch l.num { l with st := 2, age := s.time }
        { t with ready := t.ready ++ [l.num] }.postOnce .schedulerPass := by
  have hnot : ¬ (l.st ≠ 1 ∨ l.satisfied.length < l.edgesIn) := by omega
  unfold State.edgesHold
  rw [h]
  exact if_neg hnot

theorem reservationTimeout_eq (h : tfind s.launches s.arg.a = some l) (hp : l.passed = some s.arg.b) :
    exec .reservationTimeout s = .next (if s.time < s.arg.c then s.again .reservationTimeout
      else (s.setLaunch s.arg.a { l with reserving := true }).postOnce .schedulerPass) := by
  refine congrArg Host.Outcome.next ?_
  dsimp only
  rw [launchOf_eq h, if_neg (by simp [h, hp])]

/-- A cluster of the gang relocks. -/
def State.gangRelocks (s : State) (n : Nat) : Bool := s.blocks.any (fun b => b.2.present && b.2.launch == n && s.relocking (unitOfBlock b.1))

theorem gangRelocks_eq_false {n : Nat} (h : ∀ b ∈ s.blocks, b.2.present = true → b.2.launch = n → s.relocking (unitOfBlock b.1) = false) :
    s.gangRelocks n = false := by
  simpa [State.gangRelocks] using h

theorem kickoffFire_eq (h : tfind s.launches s.arg.a = some l) :
    exec .kickoffFire s = .next (if s.time < dsKickoff l.desc then s.again .kickoffFire
      else if s.gangRelocks s.arg.a then (s.setLaunch s.arg.a { l with flags := 1 }).again .kickoffFire
      else (if s.hub.sync then s else s.setLaunch s.arg.a { l with flags := 1 }).startGang s.arg.a) := by
  refine congrArg Host.Outcome.next ?_
  dsimp only
  rw [h]
  rfl
end

/-! ### Control groups (R131) -/

section
variable {s : State} {c g : Nat}

theorem groupStart_eq (h : (regAt s.arg.a).1 = .start c g) :
    exec .groupStart s =
      (let x := s.group (groupKey (12288 + c) g)
       let y := s.core (12288 + c)
       .next ((if x.present && !x.exited then s
         else s.startGroup c g (tget 0 y.startObj g) (tget 0 y.startEntry g) (tget 0 y.startArg g).toNat).devDone s.arg.d)) := by
  refine congrArg Host.Outcome.next ?_
  dsimp only
  rw [h]
end

end Sys2Proof.Machine
end

section
/-! The scheduler's pass (O41). Placing a block changes no launch, so a launch whose last block has been placed is done with. -/
namespace Sys2Proof.Machine
open Laws

/-! ### What placing a block leaves alone -/

section
variable (s : State)

theorem choose_launches (n : Nat) : (s.choose n).2.launches = s.launches := by
  unfold State.choose
  split <;> rfl

theorem dropLines_launches (key : Nat) (p : Line → Bool) : (s.dropLines key p).launches = s.launches := rfl
theorem withBlocks_launches (bs : Tab Block) : ({ s with blocks := bs } : State).launches = s.launches := rfl

theorem takeAny_launches (n : Nat) : ∀ (s : State) (free : List Nat), (s.takeAny n free).2.launches = s.launches := by
  induction n with
  | zero => exact fun _ _ => rfl
  | succ n ih => exact fun s free => (ih _ _).trans (choose_launches s free.length)

theorem openGranules_launches (u : Nat) (ps : List Nat) : (s.openGranules u ps).launches = s.launches :=
  foldl_keeps State.launches (fun _ _ => (zero_launches ..).trans (setCore_launches ..)) ps s

theorem assign_launches (b k kind n : Nat) (avoid : List Nat) : (s.assign b k kind n avoid).2.2.launches = s.launches := by
  unfold State.assign
  split
  · rfl
  · split
    · dsimp only
      split <;> simp only [setCore_launches, setGroup_launches, takeAny_launches]
    · exact (openGranules_launches ..).trans (setBlock_launches ..)
    · simp only [setCore_launches, setBlock_launches]

theorem landSpecial_launches (k e n : Nat) (x : W64) : (s.landSpecial k e n x).launches = s.launches := setGroup_launches ..

theorem land_launches (k e : Nat) (w : Wr) : (s.land k e w).launches = s.launches := by
  unfold State.land
  cases w
  case s | h | p => dsimp only; split <;> rfl
  case v => dsimp only; split_ifs <;> rfl
  case special => exact (landSpecial_launches ..).trans (setGroup_launches ..)
  case m | lfsr | flags | grantReg => exact setGroup_launches ..
  case grantSpm | grantMsl => exact setBlock_launches ..

theorem takeMark_launches (k e clause pc : Nat) (atHeader : Bool) : (s.takeMark k e clause pc atHeader).launches = s.launches := by
  unfold State.takeMark
  split
  · rfl
  · exact (setSub_launches ..).trans (fresh_launches s)

theorem grantEntry_launches (b k kind n : Nat) : (s.grantEntry b k kind n).launches = s.launches :=
  (foldl_keeps State.launches (fun _ _ => land_launches ..) _ _).trans (assign_launches ..)

theorem seat_launches (l : Launch) (u idx : Nat) (hold : Bool) : (s.seat l u idx hold).2.launches = s.launches := by
  unfold State.seat
  dsimp only
  rw [grantEntry_launches, grantEntry_launches, foldl_keeps State.launches, foldl_keeps State.launches, fresh_launches, setBlock_launches]
  case hf => exact fun _ _ => setGroup_launches ..
  case hf =>
    intro t p
    split
    · rw [takeMark_launches]
      split <;> simp only [setCore_launches, setGroup_launches, grantEntry_launches]
    · rfl
  split
  · rw [dropLines_launches, withBlocks_launches, takeAny_launches]
  · rw [withBlocks_launches, takeAny_launches]
end

section
variable {s t : State} {l : Launch} {idx : Nat} {hold : Bool} {bs : List Nat}

theorem placeOn_launches {us : List Nat} (h : s.placeOn l idx hold us = .ok t bs) : t.launches = s.launches := by
  induction us with
  | nil => cases h
  | cons u us ih =>
    unfold State.placeOn at h
    dsimp only at h
    split_ifs at h
    · cases h
      exact seat_launches ..
    · exact ih h

theorem placeMembers_launches {us : List Nat} :
    ∀ {s : State} {ms : List Nat}, s.placeMembers l idx hold us ms = .ok t bs → t.launches = s.launches := by
  induction us with
  | nil =>
    intro s ms h
    cases h
    exact foldl_keeps State.launches (fun _ _ => setBlock_launches ..) _ _
  | cons u us ih =>
    intro s ms h
    unfold State.placeMembers at h
    dsimp only at h
    split_ifs at h
    exact (ih h).trans (seat_launches ..)

theorem placeSet_launches {us ps : List Nat} (h : s.placeSet l idx hold us ps = .ok t bs) : t.launches = s.launches := by
  induction ps with
  | nil => cases h
  | cons p ps ih =>
    unfold State.placeSet at h
    dsimp only at h
    split_ifs at h
    · exact ih h
    · exact ih h
    · split at h
      · exact ih h
      · exact placeMembers_launches h

theorem placeNext_launches (h : s.placeNext l idx hold = .ok t bs) : t.launches = s.launches := by
  unfold State.placeNext at h
  dsimp only at h
  split_ifs at h
  · exact placeSet_launches h
  · exact placeOn_launches h
end

/-! ### One launch (R80) -/

section
variable {s t : State} {n fuel : Nat} {bs : List Nat}

theorem launchOf_admitted (next : Nat) : (s.admitted n next).launchOf n =
    { s.launchOf n with st := 3, next := next, passed := none, reserving := false, started := true } := by
  unfold State.admitted
  dsimp only
  split <;> exact launchOf_setLaunch_self s n _

theorem placeLaunch_done (h : (s.launchOf n).total ≤ (s.launchOf n).next) : s.placeLaunch n fuel = s := by
  cases fuel with
  | zero => rfl
  | succ fuel => exact if_pos (.inr h)

section
variable (hst : (s.launchOf n).st = 2) (hn : (s.launchOf n).next < (s.launchOf n).total)
include hst hn

theorem not_placed_out : ¬ ((s.launchOf n).st ≠ 2 ∧ (s.launchOf n).st ≠ 3 ∨ (s.launchOf n).total ≤ (s.launchOf n).next) := by
  omega

theorem placeLaunch_gang (hc : (s.launchOf n).pclass = 0) (h : s.placeGang (s.launchOf n) 4096 0 = .ok t bs) :
    s.placeLaunch n (fuel + 1) = (t.admitted n (s.launchOf n).total).gangReady n (s.launchOf n) := by
  rw [State.placeLaunch, if_neg (not_placed_out hst hn), if_pos hc, h]

theorem placeLaunch_gang_waits (hc : (s.launchOf n).pclass = 0) (h : s.placeGang (s.launchOf n) 4096 0 = .no) :
    s.placeLaunch n (fuel + 1) = s.passOver n (s.launchOf n) := by
  rw [State.placeLaunch, if_neg (not_placed_out hst hn), if_pos hc, h]

theorem placeLaunch_waits (hc : (s.launchOf n).pclass ≠ 0) (h : s.placeNext (s.launchOf n) (s.launchOf n).next false = .no) :
    s.placeLaunch n (fuel + 1) = s.passOver n (s.launchOf n) := by
  rw [State.placeLaunch, if_neg (not_placed_out hst hn), if_neg hc, h]

/-- The last block of a launch is placed. -/
theorem placeLaunch_last {b : Nat} (hc : (s.launchOf n).pclass ≠ 0) (h : s.placeNext (s.launchOf n) (s.launchOf n).next false = .ok t [b])
    (hlast : (s.launchOf n).next + 1 = (s.launchOf n).total) :
    s.placeLaunch n (fuel + 1) = t.admitted n (s.launchOf n).total := by
  have hsame : t.launchOf n = s.launchOf n := congrArg (fun ls => tget ({} : Launch) ls n) (placeNext_launches h)
  rw [State.placeLaunch, if_neg (not_placed_out hst hn), if_neg hc, h, ← hlast]
  refine placeLaunch_done ?_
  rw [launchOf_admitted, hsame]
  exact hlast.ge
end
end

/-! ### The pass (R78) -/

section
variable {s : State} {n : Nat}

/-- With no saved block queued, one ready launch is all that the pass considers. -/
theorem schedule_single (hf : s.frames = []) (hr : s.ready = [n]) (hp : (s.launchOf n).rv.prio < 16) :
    exec .schedulerPass s = .next (s.placeLaunch n 4096) := by
  have horder : s.readyOrder = [n] := by
    simp only [State.readyOrder, hr, List.filter_cons, List.filter_nil]
    generalize (s.launchOf n).rv.prio = v at hp
    interval_cases v <;> rfl
  have hbar : s.barred n [] = false := by simp [State.barred, hr]
  refine congrArg Host.Outcome.next ?_
  rw [State.schedule, hf]
  change s.considerAll s.readyOrder [] = _
  rw [horder, State.considerAll, hbar]
  rfl
end

end Sys2Proof.Machine

namespace Sys2Proof.Proofs
open Machine

/-- Settles O41: each event has its lemma above; the pass over one ready launch is `schedule_single` and the lemmas about `placeLaunch`. -/
theorem checkerWorkAndLaunching : Obligations.CheckerWorkAndLaunching := by
  unfold Obligations.CheckerWorkAndLaunching
  refine ⟨fun s hr => ⟨?request, ?scan, fun _ _ => claimCheckResult_answer hr, fun _ _ _ => claimCheckResult_waits hr, ?grants⟩,
    fun s p h => ?decision, fun s l h => ⟨?hold, ?empty, ?reserve, ?early, ?start, ?notYet⟩,
    fun s n hf hready => ?pass, fun s c g h => ⟨?present, ?starts⟩⟩
  case request =>
    intro q rest hc hs hq
    rw [exec_checkerNextCheck hr, nextCheck_request hc hs hq, beginCheck_setCore]
  case scan =>
    intro id rest q hc hs hq
    rw [exec_checkerNextCheck hr, nextCheck_scan hc hs hq, beginCheck_setCore]
  case grants => exact fun q j hc hid hs => ⟨_, (exec_claimCheckResult hr).trans (congrArg _ (checkResult_grants hc hid hs)), rfl⟩
  case decision =>
    refine ⟨fun rv e hj => ?_, fun st hj hst => ?_, fun st hj hst => ?_, fun hj => ?_⟩ <;> rw [edgeReadResume_eq h]
    · rw [decideLaunch_accept (Prod.ext hj rfl)]; rfl
    · rw [decideLaunch_status (Prod.ext hj rfl), if_neg (Nat.not_lt.2 hst)]; rfl
    · rw [decideLaunch_status (Prod.ext hj rfl), if_pos hst]; rfl
    · rw [decideLaunch_wait (Prod.ext hj rfl)]; rfl
  case hold => exact fun h1 hin ht => congrArg Host.Outcome.next ((edgesHold_eq h h1 hin).trans (if_neg ht))
  case empty => exact fun h1 hin ht => congrArg Host.Outcome.next ((edgesHold_eq h h1 hin).trans (if_pos ht))
  case reserve => intro hp ht; rw [reservationTimeout_eq h hp, if_neg (Nat.not_lt.2 ht)]
  case early => intro hp ht; rw [reservationTimeout_eq h hp, if_pos ht]
  case start =>
    intro ht hblocks hsync
    rw [kickoffFire_eq h, if_neg (Nat.not_lt.2 ht), gangRelocks_eq_false hblocks, hsync]
    rfl
  case notYet => intro ht; rw [kickoffFire_eq h, if_pos ht]
  case pass =>
    intro l hp hst hn
    rw [schedule_single hf hready hp]
    exact ⟨fun hc t bs hg => congrArg _ (placeLaunch_gang hst hn hc hg), fun hc hg => congrArg _ (placeLaunch_gang_waits hst hn hc hg),
      fun hc hg => congrArg _ (placeLaunch_waits hst hn hc hg), fun hc t b hg hlast => congrArg _ (placeLaunch_last hst hn hc hg hlast)⟩
  case present =>
    intro hpresent hexited
    rw [groupStart_eq h]
    simp [hpresent, hexited]
  case starts =>
    intro hfree
    rw [groupStart_eq h]
    dsimp only
    rw [if_neg (by rcases hfree with hx | hx <;> simp [hx])]

end Sys2Proof.Proofs
end

section
/-! Words and their fields (O53-O55): what each form's fields are in a word and back (R101-R106, R296), and the row of the opcode map that decodes a
word (R112-R116). -/
namespace Sys2Proof
open Machine BitVec

/-! ### A word and the fields of its form (R101-R106) -/

theorem opcode_append {v : Nat} (hi : BitVec v) (op : BitVec 9) : (hi ++ op).toNat % 512 = op.toNat := by
  have h : extractLsb' 0 9 (hi ++ op) = op := extractLsb'_append_eq_right
  simpa using congrArg BitVec.toNat h

theorem opcode_append_ofNat {v n : Nat} (hi : BitVec v) (hn : n < 512) : (hi ++ BitVec.ofNat 9 n).toNat % 512 = n :=
  (opcode_append hi _).trans (Nat.mod_eq_of_lt hn)

theorem extractLsb'_opcode {w : W64} {op : BitVec 9} (h : w.toNat % 512 = op.toNat) : extractLsb' 0 9 w = op :=
  BitVec.eq_of_toNat_eq (by simpa using h)

theorem TForm.ofWord_word (f : TForm) (op : BitVec 9) : TForm.ofWord (f.word op) = f := by
  simp (disch := decide) only [TForm.ofWord, TForm.word, Common.ofWord, extractLsb'_append_eq_of_le, extractLsb'_append_eq_of_add_le]
  simp only [Nat.reduceSub, extractLsb'_eq_self]
theorem IForm.ofWord_word (f : IForm) (op : BitVec 9) : IForm.ofWord (f.word op) = f := by
  simp (disch := decide) only [IForm.ofWord, IForm.word, Common.ofWord, extractLsb'_append_eq_of_le, extractLsb'_append_eq_of_add_le]
  simp only [Nat.reduceSub, extractLsb'_eq_self]
theorem BForm.ofWord_word (f : BForm) (op : BitVec 9) : BForm.ofWord (f.word op) = f := by
  simp (disch := decide) only [BForm.ofWord, BForm.word, Common.ofWord, extractLsb'_append_eq_of_le, extractLsb'_append_eq_of_add_le]
  simp only [Nat.reduceSub, extractLsb'_eq_self]
theorem MForm.ofWord_word (f : MForm) (op : BitVec 9) : MForm.ofWord (f.word op) = f := by
  simp (disch := decide) only [MForm.ofWord, MForm.word, Common.ofWord, extractLsb'_append_eq_of_le, extractLsb'_append_eq_of_add_le]
  simp only [Nat.reduceSub, extractLsb'_eq_self]
theorem XForm.ofWord_word (f : XForm) (op : BitVec 9) : XForm.ofWord (f.word op) = f := by
  simp (disch := decide) only [XForm.ofWord, XForm.word, Common.ofWord, extractLsb'_append_eq_of_le, extractLsb'_append_eq_of_add_le]
  simp only [Nat.reduceSub, extractLsb'_eq_self]

section
variable {w : W64} {op : BitVec 9}

@[simp] theorem TForm.word_ofWord (h : w.toNat % 512 = op.toNat) : (TForm.ofWord w).word op = w := by
  rw [← extractLsb'_opcode h]
  simp (disch := decide) only [TForm.ofWord, TForm.word, Common.ofWord, extractLsb'_append_extractLsb'_eq_extractLsb']
  exact extractLsb'_eq_self
@[simp] theorem IForm.word_ofWord (h : w.toNat % 512 = op.toNat) : (IForm.ofWord w).word op = w := by
  rw [← extractLsb'_opcode h]
  simp (disch := decide) only [IForm.ofWord, IForm.word, Common.ofWord, extractLsb'_append_extractLsb'_eq_extractLsb']
  exact extractLsb'_eq_self
@[simp] theorem BForm.word_ofWord (h : w.toNat % 512 = op.toNat) : (BForm.ofWord w).word op = w := by
  rw [← extractLsb'_opcode h]
  simp (disch := decide) only [BForm.ofWord, BForm.word, Common.ofWord, extractLsb'_append_extractLsb'_eq_extractLsb']
  exact extractLsb'_eq_self
@[simp] theorem MForm.word_ofWord (h : w.toNat % 512 = op.toNat) : (MForm.ofWord w).word op = w := by
  rw [← extractLsb'_opcode h]
  simp (disch := decide) only [MForm.ofWord, MForm.word, Common.ofWord, extractLsb'_append_extractLsb'_eq_extractLsb']
  exact extractLsb'_eq_self
@[simp] theorem XForm.word_ofWord (h : w.toNat % 512 = op.toNat) : (XForm.ofWord w).word op = w := by
  rw [← extractLsb'_opcode h]
  simp (disch := decide) only [XForm.ofWord, XForm.word, Common.ofWord, extractLsb'_append_extractLsb'_eq_extractLsb']
  exact extractLsb'_eq_self
end

/-! ### Microinstructions (R296) -/

theorem decodeMu_muWord (op : BitVec 6) (m : MuWord) : decodeMu (muWord op m) = decMu op.toNat m := by
  have hop : (muWord op m).toNat / 2 ^ 58 = op.toNat := by
    have h : extractLsb' 58 6 (op ++ m) = op := extractLsb'_append_eq_left
    have := congrArg BitVec.toNat h
    rw [extractLsb'_toNat, Nat.shiftRight_eq_div_pow] at this
    have hw := (muWord op m).isLt
    rw [← this, Nat.mod_eq_of_lt (by rw [muWord] at hw; omega)]; rfl
  rw [decodeMu, hop]
  exact congrArg _ extractLsb'_append_eq_right

theorem muWord_extract {w : W64} {op : BitVec 6} (h : w.toNat / 2 ^ 58 = op.toNat) : muWord op (w.extractLsb' 0 58) = w := by
  have hop : op = extractLsb' 58 6 w := by
    apply BitVec.eq_of_toNat_eq
    rw [extractLsb'_toNat, Nat.shiftRight_eq_div_pow, h, Nat.mod_eq_of_lt op.isLt]
  rw [hop]
  exact extractLsb'_append_extractLsb'_eq_extractLsb' (w := 64) (by decide) |>.trans extractLsb'_eq_self

/-! ### The rows of the opcode map (R112-R116) -/

section
variable {w : W64} {k : Nat}

theorem decodeWord_pair (h : w.toNat % 512 = k) (hk : k < 0x2C) : decodeWord w = decPair (k / 2) (.t (k % 2 == 1) (.ofWord w)) := by
  simp only [decodeWord, h, if_pos hk]
theorem decodeWord_imm32 (h : w.toNat % 512 = k + 0x02C) (hk : k < 16) : decodeWord w = decImm32 k (.i false (.ofWord w)) := by
  simp (disch := omega) only [decodeWord, h, if_neg, if_pos, Nat.add_sub_cancel]
theorem decodeWord_imm64 (h : w.toNat % 512 = k + 0x03C) (hk : k < 8) : decodeWord w = decImm64 k (.i true (.ofWord w)) := by
  simp (disch := omega) only [decodeWord, h, if_neg, if_pos, Nat.add_sub_cancel]
theorem decodeWord_scalar (h : w.toNat % 512 = k + 0x044) (hk : k < 60) : decodeWord w = decScalar k w := by
  simp (disch := omega) only [decodeWord, h, if_neg, if_pos, Nat.add_sub_cancel]
theorem decodeWord_vecPair (h : w.toNat % 512 = k + 0x080) (hk : k < 46) : decodeWord w = decVecPair (k / 2) (k % 2 == 1) (.ofWord w) := by
  have parity : (k + 0x080) % 2 = k % 2 := by omega
  simp (disch := omega) only [decodeWord, h, if_neg, if_pos, Nat.add_sub_cancel, parity]
theorem decodeWord_vecF (h : w.toNat % 512 = k + 0x0AE) (hk : k < 36) : decodeWord w = decVecF (k / 4) (fvarAt (k % 4)) (.ofWord w) := by
  simp (disch := omega) only [decodeWord, h, if_neg, if_pos, Nat.add_sub_cancel]
theorem decodeWord_vecFun (h : w.toNat % 512 = k + 0x0D2) (hk : k < 18) : decodeWord w = decVecFun k (.ofWord w) := by
  simp (disch := omega) only [decodeWord, h, if_neg, if_pos, Nat.add_sub_cancel]
theorem decodeWord_vcvt (h : w.toNat % 512 = k + 0x0E4) (hk : k < 34) : decodeWord w = some (.vcvt (cvtDstAt (k / 2)) (k % 2 == 1) (.ofWord w)) := by
  have parity : (k + 0x0E4) % 2 = k % 2 := by omega
  simp (disch := omega) only [decodeWord, h, if_neg, if_pos, Nat.add_sub_cancel, parity]
theorem decodeWord_vecMove (h : w.toNat % 512 = k + 0x106) (hk : k < 28) : decodeWord w = decVecMove k (.ofWord w) := by
  simp (disch := omega) only [decodeWord, h, if_neg, if_pos, Nat.add_sub_cancel]
theorem decodeWord_vred (h : w.toNat % 512 = k + 0x122) (hk : k < 13) : decodeWord w = some (.vred (redOpAt k) (.ofWord w)) := by
  simp (disch := omega) only [decodeWord, h, if_neg, if_pos, Nat.add_sub_cancel]
theorem decodeWord_vscan (h : w.toNat % 512 = k + 0x12F) (hk : k < 13) : decodeWord w = some (.vscan (redOpAt k) (.ofWord w)) := by
  simp (disch := omega) only [decodeWord, h, if_neg, if_pos, Nat.add_sub_cancel]
theorem decodeWord_vecEnd (h : w.toNat % 512 = k + 0x13C) (hk : k < 4) : decodeWord w = decVecEnd k (.ofWord w) := by
  simp (disch := omega) only [decodeWord, h, if_neg, if_pos, Nat.add_sub_cancel]
theorem decodeWord_mem (h : w.toNat % 512 = k + 0x140) (hk : k < 64) : decodeWord w = decMem k w := by
  simp (disch := omega) only [decodeWord, h, if_neg, if_pos, Nat.add_sub_cancel]
theorem decodeWord_matrix (h : w.toNat % 512 = k + 0x180) (hk : k < 32) : decodeWord w = decMatrix k w := by
  simp (disch := omega) only [decodeWord, h, if_neg, if_pos, Nat.add_sub_cancel]
theorem decodeWord_system (h : w.toNat % 512 = k + 0x1A0) (hk : k < 34) : decodeWord w = decSystem k w := by
  simp (disch := omega) only [decodeWord, h, if_neg, if_pos, Nat.add_sub_cancel]
theorem decodeWord_hintX (h : w.toNat % 512 = k + 0x1C2) (hk : k < 30) : decodeWord w = some (.hintX ⟨k, hk⟩ (.ofWord w)) := by
  simp (disch := omega) only [decodeWord, h, if_neg, dif_pos, Nat.add_sub_cancel, Nat.mod_eq_of_lt]
theorem decodeWord_reserved (h : 0x1E0 ≤ w.toNat % 512) : decodeWord w = none := by
  simp (disch := omega) only [decodeWord, if_neg, dif_neg]
end

end Sys2Proof
end

section
/-! Decoding the encoding of an instruction gives it back (O53): constructor by constructor, through the row of its opcode. -/
namespace Sys2Proof
open Machine

section
variable {n : Nat}

/-- A word that holds form `f` at opcode `n` decodes to what the opcode's row makes of `f`. -/
theorem decodeWord_of_fields {F : Type} {ofWord : W64 → F} {f : F} {mk : F → Instr} {w : W64} (ho : w.toNat % 512 = n) (hf : ofWord w = f)
    (h : ∀ w, w.toNat % 512 = n → ofWord w = f → decodeWord w = some (mk (ofWord w))) : decodeWord w = some (mk f) := by
  rw [h w ho hf, hf]
theorem TForm.decode_word (f : TForm) {mk : TForm → Instr}
    (h : ∀ w, w.toNat % 512 = n → TForm.ofWord w = f → decodeWord w = some (mk (.ofWord w))) (hn : n < 512 := by decide) :
    decodeWord (f.word (BitVec.ofNat 9 n)) = some (mk f) :=
  decodeWord_of_fields (opcode_append_ofNat _ hn) (f.ofWord_word _) h
theorem IForm.decode_word (f : IForm) {mk : IForm → Instr}
    (h : ∀ w, w.toNat % 512 = n → IForm.ofWord w = f → decodeWord w = some (mk (.ofWord w))) (hn : n < 512 := by decide) :
    decodeWord (f.word (BitVec.ofNat 9 n)) = some (mk f) :=
  decodeWord_of_fields (opcode_append_ofNat _ hn) (f.ofWord_word _) h
theorem BForm.decode_word (f : BForm) {mk : BForm → Instr}
    (h : ∀ w, w.toNat % 512 = n → BForm.ofWord w = f → decodeWord w = some (mk (.ofWord w))) (hn : n < 512 := by decide) :
    decodeWord (f.word (BitVec.ofNat 9 n)) = some (mk f) :=
  decodeWord_of_fields (opcode_append_ofNat _ hn) (f.ofWord_word _) h
theorem MForm.decode_word (f : MForm) {mk : MForm → Instr}
    (h : ∀ w, w.toNat % 512 = n → MForm.ofWord w = f → decodeWord w = some (mk (.ofWord w))) (hn : n < 512 := by decide) :
    decodeWord (f.word (BitVec.ofNat 9 n)) = some (mk f) :=
  decodeWord_of_fields (opcode_append_ofNat _ hn) (f.ofWord_word _) h
theorem XForm.decode_word (f : XForm) {mk : XForm → Instr}
    (h : ∀ w, w.toNat % 512 = n → XForm.ofWord w = f → decodeWord w = some (mk (.ofWord w))) (hn : n < 512 := by decide) :
    decodeWord (f.word (BitVec.ofNat 9 n)) = some (mk f) :=
  decodeWord_of_fields (opcode_append_ofNat _ hn) (f.ofWord_word _) h
end

/-- A scalar integer instruction, in each form and width that it has (R112). -/
theorem AluForm.decode_enc (o : AluForm) {mk : AluForm → Instr} {t i32 i64 : Nat} {e32 e64 : Bool}
    (hT : ∀ b w, w.toNat % 512 = t + b.toNat → decodeWord w = some (mk (.t b (.ofWord w))))
    (h32 : e32 = true → ∀ w, w.toNat % 512 = i32 → decodeWord w = some (mk (.i false (.ofWord w))))
    (h64 : e64 = true → ∀ w, w.toNat % 512 = i64 → decodeWord w = some (mk (.i true (.ofWord w))))
    (ho : o.exists e32 e64 = true) (ht : t < 511 := by decide) (hi32 : i32 < 512 := by decide) (hi64 : i64 < 512 := by decide) :
    decodeWord (o.enc (BitVec.ofNat 9 t) (BitVec.ofNat 9 i32) (BitVec.ofNat 9 i64)) = some (mk o) := by
  match o with
  | .t false f => exact f.decode_word (mk := fun f => mk (.t false f)) (fun w h _ => hT false w h) (by omega)
  | .t true f =>
    change decodeWord (f.word (BitVec.ofNat 9 t + 1)) = _
    rw [show BitVec.ofNat 9 t + 1 = BitVec.ofNat 9 (t + 1) from (BitVec.ofNat_add t 1).symm]
    exact f.decode_word (mk := fun f => mk (.t true f)) (fun w h _ => hT true w h) (by omega)
  | .i false f => exact f.decode_word (mk := fun f => mk (.i false f)) (fun w h _ => h32 ho w h) hi32
  | .i true f => exact f.decode_word (mk := fun f => mk (.i true f)) (fun w h _ => h64 ho w h) hi64

theorem isSome_encode (i : Instr) : (encode i).isSome = ((guardingOf i).isSome || isMicro i) := by
  cases i with
  | smovi k f | vrcp k f | vsqrt k f | vpack k f | vunpack k f | vmxq k f | vmxd k f | rset k f | rget k f | ldG k f | stG k f | ldwG k f
  | stwG k f | ldGs k f | stGs k f | ldL k f | stL k f | ldP k f | stP k f | vrsqrt k f | vexp2 k f | vlog2 k f | vsin k f | vcos k f
  | vfdot2 k f | vperm k f | vxshf k f | vrot k f | vbcl k f | vcompress k f | vexpand k f => cases k <;> rfl
  | pmov o | semSig o => cases o <;> rfl
  | _ => rfl

theorem decodeWord_encode {i : Instr} {w : W64} (hwf : i.wf = true) (hmu : isMicro i = false) (h : encode i = some w) :
    decodeWord w = some i := by
  cases i with
  | sadd o | ssub o | sand o | sor o | sxor o | sshl o | sshr o | ssra o =>
    cases h
    exact o.decode_enc (e32 := true) (e64 := true) (by rintro (_ | _) _ h <;> exact decodeWord_pair h (by decide))
      (fun _ _ h => decodeWord_imm32 h (by decide)) (fun _ _ h => decodeWord_imm64 h (by decide))
      (by simpa [Instr.wf, Instr.illFormed] using hwf)
  | smul o | smulh o | sdiv o | srem o | sandn o | smin o | smax o | scmp o =>
    cases h
    exact o.decode_enc (e32 := true) (e64 := false) (by rintro (_ | _) _ h <;> exact decodeWord_pair h (by decide))
      (fun _ _ h => decodeWord_imm32 h (by decide)) nofun (by simpa [Instr.wf, Instr.illFormed] using hwf)
  | sbfx o | sbfi o =>
    cases h
    exact o.decode_enc (e32 := true) (e64 := false) (by rintro (_ | _) _ h <;> exact decodeWord_pair h (by decide))
      (fun _ _ h => decodeWord_scalar h (by decide)) nofun (by simpa [Instr.wf, Instr.illFormed] using hwf)
  | sclz o | spop o | ssel o | smov o =>
    cases h
    exact o.decode_enc (e32 := false) (e64 := false) (by rintro (_ | _) _ h <;> exact decodeWord_pair h (by decide)) nofun nofun
      (by simpa [Instr.wf, Instr.illFormed] using hwf)
  | smoviHi f | br f | bl f | jr f | jl f | split f | fuse f | exit f | yield f | nop f | swait f | trap f | brk f | pand f | por f | pxor f
  | pandn f | pnot f | pfroms f | ptos f | pany f | pall f | ppop f | acqRegW f | acqRegT f | acqSpmW f | acqSpmT f | acqMslW f | acqMslT f
  | relReg f | relSpm f | relMsl f | rwake f | rsleep f | spdrop f | launch f | lquery f | objmapEnt f | objmapExt f | objmapMv f | objinv f
  | objinvCtx f | semmap f | semmapQ f | hmint f =>
    cases h
    exact f.decode_word fun _ h _ => decodeWord_scalar h (by decide)
  | smovi k f | bz k f | bnz k f | sget k f | sset k f =>
    cases k <;> cases h <;> exact f.decode_word fun _ h _ => decodeWord_scalar h (by decide)
  | pmov o =>
    cases o with
    | t f => cases h; exact f.decode_word (mk := fun f => .pmov (.t f)) fun _ h _ => decodeWord_scalar h (by decide)
    | i f => cases h; exact f.decode_word (mk := fun f => .pmov (.i f)) fun _ h _ => decodeWord_scalar h (by decide)
  | vadd b f | vsub b f | vmul b f | vmulh b f | vmad b f | vand b f | vor b f | vxor b f | vandn b f | vshl b f | vshr b f | vsra b f | vmin b f
  | vmax b f | vabs b f | vclz b f | vpop b f | vbfx b f | vbfi b f | vsel b f | vmov b f | vcmp b f =>
    cases b <;> cases h <;> exact f.decode_word fun _ h _ => decodeWord_vecPair h (by decide)
  | vmovs b f | vmovsGet b f =>
    cases b <;> cases h <;> refine f.decode_word fun w h hw => (decodeWord_vecPair h (by decide)).trans ?_
    all_goals simpa [Instr.wf, Instr.illFormed, decVecPair, hw] using hwf
  | vfadd t f | vfsub t f | vfmul t f | vfma t f | vfmin t f | vfmax t f | vfrnd t f | vfclass t f | vfcmp t f =>
    cases t <;> cases h <;> exact f.decode_word fun _ h _ => decodeWord_vecF h (by decide)
  | vrcp k f | vrsqrt k f | vsqrt k f | vexp2 k f | vlog2 k f | vsin k f | vcos k f | vfdot2 k f =>
    cases k <;> cases h <;> exact f.decode_word fun _ h _ => decodeWord_vecFun h (by decide)
  | vcvt d b f => cases d <;> cases b <;> cases h <;> exact f.decode_word fun _ h _ => decodeWord_vcvt h (by decide)
  | vpack k f | vunpack k f | vmxq k f | vmxd k f | vperm k f | vxshf k f | vrot k f | vbcl k f =>
    cases k <;> cases h <;> exact f.decode_word fun _ h _ => decodeWord_vecMove h (by decide)
  | vred o f => cases o <;> cases h <;> exact f.decode_word fun _ h _ => decodeWord_vred h (by decide)
  | vscan o f => cases o <;> cases h <;> exact f.decode_word fun _ h _ => decodeWord_vscan h (by decide)
  | vcompress b f | vexpand b f => cases b <;> cases h <;> exact f.decode_word fun _ h _ => decodeWord_vecEnd h (by decide)
  | fence f | qsync f | cpGo f | cclean f | ccleanAll f | cinval f | cinvalAll f | pf f | pfRo f | hderive f | hrestrict f | hget f | hld f
  | hst f | hmov f | hvalid f =>
    cases h
    exact f.decode_word fun _ h _ => decodeWord_mem h (by decide)
  | ldG k f | stG k f | ldwG k f | stwG k f | ldGs k f | stGs k f | ldL k f | stL k f | ldC k f | stC k f | ldP k f | stP k f | ldAcq k f
  | stRel k f => cases k <;> cases h <;> exact f.decode_word fun _ h _ => decodeWord_mem h (by decide)
  | msetI f | mcall f | mcallR f | mstat f | mstatR f | rpushW f | rpushT f | rpopW f | rpopT f | mspillL f | mspillG f | mfillL f | mfillG f
  | mclr f | mclrAll f | mloadRt f | mloadCode f | mloadQ f =>
    cases h
    exact f.decode_word fun _ h _ => decodeWord_matrix h (by decide)
  | mset k f | mget k f | rset k f | rget k f =>
    cases k <;> cases h <;> exact f.decode_word fun _ h _ => decodeWord_matrix h (by decide)
  | binit f | bjoin f | bleave f | barr f | bdrop f | bexp f | bwait f | bpoll f | atomG f | atomL f | redG f | redL f | semPoll f | semBind f
  | fst f | fld f | fred f | ffence f | ffenceF f | fsig f | tret f | tretN f | tesc f | cpreempt f | cquery f | cqueryU f | hintPf f
  | hintBank f =>
    cases h
    exact f.decode_word fun _ h _ => decodeWord_system h (by decide)
  | semSig o =>
    cases o with
    | x f => cases h; exact f.decode_word (mk := fun f => .semSig (.x f)) fun _ h _ => decodeWord_system h (by decide)
    | i f => cases h; exact f.decode_word (mk := fun f => .semSig (.i f)) fun _ h _ => decodeWord_system h (by decide)
  | ffadd b f => cases b <;> cases h <;> exact f.decode_word fun _ h _ => decodeWord_system h (by decide)
  | cresume f | cresumeEsc f =>
    cases h
    refine f.decode_word fun w h hw => (decodeWord_system h (by decide)).trans ?_
    simpa [Instr.wf, Instr.illFormed, decSystem, hw] using hwf
  | cterm f | ctermL f =>
    cases h
    refine f.decode_word fun w h hw => (decodeWord_system h (by decide)).trans ?_
    simpa [Instr.wf, Instr.illFormed, decSystem, hw] using hwf
  | hintX op f => fin_cases op <;> cases h <;> exact f.decode_word fun _ h _ => decodeWord_hintX h (by decide)
  | muFeed | muStep | muAcc | muSparse | muScale | muDrain | muClear | muPop | muLoop | muSig | muYield | muEnd => cases hmu
  | _ => cases h

theorem decodeMu_encode {i : Instr} {w : W64} (hmu : isMicro i = true) (h : encode i = some w) : decodeMu w = some i := by
  cases i with
  | muFeed m | muStep m | muAcc m | muSparse m | muScale m | muDrain m | muClear m | muPop m | muLoop m | muSig m | muYield m | muEnd m =>
    cases h
    exact decodeMu_muWord _ m
  | _ => cases hmu

end Sys2Proof

namespace Sys2Proof.Proofs
open Machine

/-- Settles O53: a word has an encoding exactly where it is of the opcode map or a microinstruction, and the row that holds the encoding's opcode
reads its form's fields back. -/
theorem encodingRoundTrip : Obligations.EncodingRoundTrip := by
  unfold Obligations.EncodingRoundTrip
  intro i hwf
  refine ⟨fun w hw => ?_, fun h => ?_, fun hg hm => ?_⟩
  · split
    · next hm => exact decodeMu_encode hm hw
    · next hm => exact decodeWord_encode hwf (Bool.eq_false_iff.2 hm) hw
  · rwa [isSome_encode, Bool.or_eq_true]
  · rw [← Option.isNone_iff_eq_none, ← Option.not_isSome, isSome_encode, hg, hm]
    rfl

end Sys2Proof.Proofs
end

section
/-! A word is the encoding of what it decodes to (O54), row by row of the opcode map; words written out by their fields (O55). -/
namespace Sys2Proof
open Machine

/-- What an opcode decodes to: a well-formed instruction word whose encoding `w` is. -/
def DecodesFrom (w : W64) (o : Option Instr) : Prop := ∃ i, o = some i ∧ i.wf = true ∧ isMicro i = false ∧ encode i = some w

theorem cvtDstAt_index : ∀ k < 17, (cvtDstAt k).index = k := by decide
theorem redOpAt_index : ∀ k < 13, (redOpAt k).index = k := by decide
theorem fvarAt_index : ∀ k < 4, (fvarAt k).index = k := by decide
/-- The second of a pair of opcodes is the odd one. -/
theorem toNat_odd (n : Nat) : (n % 2 == 1).toNat = n % 2 := by
  rcases Nat.mod_two_eq_zero_or_one n with h | h <;> simp [h]

section
variable {w : W64} {k : Nat} {b : Bool}

theorem decPair_decodes (hk : k < 22) (h : w.toNat % 512 = 2 * k + b.toNat) : DecodesFrom w (decPair k (.t b (.ofWord w))) := by
  cases b <;> interval_cases k <;> exact ⟨_, rfl, rfl, rfl, congrArg some (TForm.word_ofWord h)⟩
theorem decImm32_decodes (hk : k < 16) (h : w.toNat % 512 = k + 0x2C) : DecodesFrom w (decImm32 k (.i false (.ofWord w))) := by
  interval_cases k <;> exact ⟨_, rfl, rfl, rfl, congrArg some (IForm.word_ofWord h)⟩
theorem decImm64_decodes (hk : k < 8) (h : w.toNat % 512 = k + 0x3C) : DecodesFrom w (decImm64 k (.i true (.ofWord w))) := by
  interval_cases k <;> exact ⟨_, rfl, rfl, rfl, congrArg some (IForm.word_ofWord h)⟩
theorem decScalar_decodes (hk : k < 60) (h : w.toNat % 512 = k + 0x44) : DecodesFrom w (decScalar k w) := by
  interval_cases k <;> exact ⟨_, rfl, rfl, rfl, congrArg some (by simp [AluForm.enc, h])⟩
/-- The modifier bit tells the two mnemonics of one opcode apart (R221). -/
theorem vmovs_decodes (h : w.toNat % 512 = 2 * 21 + b.toNat + 0x80) : DecodesFrom w (decVecPair 21 b (.ofWord w)) := by
  have hw : (TForm.ofWord w).word (if b then 0xAB else 0xAA) = w := TForm.word_ofWord (by cases b <;> exact h)
  by_cases hf : (TForm.ofWord w).mod.getLsbD 1 = true
  · exact ⟨_, if_pos hf, by simpa [Instr.wf, Instr.illFormed] using hf, rfl, congrArg some hw⟩
  · exact ⟨_, if_neg hf, by simpa [Instr.wf, Instr.illFormed] using hf, rfl, congrArg some hw⟩
theorem decVecPair_decodes (hk : k < 23) (h : w.toNat % 512 = 2 * k + b.toNat + 0x80) : DecodesFrom w (decVecPair k b (.ofWord w)) := by
  obtain hk | rfl | rfl : k < 21 ∨ k = 21 ∨ k = 22 := by omega
  · cases b <;> interval_cases k <;> exact ⟨_, rfl, rfl, rfl, congrArg some (TForm.word_ofWord h)⟩
  · exact vmovs_decodes h
  · cases b <;> exact ⟨_, rfl, rfl, rfl, congrArg some (TForm.word_ofWord h)⟩
theorem decVecF_decodes {t : FVar} (hk : k < 9) (h : w.toNat % 512 = 4 * k + t.index + 0xAE) : DecodesFrom w (decVecF k t (.ofWord w)) := by
  cases t <;> interval_cases k <;> exact ⟨_, rfl, rfl, rfl, congrArg some (TForm.word_ofWord h)⟩
theorem decVecFun_decodes (hk : k < 18) (h : w.toNat % 512 = k + 0xD2) : DecodesFrom w (decVecFun k (.ofWord w)) := by
  interval_cases k <;> exact ⟨_, rfl, rfl, rfl, congrArg some (TForm.word_ofWord h)⟩
theorem vcvt_decodes {d : CvtDst} (h : w.toNat % 512 = 2 * d.index + b.toNat + 0xE4) : DecodesFrom w (some (.vcvt d b (.ofWord w))) := by
  refine ⟨_, rfl, rfl, rfl, congrArg some (TForm.word_ofWord ?_)⟩
  have hd : d.index < 17 := by cases d <;> decide
  have hb := b.toNat_lt
  rw [h, BitVec.toNat_ofNat]
  omega
theorem decVecMove_decodes (hk : k < 28) (h : w.toNat % 512 = k + 0x106) : DecodesFrom w (decVecMove k (.ofWord w)) := by
  interval_cases k <;> exact ⟨_, rfl, rfl, rfl, congrArg some (TForm.word_ofWord h)⟩
theorem vred_decodes {o : RedOp} (h : w.toNat % 512 = o.index + 0x122) : DecodesFrom w (some (.vred o (.ofWord w))) := by
  cases o <;> exact ⟨_, rfl, rfl, rfl, congrArg some (TForm.word_ofWord h)⟩
theorem vscan_decodes {o : RedOp} (h : w.toNat % 512 = o.index + 0x12F) : DecodesFrom w (some (.vscan o (.ofWord w))) := by
  cases o <;> exact ⟨_, rfl, rfl, rfl, congrArg some (TForm.word_ofWord h)⟩
theorem decVecEnd_decodes (hk : k < 4) (h : w.toNat % 512 = k + 0x13C) : DecodesFrom w (decVecEnd k (.ofWord w)) := by
  interval_cases k <;> exact ⟨_, rfl, rfl, rfl, congrArg some (TForm.word_ofWord h)⟩
theorem decMem_decodes (hk : k < 64) (h : w.toNat % 512 = k + 0x140) : DecodesFrom w (decMem k w) := by
  interval_cases k <;> exact ⟨_, rfl, rfl, rfl, congrArg some (by simp [h])⟩
theorem decMatrix_decodes (hk : k < 32) (h : w.toNat % 512 = k + 0x180) : DecodesFrom w (decMatrix k w) := by
  interval_cases k <;> exact ⟨_, rfl, rfl, rfl, congrArg some (by simp [h])⟩
/-- The modifier bit tells the two mnemonics of one opcode apart (R435). -/
theorem cresume_decodes (h : w.toNat % 512 = 28 + 0x1A0) : DecodesFrom w (decSystem 28 w) := by
  by_cases hf : (XForm.ofWord w).mod.getLsbD 0 = true
  · exact ⟨_, if_pos hf, by simpa [Instr.wf, Instr.illFormed] using hf, rfl, congrArg some (XForm.word_ofWord h)⟩
  · exact ⟨_, if_neg hf, by simpa [Instr.wf, Instr.illFormed] using hf, rfl, congrArg some (XForm.word_ofWord h)⟩
theorem cterm_decodes (h : w.toNat % 512 = 29 + 0x1A0) : DecodesFrom w (decSystem 29 w) := by
  by_cases hf : (XForm.ofWord w).mod.getLsbD 0 = true
  · exact ⟨_, if_pos hf, by simpa [Instr.wf, Instr.illFormed] using hf, rfl, congrArg some (XForm.word_ofWord h)⟩
  · exact ⟨_, if_neg hf, by simpa [Instr.wf, Instr.illFormed] using hf, rfl, congrArg some (XForm.word_ofWord h)⟩
theorem decSystem_decodes (hk : k < 34) (h : w.toNat % 512 = k + 0x1A0) : DecodesFrom w (decSystem k w) := by
  obtain hk | rfl | rfl | hk' : k < 28 ∨ k = 28 ∨ k = 29 ∨ 30 ≤ k := by omega
  · interval_cases k <;> exact ⟨_, rfl, rfl, rfl, congrArg some (by simp [h])⟩
  · exact cresume_decodes h
  · exact cterm_decodes h
  · interval_cases k <;> exact ⟨_, rfl, rfl, rfl, congrArg some (by simp [h])⟩
theorem hintX_decodes {n : Fin 30} (h : w.toNat % 512 = n + 0x1C2) : DecodesFrom w (some (.hintX n (.ofWord w))) := by
  refine ⟨_, rfl, rfl, rfl, congrArg some (TForm.word_ofWord ?_)⟩
  rw [h, BitVec.toNat_ofNat]
  omega
end

/-- R116: every opcode below 0x1E0 is an instruction's. -/
theorem decodeWord_decodes {w : W64} (h : w.toNat % 512 < 0x1E0) : DecodesFrom w (decodeWord w) := by
  generalize hop : w.toNat % 512 = op at h
  by_cases lt : op < 0x02C
  · rw [decodeWord_pair hop lt]; exact decPair_decodes (by omega) (by rw [toNat_odd]; omega)
  by_cases lt : op < 0x03C
  · rw [decodeWord_imm32 (k := op - 0x02C) (by omega) (by omega)]; exact decImm32_decodes (by omega) (by omega)
  by_cases lt : op < 0x044
  · rw [decodeWord_imm64 (k := op - 0x03C) (by omega) (by omega)]; exact decImm64_decodes (by omega) (by omega)
  by_cases lt : op < 0x080
  · rw [decodeWord_scalar (k := op - 0x044) (by omega) (by omega)]; exact decScalar_decodes (by omega) (by omega)
  by_cases lt : op < 0x0AE
  · rw [decodeWord_vecPair (k := op - 0x080) (by omega) (by omega)]; exact decVecPair_decodes (by omega) (by rw [toNat_odd]; omega)
  by_cases lt : op < 0x0D2
  · rw [decodeWord_vecF (k := op - 0x0AE) (by omega) (by omega)]; exact decVecF_decodes (by omega) (by rw [fvarAt_index _ (by omega)]; omega)
  by_cases lt : op < 0x0E4
  · rw [decodeWord_vecFun (k := op - 0x0D2) (by omega) (by omega)]; exact decVecFun_decodes (by omega) (by omega)
  by_cases lt : op < 0x106
  · rw [decodeWord_vcvt (k := op - 0x0E4) (by omega) (by omega)]; exact vcvt_decodes (by rw [cvtDstAt_index _ (by omega), toNat_odd]; omega)
  by_cases lt : op < 0x122
  · rw [decodeWord_vecMove (k := op - 0x106) (by omega) (by omega)]; exact decVecMove_decodes (by omega) (by omega)
  by_cases lt : op < 0x12F
  · rw [decodeWord_vred (k := op - 0x122) (by omega) (by omega)]; exact vred_decodes (by rw [redOpAt_index _ (by omega)]; omega)
  by_cases lt : op < 0x13C
  · rw [decodeWord_vscan (k := op - 0x12F) (by omega) (by omega)]; exact vscan_decodes (by rw [redOpAt_index _ (by omega)]; omega)
  by_cases lt : op < 0x140
  · rw [decodeWord_vecEnd (k := op - 0x13C) (by omega) (by omega)]; exact decVecEnd_decodes (by omega) (by omega)
  by_cases lt : op < 0x180
  · rw [decodeWord_mem (k := op - 0x140) (by omega) (by omega)]; exact decMem_decodes (by omega) (by omega)
  by_cases lt : op < 0x1A0
  · rw [decodeWord_matrix (k := op - 0x180) (by omega) (by omega)]; exact decMatrix_decodes (by omega) (by omega)
  by_cases lt : op < 0x1C2
  · rw [decodeWord_system (k := op - 0x1A0) (by omega) (by omega)]; exact decSystem_decodes (by omega) (by omega)
  rw [decodeWord_hintX (k := op - 0x1C2) (by omega) (by omega)]; exact hintX_decodes (by dsimp only; omega)

theorem decodeMu_decodes {w : W64} (h : w.toNat / 2 ^ 58 < 12) :
    ∃ i, decodeMu w = some i ∧ i.wf = true ∧ isMicro i = true ∧ encode i = some w := by
  rw [decodeMu]
  generalize hk : w.toNat / 2 ^ 58 = k at h ⊢
  interval_cases k <;> exact ⟨_, rfl, rfl, rfl, congrArg some (muWord_extract hk)⟩

theorem decodeMu_reserved {w : W64} (h : 12 ≤ w.toNat / 2 ^ 58) : decodeMu w = none := by
  obtain ⟨k, hk⟩ := Nat.exists_eq_add_of_le' h
  rw [decodeMu, hk]
  rfl

end Sys2Proof

namespace Sys2Proof.Proofs
open Machine

/-- Settles O54: each row of the opcode map decodes its words to instructions that encode them, and the reserved opcodes have no row. -/
theorem decodingIsExact : Obligations.DecodingIsExact := by
  unfold Obligations.DecodingIsExact
  intro w
  refine ⟨⟨fun h => ?_, decodeWord_reserved⟩, ⟨fun h => ?_, decodeMu_reserved⟩, fun i h => ?_, fun i h => ?_⟩
  · by_contra hlt
    obtain ⟨i, hi, -⟩ := decodeWord_decodes (Nat.lt_of_not_le hlt)
    simp [h] at hi
  · by_contra hlt
    obtain ⟨i, hi, -⟩ := decodeMu_decodes (Nat.lt_of_not_le hlt)
    simp [h] at hi
  · have hlt : w.toNat % 512 < 0x1E0 := by
      by_contra hge
      simp [decodeWord_reserved (Nat.le_of_not_lt hge)] at h
    obtain ⟨j, hj, hd⟩ := decodeWord_decodes hlt
    obtain rfl : j = i := Option.some.inj (hj.symm.trans h)
    exact hd
  · have hlt : w.toNat / 2 ^ 58 < 12 := by
      by_contra hge
      simp [decodeMu_reserved (Nat.le_of_not_lt hge)] at h
    obtain ⟨j, hj, hd⟩ := decodeMu_decodes hlt
    obtain rfl : j = i := Option.some.inj (hj.symm.trans h)
    exact hd

/-- Settles O55: each instruction's encoding is its word, and decodes to it (O53's `decodeWord_encode`). -/
theorem decodeWords : Obligations.DecodeWords := by
  unfold Obligations.DecodeWords
  dsimp only
  intro p hp
  fin_cases hp <;> exact decodeWord_encode rfl rfl (by decide)

end Sys2Proof.Proofs
end

section
/-! What events do to groups (O43): clause fetch, token signals, the umpire, sleep, commits, port failures. -/
namespace Sys2Proof.Machine
open Laws

/-! ### Clause fetch (R98-R100, R401) -/

section
variable {s t : State} {k e : Nat}

theorem exec_clauseFetch (h : s.cur = .group k e) : exec .clauseFetch s = .next (s.clauseFetch k e) := by
  change execClauseFetch s = _
  rw [execClauseFetch, h]

theorem clauseFetch_boundary {p : Option Nat × TrapInfo × Nat} (h : s.boundaryTrap k e = some p) :
    s.clauseFetch k e = (s.setSub k e { s.sub k e with portTraps := (s.sub k e).portTraps.filter (fun q => q.2.2 != p.2.2) }).takeTrap k e
      { p.2.1 with stop := 3, clause := some (s.sub k e).pc, pc := some (s.sub k e).pc } := by
  simp only [State.clauseFetch, h]

section
variable (hb : s.boundaryTrap k e = none) (hp : (s.sub k e).badPc = false)
include hb hp

theorem clauseFetch_fails {step off : Nat} (h : s.codeCheck k (s.codeHandle k e) (s.sub k e).pc 8 = (.fail step off, t)) (hs : step ≠ 8) :
    s.clauseFetch k e = t.takeTrap k e { cause := 0x10, src := if step ≤ 5 then 0 else 1, addr := off, info := step * 2 ^ 24, stop := 1
                                         clause := some (s.sub k e).pc, pc := some (s.sub k e).pc } := by
  simp only [State.clauseFetch, hb, hp, h, State.fetchFail, if_neg hs]
  rfl

variable {exts : Tab Nat} {w : W64} {r : State} (h : s.codeCheck k (s.codeHandle k e) (s.sub k e).pc 8 = (.ok exts, t))
  (hw : t.codeWord (t.codeCtx k) (s.codeHandle k e).obj exts (s.sub k e).pc = (w, r))
include h hw

theorem clauseFetch_illegal {j : Nat} (hj : headerFail (kindOf k) w.toNat = some j) :
    s.clauseFetch k e = r.takeTrap k e
      { cause := 0x02, info := j * 2 ^ 24, stop := 1, clause := some (s.sub k e).pc, pc := some (s.sub k e).pc } := by
  simp only [State.clauseFetch, hb, hp, h, hw, hj]
  rfl

/-- A lattice clause whose header passes goes on to its body. -/
theorem clauseFetch_body (hl : kindOf k = .lattice) (hj : headerFail (kindOf k) w.toNat = none) (htok : field w.toNat 24 4 = 0) :
    s.clauseFetch k e = r.fetchBody k e (s.sub k e).pc w := by
  rw [hl] at hj
  simp only [State.clauseFetch, hb, hp, h, hw, hl, hj, htok]
  rfl
end

/-- A lattice clause whose body passes becomes its sub-group's. -/
theorem fetchBody_enters {c n l : Nat} {w : W64} {exts : Tab Nat} {ws : List W64} {v : State} (hl : kindOf k = .lattice)
    (hn : field w.toNat 8 4 + 1 = n) (hlit : field w.toNat 12 2 = l)
    (h : s.codeCheck k (s.codeHandle k e) (c + 8) (8 * (n + l)) = (.ok exts, t))
    (hws : t.codeWords (t.codeCtx k) (s.codeHandle k e).obj exts (c + 8) (n + l) = (ws, v))
    (hb : bodyFail (kindOf k) c l (ws.take n) = none) :
    s.fetchBody k e c w = v.enterClause k e ⟨c, w, ws.take n, ws.drop n⟩ := by
  rw [hl] at hb
  simp only [State.fetchBody, hn, hlit, h, hws, hl, hb]
  rfl

/-- A clause that a sub-group enters at its header. -/
theorem enterClause_header {cl : Clause} (hr : (s.sub k e).resumeAt = none) (hm : (s.sub k e).resumeMark = false) :
    s.enterClause k e cl = s.setSub k e { s.sub k e with
      clause := some cl, idx := 0, headerMet := false, tokensOnly := false, clauseSeq := s.nextId, resumeMark := false } := by
  simp only [State.enterClause, resumeIndex, hr, hm]
  rfl
end

/-! ### Token signals (R160) -/

section
variable {s : State} {m : Nat} {ids : List Nat} {rest : List (Nat × List Nat)} (h : (s.group s.arg.a).sigs = (m, ids) :: rest)
include h

theorem signalTokens_waits (hr : s.signalReady ids = false) : s.signalTokens = s.again .tokenSignal := by
  simp [State.signalTokens, h, hr]

theorem signalTokens_signals (hr : s.signalReady ids = true) (hh : s.signalHeld s.arg.a = none) :
    s.signalTokens =
      ((s.setBlock (s.group s.arg.a).block { s.block (s.group s.arg.a).block with
            tokens := (maskSlots (m % 16)).foldl (fun t c => tput t c (tget 0 t c + 1)) (s.block (s.group s.arg.a).block).tokens }
          |>.setGroup s.arg.a { s.group s.arg.a with sigs := rest }).postOnce .blockRetire { a := (s.group s.arg.a).block }).vacate s.arg.a := by
  simp [State.signalTokens, h, hr, hh]
end

/-! ### The umpire (R402, R403) -/

section
variable {s : State} {w : WaitRec} (h : (s.sub s.arg.a s.arg.b).wait = some w)
include h

theorem umpire_early (hw : s.lastPoll ≠ some (s.arg.a, s.arg.b) ∨ s.time < w.since + w.limit) : s.umpire = s.again .umpireExpire := by
  have hc : ¬ (s.lastPoll = some (s.arg.a, s.arg.b) ∧ w.since + w.limit ≤ s.time) := by
    rintro ⟨hp, ht⟩
    exact hw.elim (absurd hp) (Nat.not_lt.2 ht)
  simp only [State.umpire, h, if_neg hc]

theorem umpire_expires (hp : s.lastPoll = some (s.arg.a, s.arg.b)) (ht : w.since + w.limit ≤ s.time) (h3 : w.kind ≠ 3) (h5 : w.kind ≠ 5) :
    s.umpire = (s.setSub s.arg.a s.arg.b { s.sub s.arg.a s.arg.b with
      st := if (s.sub s.arg.a s.arg.b).st = 2 then 1 else (s.sub s.arg.a s.arg.b).st }).takeTrap s.arg.a s.arg.b (waitTimeout w s.time) := by
  simp only [State.umpire, h, if_pos (And.intro hp ht), if_neg h3, if_neg h5]
end

/-! ### Commits (R388, R396) -/

section
variable {s : State}

theorem commitStep_entry {e : Nat} {t : TrapInfo} (hf : s.arg.flag = true) (ht : (s.group s.arg.a).trapping = some (e, t)) :
    s.commitStep = if s.canEnter s.arg.a then s.enterHandler s.arg.a e t else s.again .commit := by
  simp only [State.commitStep, if_pos hf, ht]

theorem commitStep_sub (hf : s.arg.flag = false) (hl : (s.sub s.arg.a s.arg.b).live = true) (ha : s.regionAccepted s.arg.a s.arg.b = true) :
    s.commitStep = s.commitSub s.arg.a s.arg.b (s.sub s.arg.a s.arg.b).clauseStart (s.sub s.arg.a s.arg.b).here (s.sub s.arg.a s.arg.b).atHeader := by
  simp [State.commitStep, hf, hl, ha]
end

/-! ### Port failures (R399-R401) -/

section
variable {s : State} {a : Access} {t : TrapInfo}

theorem portFailure_eq (ha : s.access s.arg.a = some a) (ht : a.fail = some t) :
    s.portFailure = if kindOf a.group = .lattice then s.latticeFailure a t else s.streamFailure a t := by
  simp only [State.portFailure, ha, ht]

theorem streamFailure_pauses (hs : a.suspends = true) :
    s.streamFailure a t = (s.setAccess { a with paused := true, fail := none, suspends := false }).pausedRec a.group a.entry
      (field a.hbits.toNat 104 24) t.addr2 a.hreg 0 0 t.fmask.toNat t.addr := by
  simp only [State.streamFailure, if_pos hs]

theorem streamFailure_keeps (hs : a.suspends = false) :
    s.streamFailure a t = (s.complete a.id []).setSub a.group a.entry { (s.complete a.id []).sub a.group a.entry with
      portTraps := ((s.complete a.id []).sub a.group a.entry).portTraps ++
        [(a.slot, if a.kind.inLoads then t else { t with addr2 := a.pc }, a.id)] } := by
  simp only [State.streamFailure, if_neg (Bool.eq_false_iff.1 hs)]

theorem latticeFailure_eq (h : ((s.rollbackSub a.group a.entry).group a.group).trapping = none) :
    s.latticeFailure a t = if a.suspends then
        (s.rollbackSub a.group a.entry).suspend a.group a.entry 0 (field a.hbits.toNat 104 24) t.addr2 a.hreg
          (((s.sub a.group a.entry).mark.map (·.clause)).getD 0) (((s.sub a.group a.entry).mark.map (·.pc)).getD 0) t.fmask.toNat t.addr
      else (s.rollbackSub a.group a.entry).takeTrap a.group a.entry
        { t with stop := 2, clause := some (((s.sub a.group a.entry).mark.map (·.clause)).getD 0)
                 pc := some (((s.sub a.group a.entry).mark.map (·.pc)).getD 0), addr2 := a.pc } := by
  simp only [State.latticeFailure, h]
end

end Sys2Proof.Machine

namespace Sys2Proof.Proofs
open Machine

/-- Settles O43: each event has its lemma above. -/
theorem groupEvents : Obligations.GroupEvents := by
  unfold Obligations.GroupEvents
  refine ⟨fun s k e hc => ⟨?boundary, fun hb hp => ⟨?fails, fun exts t h => ⟨?illegal, ?enters⟩⟩⟩,
    fun s m ids rest h => ⟨fun hr => congrArg _ (signalTokens_waits h hr), fun hr hh => congrArg _ (signalTokens_signals h hr hh)⟩,
    fun s w h => ⟨fun hw => congrArg _ (umpire_early h hw), fun hp ht h3 h5 => congrArg _ (umpire_expires h hp ht h3 h5)⟩,
    fun s => ⟨?rsleep, ?enter, ?again, fun hf hl ha => congrArg _ (commitStep_sub hf hl ha)⟩, fun s a t ha ht => ⟨?pause, ?keep, ?trap, ?suspend⟩⟩
  case boundary => exact fun p h => (exec_clauseFetch hc).trans (congrArg _ (clauseFetch_boundary h))
  case fails => exact fun step off t h hs => (exec_clauseFetch hc).trans (congrArg _ (clauseFetch_fails hb hp h hs))
  case illegal => exact fun j hj => (exec_clauseFetch hc).trans (congrArg _ (clauseFetch_illegal hb hp h Prod.mk.eta.symm hj))
  case enters =>
    intro hj hl htok hres exts' u hu ws v hr hm hbody
    rw [exec_clauseFetch hc, clauseFetch_body hb hp h Prod.mk.eta.symm hl hj htok, fetchBody_enters hl rfl rfl hu Prod.mk.eta.symm hbody, enterClause_header hr hm]
  case rsleep => exact fun h => congrArg Host.Outcome.next (if_neg (Bool.eq_false_iff.1 h))
  case enter => exact fun e t hf ht hk => congrArg _ ((commitStep_entry hf ht).trans (if_pos hk))
  case again => exact fun e t hf ht hk => congrArg _ ((commitStep_entry hf ht).trans (if_neg (by simp [hk])))
  case pause =>
    intro hk hs
    exact congrArg _ ((portFailure_eq ha ht).trans ((if_neg hk).trans (streamFailure_pauses hs)))
  case keep =>
    intro hk hs
    exact congrArg _ ((portFailure_eq ha ht).trans ((if_neg hk).trans (streamFailure_keeps hs)))
  case trap =>
    intro hk hr hs
    exact congrArg _ ((portFailure_eq ha ht).trans ((if_pos hk).trans ((latticeFailure_eq hr).trans (if_neg (by simp [hs])))))
  case suspend =>
    intro hk hr hs
    exact congrArg _ ((portFailure_eq ha ht).trans ((if_pos hk).trans ((latticeFailure_eq hr).trans (if_pos hs))))

end Sys2Proof.Proofs
end

section
/-! What every instruction word has in common before and instead of its effect (O57): what its gates answer. -/
namespace Sys2Proof.Machine
open Laws

/-- Every word of the opcode map issues: what `exec` does with it differs in its effect alone. A constructor that is no word has no `guardingOf`, so its
case is closed by `h`. -/
theorem exec_eq_issue {i : Instr} {gd : Guarding} (h : guardingOf i = some gd) : ∃ f, ∀ s, exec i s = issue i gd f s := by
  cases i <;> cases h <;> exact ⟨_, fun _ => rfl⟩

theorem decodeTrap_of_profile {s : State} {ck : CoreKind} {ucode : Bool} {i : Instr} (h : inProfile ck (opcodeOf i) = false) :
    s.decodeTrap ck ucode i = some { cause := 0x01, info := 2 * 2 ^ 24 + opcodeOf i } := by
  simp [State.decodeTrap, h]

theorem decodeTrap_of_privileged {s : State} {ck : CoreKind} {ucode : Bool} {i : Instr} (hp : inProfile ck (opcodeOf i) = true)
    (hc : ck ≠ .control) (h : isPrivileged ucode (opcodeOf i) = true) :
    s.decodeTrap ck ucode i = some { cause := 0x0F, info := opcodeOf i } := by
  simp [State.decodeTrap, hp, hc, h]

section
variable {s t u : State} {k e : Nat} {i : Instr} {gd : Guarding} {f : Cx → State → Eff}

theorem issue_of_group (hc : s.cur = .group k e) : issue i gd f s = .next (s.issueBy k e i gd f) := by
  rw [issue, hc]

theorem issueBy_of_headerBlocked (h : s.headerGate k e = .blocked t) : s.issueBy k e i gd f = t := by
  rw [State.issueBy, h]

theorem issueBy_of_decodeTrap {x : TrapInfo} (h : s.headerGate k e = .met t)
    (hd : t.decodeTrap (kindOf k) ((t.blockOf k).rv.permUcode) i = some x) : s.issueBy k e i gd f = t.takeTrap k e x := by
  simp only [State.issueBy, h, hd]

theorem issueBy_of_gateBlocked (h : s.headerGate k e = .met t) (hd : t.decodeTrap (kindOf k) ((t.blockOf k).rv.permUcode) i = none)
    (hg : t.issueGate k e i (shape (kindOf k) i) gd = .blocked u) : s.issueBy k e i gd f = u := by
  simp only [State.issueBy, h, hd, hg]

theorem issueBy_of_operandTrap {x : TrapInfo} (h : s.headerGate k e = .met t)
    (hd : t.decodeTrap (kindOf k) ((t.blockOf k).rv.permUcode) i = none) (hg : t.issueGate k e i (shape (kindOf k) i) gd = .met u)
    (ho : u.operandTrap k e i (shape (kindOf k) i) (u.active k e (commonOf i)) = some x) : s.issueBy k e i gd f = u.takeTrap k e x := by
  simp only [State.issueBy, h, hd, hg, ho]
end

end Sys2Proof.Machine

namespace Sys2Proof.Proofs
open Machine Laws

/-- Settles O57: every word issues with an effect of its own, and each gate before the effect answers as its lemma says. -/
theorem issueOutcomes : Obligations.IssueOutcomes := by
  unfold Obligations.IssueOutcomes
  intro i gd hgd
  obtain ⟨f, hf⟩ := exec_eq_issue hgd
  refine ⟨fun s k e hc => ?_, fun s hc => ?_, fun s s' cx h ha hg => (hf s).trans (issue_unguarded f h ha hg)⟩
  · rw [hf, issue_of_group hc]
    refine ⟨fun t h => congrArg _ (issueBy_of_headerBlocked h), fun t h => ⟨fun x hd => congrArg _ (issueBy_of_decodeTrap h hd), fun hp => ?_, fun hp hk hpr => ?_,
      fun hd => ⟨fun u hu => congrArg _ (issueBy_of_gateBlocked h hd hu), fun u x hu ho => congrArg _ (issueBy_of_operandTrap h hd hu ho)⟩⟩⟩
    · exact congrArg _ (issueBy_of_decodeTrap h (decodeTrap_of_profile hp))
    · exact congrArg _ (issueBy_of_decodeTrap h (decodeTrap_of_privileged hp hk hpr))
  · rw [hf, issue]
    split
    · next k e h => exact absurd h (hc k e)
    · rfl

end Sys2Proof.Proofs
end

section
/-! What a step does with the move it makes (O56). -/
namespace Sys2Proof.Machine

section
variable {s t : State} {m : Turn} {k e : Nat} {c : Clause} {i : Instr}

/-- A step makes the move that its free choice names. -/
theorem step_eq (h : s.choices[(s.choose s.choices.length).1]? = some m) : step s = after (move (s.choose s.choices.length).2 m) := by
  simp only [step, h]

theorem moveSub_word (hk : kindOf k ≠ .stream) (hc : (s.sub k e).clause = some c) (hi : decodeWord (c.words.getD (s.sub k e).idx 0) = some i) :
    moveSub s k e = exec i { s with cur := .group k e, lastPoll := none } := by
  have hc' : (({ s with cur := .group k e, lastPoll := none } : State).sub k e).clause = some c := hc
  have hi' : decodeWord (c.words.getD (({ s with cur := .group k e, lastPoll := none } : State).sub k e).idx 0) = some i := hi
  simp only [moveSub, if_neg hk, hc', hi']

theorem moveSub_streamWord (hk : kindOf k = .stream) (hg : ({ s with cur := .group k e, lastPoll := none } : State).signalGate k = .met t)
    (hc : (t.sub k e).clause = some c) (hi : decodeWord (c.words.getD (t.sub k e).idx 0) = some i) : moveSub s k e = exec i t := by
  simp only [moveSub, if_pos hk, hg, hc, hi]

theorem moveSub_fetch (hk : kindOf k ≠ .stream) (hc : (s.sub k e).clause = none) :
    moveSub s k e = exec .clauseFetch { s with cur := .group k e, lastPoll := none } := by
  have hc' : (({ s with cur := .group k e, lastPoll := none } : State).sub k e).clause = none := hc
  simp only [moveSub, if_neg hk, hc']

theorem moveEngine_micro {u p : Nat} (h : ({ s with cur := .engine u p, lastPoll := none } : State).engineNext u p = .inl i) :
    moveEngine s u p = exec i { s with cur := .engine u p, lastPoll := none } := by
  simp only [moveEngine, h]

theorem moveEvent_eq {ev : Event} (h : ev.step ≠ .umpireExpire) :
    moveEvent s ev = exec ev.step { s with cur := .none, arg := ev.arg, lastPoll := none } := by
  simp only [moveEvent, if_neg h]

theorem move_pending {n : Nat} {ev : Event} (hn : s.agenda[n]? = some ev) (h : ev.step ≠ .umpireExpire) :
    move s (.pending n) = exec ev.step { s with agenda := s.agenda.eraseIdx n, cur := .none, arg := ev.arg, lastPoll := none } := by
  simp only [move, hn, moveEvent_eq h]
end

end Sys2Proof.Machine

namespace Sys2Proof.Proofs
open Machine

/-- Settles O56: a step is its chosen move, and each move is its lemma's; then time passes. -/
theorem stepRuns : Obligations.StepRuns := by
  unfold Obligations.StepRuns
  intro s m r hm
  rw [step_eq hm]
  refine ⟨?word, ?streamWord, ?fetch, ?engine, ?pending, ?own, fun t f q => ⟨rfl, rfl, rfl⟩⟩
  case word => rintro k e c i rfl hk hc hi; exact congrArg after (moveSub_word hk hc hi)
  case streamWord => rintro k e c i t rfl hk hg hc hi; exact congrArg after (moveSub_streamWord hk hg hc hi)
  case fetch => rintro k e rfl hk hc; exact congrArg after (moveSub_fetch hk hc)
  case engine => rintro u p i rfl h; exact congrArg after (moveEngine_micro h)
  case pending => rintro n ev rfl hn h; exact congrArg after (move_pending hn h)
  case own => rintro ev rfl h; exact congrArg after (moveEvent_eq h)

end Sys2Proof.Proofs
end

section
/-! What the words of a group leave alone (O58). `State.outside` gathers all of it, and each operation of a word has one lemma that says that it
keeps that; an operation that answers a `Gate` keeps it where the gate is met. -/
namespace Sys2Proof.Machine
open Laws

/-! ### Memory, the hub and the other groups -/

/-- What the words of one group leave alone: memory, the hub with its tables, and the other groups. -/
structure Outside where
  mem : Memory
  hub : Hub
  contexts : Tab Context
  queues : Tab Queue
  launches : Tab Launch
  rings : Tab RecRing
  frames : Tab Frame
  bindings : List Binding
  others : Nat → Group

/-- What group `k` leaves alone. -/
def State.outside (s : State) (k : Nat) : Outside where
  mem := s.mem
  hub := s.hub
  contexts := s.contexts
  queues := s.queues
  launches := s.launches
  rings := s.rings
  frames := s.frames
  bindings := s.bindings
  others j := if j = k then {} else s.group j

theorem frame_of_outside {s t : State} {k : Nat} (h : t.outside k = s.outside k) : t.mem = s.mem ∧ sameHub s t ∧ otherGroups s t k := by
  simp only [State.outside, Outside.mk.injEq] at h
  obtain ⟨hmem, hhub, hctx, hq, hl, hr, hf, hb, ho⟩ := h
  exact ⟨hmem, ⟨hhub, hctx, hq, hl, hr, hf, hb⟩, fun j hj => by simpa [hj] using congrFun ho j⟩

/-- Whichever of two states a branch answers, it keeps what both keep. -/
theorem outside_ite {c : Prop} [Decidable c] {s t u : State} {k : Nat} (ht : t.outside k = s.outside k) (hu : u.outside k = s.outside k) :
    (if c then t else u).outside k = s.outside k := by
  split <;> assumption

section
variable (s : State) (k e : Nat)

@[simp] theorem setGroup_outside (g : Group) : (s.setGroup k g).outside k = s.outside k := by
  simp only [State.outside, setGroup_mem, setGroup_hub, setGroup_contexts, setGroup_queues, setGroup_launches, setGroup_rings, setGroup_frames,
    setGroup_bindings, Outside.mk.injEq, true_and]
  funext j
  split
  · rfl
  · next h => rw [group_setGroup, if_neg (Ne.symm h)]

@[simp] theorem setSub_outside (x : Sub) : (s.setSub k e x).outside k = s.outside k := setGroup_outside ..
@[simp] theorem setCore_outside (u : Nat) (c : Core) : (s.setCore u c).outside k = s.outside k := rfl
@[simp] theorem setBlock_outside (b : Nat) (x : Block) : (s.setBlock b x).outside k = s.outside k := rfl
@[simp] theorem post_outside (i : Instr) (arg : EventArg) : (s.post i arg).outside k = s.outside k := rfl
@[simp] theorem postOnce_outside (i : Instr) (arg : EventArg) : (s.postOnce i arg).outside k = s.outside k := by
  unfold State.postOnce
  split <;> rfl
@[simp] theorem fresh_outside : s.fresh.2.outside k = s.outside k := rfl
theorem withAccesses_outside (as : List Access) (n : Nat) : ({ s with accesses := as, nextId := n } : State).outside k = s.outside k := rfl

/-! ### Landings (R149, R150) -/

@[simp] theorem landSpecial_outside (n : Nat) (x : W64) : (s.landSpecial k e n x).outside k = s.outside k := setGroup_outside ..

@[simp] theorem land_outside (w : Wr) : (s.land k e w).outside k = s.outside k := by
  cases w with
  | s | h | p | v => simp only [State.land]; split_ifs <;> simp only [setGroup_outside]
  | special => exact (landSpecial_outside ..).trans (setGroup_outside ..)
  | m | lfsr | flags | grantReg => exact setGroup_outside ..
  | grantSpm | grantMsl => exact setBlock_outside ..

@[simp] theorem landDue_outside (T : Nat) (more : List (Nat × List Wr)) : (s.landDue k e T more).outside k = s.outside k :=
  (foldl_keeps (State.outside · k) (fun _ _ => foldl_keeps (State.outside · k) (fun _ _ => land_outside ..) _ _) _ _).trans (setSub_outside ..)

@[simp] theorem drain_outside : (s.drain k e).outside k = s.outside k := (setSub_outside ..).trans (landDue_outside ..)

@[simp] theorem landSlots_outside (js : List Nat) : (s.landSlots k e js).outside k = s.outside k := (setSub_outside ..).trans (landDue_outside ..)

/-! ### Register banks (R152) -/

@[simp] theorem wakeReg_outside (u j : Nat) : (s.wakeReg u j).outside k = s.outside k := by
  unfold State.wakeReg
  dsimp only
  split
  · exact postOnce_outside ..
  · exact postOnce_outside ..
  · rfl

@[simp] theorem wakeOwned_outside : (s.wakeOwned k).outside k = s.outside k := by
  unfold State.wakeOwned
  split
  · exact foldl_keeps (State.outside · k) (fun _ _ => by split <;> [exact wakeReg_outside ..; rfl]) _ _
  · rfl

@[simp] theorem settleBanks_outside (u : Nat) (js : List Nat) : (s.settleBanks u js).outside k = s.outside k :=
  foldl_keeps (State.outside · k) (fun _ _ => by dsimp only; split <;> rfl) _ _

@[simp] theorem retireBanks_outside (waited : Bool) (keys : List Nat) : (s.retireBanks k waited keys).outside k = s.outside k := by
  unfold State.retireBanks
  split
  · rw [settleBanks_outside]
    split <;> simp only [wakeOwned_outside]
  · rfl

/-! ### Marks and commits (R394-R396) -/

@[simp] theorem takeMark_outside (clause pc : Nat) (atHeader : Bool) : (s.takeMark k e clause pc atHeader).outside k = s.outside k := by
  unfold State.takeMark
  split
  · rfl
  · exact (setSub_outside ..).trans (fresh_outside ..)

@[simp] theorem commitSub_outside (clause pc : Nat) (atHeader : Bool) : (s.commitSub k e clause pc atHeader).outside k = s.outside k := by
  unfold State.commitSub
  split
  · rfl
  · exact (takeMark_outside ..).trans ((setGroup_outside ..).trans (withAccesses_outside ..))

/-! ### After the effect -/

@[simp] theorem kill_outside (key : Nat) : (s.kill k e key).outside k = s.outside k := by
  unfold State.kill
  dsimp only
  split_ifs <;> exact setGroup_outside ..

@[simp] theorem retire_outside (idle : Nat) (kills keys : List Nat) (wrs : List Wr) (lat : Nat) :
    (s.retire k e idle kills keys wrs lat).outside k = s.outside k :=
  (retireBanks_outside ..).trans ((setGroup_outside ..).trans ((fresh_outside ..).trans
    (foldl_keeps (State.outside · k) (fun _ _ => kill_outside ..) _ _)))

@[simp] theorem leaveClause_outside (pc : Nat) : (s.leaveClause k e pc).outside k = s.outside k :=
  outside_ite (setGroup_outside ..) ((post_outside ..).trans (setGroup_outside ..))

@[simp] theorem advance_outside : (s.advance k e).outside k = s.outside k := by
  unfold State.advance
  dsimp only
  split
  · rfl
  · split
    · exact setSub_outside ..
    · exact leaveClause_outside ..

@[simp] theorem slotDone_outside (j op : Nat) (wrs : List Wr) : (s.slotDone k e j op wrs).outside k = s.outside k :=
  (setSub_outside ..).trans (fresh_outside ..)
@[simp] theorem slotBusy_outside (j op : Nat) (wrs : List Wr) : (s.slotBusy k e j op wrs).outside k = s.outside k :=
  (post_outside ..).trans ((setSub_outside ..).trans (fresh_outside ..))

/-! ### Taking a trap (R387-R390) -/

@[simp] theorem enterHandler_outside (x : TrapInfo) : (s.enterHandler k e x).outside k = s.outside k := by
  unfold State.enterHandler
  dsimp only
  rw [takeMark_outside, setGroup_outside, drain_outside, setSub_outside, foldl_keeps (State.outside · k) (fun _ _ => wakeReg_outside ..),
    foldl_keeps (State.outside · k) (fun _ _ => commitSub_outside ..)]

theorem takeTrap_outside (x : TrapInfo) (h : (s.group k).handler = false) : (s.takeTrap k e x).outside k = s.outside k := by
  unfold State.takeTrap
  simp only [h, Bool.false_eq_true, if_false]
  split_ifs <;> simp only [enterHandler_outside, postOnce_outside, wakeOwned_outside, setGroup_outside]
end

/-! ### The gates of a word (R121, R138) -/

section
variable {s t : State} {k e : Nat}

/-- Banks that need not wake leave the state as it is. -/
theorem needBanks_met {bs : List Nat} (h : s.needBanks k e bs = .met t) : t = s := by
  unfold State.needBanks at h
  split at h
  · exact (Gate.met.inj h).symm
  · cases h

theorem commitGate_outside {op : Nat} (h : s.commitGate k e op = .met t) : t.outside k = s.outside k := by
  unfold State.commitGate at h
  split_ifs at h <;> cases h
  · rfl
  · exact commitSub_outside ..

theorem commitAll_outside {op : Nat} (h : s.commitAll k e op = .met t) : t.outside k = s.outside k := by
  unfold State.commitAll at h
  dsimp only at h
  split_ifs at h
  cases h
  exact foldl_keeps (State.outside · k) (fun _ _ => commitSub_outside ..) _ _

theorem drainGate_outside (h : s.drainGate k e = .met t) : t.outside k = s.outside k := by
  unfold State.drainGate at h
  split at h
  · cases h
  · next u hu =>
    cases needBanks_met hu
    cases h
    split <;> simp only [settleBanks_outside, drain_outside]

theorem takeTokens_outside {h : Nat} (ht : s.takeTokens k e h = .met t) : t.outside k = s.outside k := by
  unfold State.takeTokens at ht
  dsimp only at ht
  split at ht
  · cases ht
    rfl
  · split at ht
    · split at ht <;> cases ht
    · cases ht
      exact (setSub_outside ..).trans (setBlock_outside ..)

theorem awaitSlots_outside {js : List Nat} (h : s.awaitSlots k e js = .met t) : t.outside k = s.outside k := by
  unfold State.awaitSlots at h
  dsimp only at h
  split at h
  · cases h
  · split at h
    · cases h
    · split at h
      · cases h
      · next u hu =>
        cases needBanks_met hu
        cases h
        exact landSlots_outside ..

theorem freeHolds_outside : (s.freeHolds k).outside k = s.outside k := by
  unfold State.freeHolds
  dsimp only
  split
  · exact setGroup_outside s k _
  · exact setGroup_outside s k _

/-- A gate that is asked only where `c` holds. -/
theorem gate_ite_outside {c : Prop} [Decidable c] {g : Gate} (hg : ∀ t, g = .met t → t.outside k = s.outside k)
    (h : (if c then g else .met s) = .met t) : t.outside k = s.outside k := by
  split at h
  · exact hg t h
  · cases h
    rfl

theorem headerGate_outside (h : s.headerGate k e = .met t) : t.outside k = s.outside k := by
  unfold State.headerGate at h
  dsimp only at h
  split at h
  · cases h
  split at h
  · cases h
    rfl
  split at h
  · split at h
    · cases h
    · next u hu =>
      cases h
      exact (setSub_outside ..).trans (takeTokens_outside hu)
  split at h
  · cases h
  next u hu =>
  have hcommit := gate_ite_outside (fun _ => commitGate_outside) hu
  split at h
  · cases h
  next v hv =>
  have hdrain := gate_ite_outside (fun _ => drainGate_outside) hv
  split at h
  · cases h
  split at h
  · cases h
  split at h
  · cases h
  next w hw =>
  cases needBanks_met hw
  split at h
  · cases h
  next x hx =>
  cases h
  rw [setSub_outside, landSlots_outside, takeTokens_outside hx, hdrain, ← hcommit]
  split <;> simp only [takeMark_outside]

theorem issueGate_outside {i : Instr} {sh : Shape} {gd : Guarding} (h : s.issueGate k e i sh gd = .met t) : t.outside k = s.outside k := by
  unfold State.issueGate at h
  dsimp only at h
  split at h
  · cases h
  next u hu =>
  have hcommit : u.outside k = s.outside k := by
    split at hu
    · exact commitGate_outside hu
    · exact gate_ite_outside (fun _ => commitAll_outside) hu
  split at h
  · cases h
  split at h
  · cases h
  next v hv =>
  cases needBanks_met h
  refine Eq.trans ?_ (freeHolds_outside.trans hcommit)
  split at hv
  · split at hv
    · cases hv
      exact landDue_outside ..
    · exact awaitSlots_outside hv
  · cases hv
    exact landDue_outside ..

/-- The gates that a ready word has passed. -/
theorem ready_gates {i : Instr} {gd : Guarding} {cx : Cx} (h : s.readyFor i gd = some (cx, t)) :
    ∃ u, s.headerGate cx.k cx.e = .met u ∧ u.issueGate cx.k cx.e i (shape (kindOf cx.k) i) gd = .met t := by
  unfold State.readyFor at h
  split at h
  · split at h
    · cases h
    next u hu =>
    dsimp only at h
    split at h
    · cases h
    split at h
    · cases h
    next v hv =>
    split at h
    · cases h
    · cases h
      exact ⟨u, hu, hv⟩
  · cases h

theorem ready_outside {i : Instr} {gd : Guarding} {cx : Cx} (h : s.readyFor i gd = some (cx, t)) : t.outside cx.k = s.outside cx.k := by
  obtain ⟨u, hu, ht⟩ := ready_gates h
  exact (issueGate_outside ht).trans (headerGate_outside hu)
end

end Sys2Proof.Machine
end

section
/-! What the retirement of a word keeps of its own group (R138, R141, R149): a split's too, whose lanes then part (O9). -/
namespace Sys2Proof.Machine
open Laws

/-! ### Operations on banks leave every group alone (R152) -/

section
variable (s : State)

@[simp] theorem wakeReg_groups (u j : Nat) : (s.wakeReg u j).groups = s.groups := by
  unfold State.wakeReg
  dsimp only
  split
  · exact postOnce_groups ..
  · exact postOnce_groups ..
  · rfl

@[simp] theorem wakeOwned_groups (k : Nat) : (s.wakeOwned k).groups = s.groups := by
  unfold State.wakeOwned
  split
  · exact foldl_keeps State.groups (fun _ _ => by split <;> [exact wakeReg_groups ..; rfl]) _ _
  · rfl

@[simp] theorem settleBanks_groups (u : Nat) (js : List Nat) : (s.settleBanks u js).groups = s.groups :=
  foldl_keeps State.groups (fun _ _ => by dsimp only; split <;> rfl) _ _

@[simp] theorem retireBanks_groups (k : Nat) (waited : Bool) (keys : List Nat) : (s.retireBanks k waited keys).groups = s.groups := by
  unfold State.retireBanks
  split
  · rw [settleBanks_groups]
    split <;> simp only [wakeOwned_groups]
  · rfl

theorem group_congr {s t : State} (h : t.groups = s.groups) (k : Nat) : t.group k = s.group k := congrArg (tget ({} : Group) · k) h
end

/-! ### What a group retains -/

/-- What a retiring sub-group keeps of itself: its registers, its lanes and its pair. -/
def Sub.retained (x : Sub) : Sub := { s := x.s, h := x.h, lanes := x.lanes, pair := x.pair }

theorem Sub.retained_eq_iff {x y : Sub} : x.retained = y.retained ↔ x.lanes = y.lanes ∧ x.pair = y.pair ∧ x.s = y.s ∧ x.h = y.h := by
  simp [Sub.retained]

/-- What a word of sub-group `e` keeps of its group when it retires: all but liveness, shadows and signals; and every other sub-group whole. -/
def Group.retained (g : Group) (e : Nat) : Group × (Nat → Sub) :=
  ({ g with subs := [], shadow := [], shadowUsed := [], vDead := 0, pDead := 0, sigs := [] },
    fun i => if i = e then (g.sub e).retained else g.sub i)

theorem retained_self {g g' : Group} {e : Nat} (h : g'.retained e = g.retained e) : (g'.sub e).retained = (g.sub e).retained := by
  simpa [Group.retained] using congrFun (congrArg Prod.snd h) e

theorem retained_other {g g' : Group} {e i : Nat} (h : g'.retained e = g.retained e) (hi : i ≠ e) : g'.sub i = g.sub i := by
  simpa [Group.retained, hi] using congrFun (congrArg Prod.snd h) i

/-- An update of the sub-group and of what a retirement may change. -/
theorem retained_of_subs {g g' : Group} {e : Nat} {x : Sub} (hs : g'.subs = tput g.subs e x) (hx : x.retained = (g.sub e).retained)
    (hg : (g'.retained e).1 = (g.retained e).1) : g'.retained e = g.retained e := by
  refine Prod.ext hg (funext fun i => ?_)
  have hi : g'.sub i = if e = i then x else g.sub i := (congrArg (tget ({} : Sub) · i) hs).trans (tget_tput ..)
  have he : g'.sub e = x := (congrArg (tget ({} : Sub) · e) hs).trans (by rw [tget_tput, if_pos rfl])
  simp only [Group.retained, hi, he, hx]
  split
  · rfl
  · next h => rw [if_neg (Ne.symm h)]

theorem capture_retained (g : Group) (e : Nat) (w : Wr) : (g.capture e w).retained e = g.retained e := by
  unfold Group.capture
  split <;> rfl

section
variable (s : State) (k e : Nat)

theorem kill_retained (key : Nat) : ((s.kill k e key).group k).retained e = (s.group k).retained e := by
  unfold State.kill
  dsimp only
  rw [← capture_retained (s.group k) e (keyWr key)]
  split_ifs <;> rw [group_setGroup_self] <;> exact retained_of_subs rfl rfl rfl

theorem retire_retained (idle : Nat) (kills keys : List Nat) (wrs : List Wr) (lat : Nat) :
    ((s.retire k e idle kills keys wrs lat).group k).retained e = (s.group k).retained e := by
  unfold State.retire
  dsimp only
  rw [group_congr (retireBanks_groups ..), group_setGroup_self]
  refine Eq.trans ?_ (foldl_keeps (fun t : State => (t.group k).retained e) (fun t n => kill_retained t k e n) kills s)
  exact retained_of_subs rfl rfl rfl

theorem leaveClause_retained (pc : Nat) : ((s.leaveClause k e pc).group k).retained e = (s.group k).retained e := by
  refine (apply_ite (fun t : State => (t.group k).retained e) _ _ _).trans (ite_eq_iff'.2 ⟨fun _ => ?_, fun _ => ?_⟩)
  · rw [group_setGroup_self]
    exact retained_of_subs rfl rfl rfl
  · rw [group_congr (post_groups ..), group_setGroup_self]
    exact retained_of_subs rfl rfl rfl

theorem advance_retained : ((s.advance k e).group k).retained e = (s.group k).retained e := by
  unfold State.advance
  dsimp only
  split
  · rfl
  · split
    · rw [State.setSub, group_setGroup_self]
      exact retained_of_subs rfl rfl rfl
    · exact leaveClause_retained ..
end

/-- A word that retires keeps what its group retains of the state its effect left. -/
theorem retiredTo_retained (s t : State) (cx : Cx) (wrs : List Wr) (lat : Nat) :
    ((s.retiredTo t cx wrs lat).group cx.k).retained cx.e = (t.group cx.k).retained cx.e :=
  (advance_retained ..).trans (retire_retained ..)

theorem retiredTo_outside (s t : State) (cx : Cx) (wrs : List Wr) (lat : Nat) : (s.retiredTo t cx wrs lat).outside cx.k = t.outside cx.k :=
  (advance_outside ..).trans (retire_outside ..)

/-! ### The lanes of a split (R134) -/

section
variable (s : State) (k e : Nat)

/-- A mark is all that a mark changes of its group. -/
theorem takeMark_sub (clause pc : Nat) (atHeader : Bool) : ∃ m, ∀ i, ((s.takeMark k e clause pc atHeader).group k).sub i =
    if e = i then { (s.group k).sub e with mark := m } else (s.group k).sub i := by
  unfold State.takeMark
  split
  · refine ⟨((s.group k).sub e).mark, fun i => ?_⟩
    split
    · next h => rw [h]
    · rfl
  · exact ⟨_, fun i => (congrArg (Group.sub · i) (group_setGroup_self ..)).trans (sub_setGroup_sub ..)⟩

theorem takeMark_pairs (clause pc : Nat) (atHeader : Bool) : ((s.takeMark k e clause pc atHeader).group k).pairs = (s.group k).pairs := by
  unfold State.takeMark
  split
  · rfl
  · dsimp only
    rw [State.setSub, group_setGroup_self]
    rfl

/-- What of a sub-group does not read its mark stays through a mark. -/
theorem takeMark_keeps {α : Type} (p : Sub → α) (hp : ∀ x m, p { x with mark := m } = p x) (clause pc i : Nat) (atHeader : Bool) :
    p (((s.takeMark k e clause pc atHeader).group k).sub i) = p ((s.group k).sub i) := by
  obtain ⟨m, hm⟩ := takeMark_sub s k e clause pc atHeader
  rw [hm]
  split
  · next h => rw [hp, h]
  · rfl
end

theorem withPairs_sub (g : Group) (ps : Tab (Bool × Nat)) (i : Nat) : ({ g with pairs := ps } : Group).sub i = g.sub i := rfl

/-- Lanes of a mask and the mask's other lanes make up the mask. -/
theorem lanes_or_rest {taken lanes : W32} (h : taken &&& ~~~lanes = 0) : taken ||| (lanes &&& ~~~taken) = lanes := by
  ext i hi
  have hbit : (taken &&& ~~~lanes)[i] = false := by simp [h]
  simp only [BitVec.getElem_and, BitVec.getElem_not, BitVec.getElem_or] at hbit ⊢
  cases ht : taken[i] <;> simp_all

theorem lanes_and_rest (taken lanes : W32) : taken &&& (lanes &&& ~~~taken) = 0 := by
  ext i hi
  simp only [BitVec.getElem_and, BitVec.getElem_not]
  cases taken[i] <;> simp

/-- The group that a split parts: the splitting word has retired and left its clause. -/
def State.beforeSplit (s : State) (cx : Cx) : Group := ((s.retireCx cx).leaveClause cx.k cx.e (s.sub cx.k cx.e).nextClause).group cx.k

theorem beforeSplit_retained (s : State) (cx : Cx) : (s.beforeSplit cx).retained cx.e = (s.group cx.k).retained cx.e :=
  (leaveClause_retained ..).trans (retire_retained ..)

section
variable {s : State} {cx : Cx} {taken : W32} {x n r : Nat} {bad : Bool}

/-- The lanes taken go on at the target in the new entry. -/
theorem splitSub_new (hn : n ≠ cx.e) : let y := ((s.splitSub cx taken x bad n r).group cx.k).sub n
    y.lanes = taken ∧ y.pc = x ∧ y.pair = r := by
  simp [State.splitSub, takeMark_keeps _ _ _ Sub.lanes fun _ _ => rfl, takeMark_keeps _ _ _ Sub.pc fun _ _ => rfl,
    takeMark_keeps _ _ _ Sub.pair fun _ _ => rfl, withPairs_sub, sub_setGroup_sub, hn.symm]

/-- The other lanes stay in the old entry. -/
theorem splitSub_old : let y := ((s.splitSub cx taken x bad n r).group cx.k).sub cx.e
    y.lanes = ((s.beforeSplit cx).sub cx.e).lanes &&& ~~~taken ∧ y.pair = r := by
  simp [State.splitSub, takeMark_keeps _ _ _ Sub.lanes fun _ _ => rfl, takeMark_keeps _ _ _ Sub.pair fun _ _ => rfl, withPairs_sub,
    sub_setGroup_sub, State.beforeSplit]

theorem splitSub_pairs : ((s.splitSub cx taken x bad n r).group cx.k).pairs =
    tput (s.beforeSplit cx).pairs r (true, ((s.beforeSplit cx).sub cx.e).pair) := by
  simp [State.splitSub, takeMark_pairs, State.beforeSplit]
end

end Sys2Proof.Machine

namespace Sys2Proof.Proofs
open Machine Laws

/-- Settles O9: the lanes taken and the others are apart and make up the lanes of the word that splits, which its retirement keeps. -/
theorem splitKeepsLanes : Obligations.SplitKeepsLanes := by
  unfold Obligations.SplitKeepsLanes
  intro s cx taken x n r bad hn g t hsub
  obtain ⟨hnew, hpc, hpair⟩ := splitSub_new (s := s) (taken := taken) (x := x) (r := r) (bad := bad) hn
  obtain ⟨hold, hpair'⟩ := splitSub_old (s := s) (cx := cx) (taken := taken) (x := x) (n := n) (r := r) (bad := bad)
  obtain ⟨hlanes, hup, -, -⟩ := Sub.retained_eq_iff.1 (retained_self (beforeSplit_retained s cx))
  rw [hlanes] at hold
  refine ⟨hnew, hpc, ?_, ?_, hpair, hpair', ?_⟩
  · rw [hnew, hold]
    exact lanes_or_rest hsub
  · rw [hnew, hold]
    exact lanes_and_rest ..
  · rw [splitSub_pairs, hup, tget_tput, if_pos rfl]

end Sys2Proof.Proofs
end

section
/-! What a landing changes (O58): the register that its key names, and nothing else that a reader of registers sees. -/
namespace Sys2Proof.Machine
open Laws

/-- A capture changes nothing of its group but the shadows. -/
theorem capture_eq (g : Group) (e : Nat) (w : Wr) : ∃ sh, g.capture e w = { g with shadow := sh } := by
  unfold Group.capture
  split
  · exact ⟨g.shadow, rfl⟩
  · exact ⟨_, rfl⟩

/-- Where a result lands: in a register of its sub-group, a vector register, a predicate, an m register, or in the group's status and holdings. -/
inductive LandsIn where
  | sub | vector | predicate | m | status
  deriving DecidableEq

def Wr.landsIn : Wr → LandsIn
  | .s .. | .h .. => .sub
  | .v .. => .vector
  | .p .. => .predicate
  | .m .. => .m
  | _ => .status

section
variable (s : State) (k e : Nat) (w : Wr)

/-- A landing changes nothing of the other places. -/
theorem land_elsewhere : let g := s.group k
    let h := (s.land k e w).group k
    (w.landsIn ≠ .sub → h.subs = g.subs) ∧ (w.landsIn ≠ .vector → h.v = g.v) ∧ (w.landsIn ≠ .predicate → h.p = g.p) ∧
      (w.landsIn ≠ .m → h.m = g.m) ∧ (w.landsIn ≠ .status → h.fpcsr = g.fpcsr ∧ h.tr = g.tr ∧ h.lpBase = g.lpBase) := by
  obtain ⟨sh, hc⟩ := capture_eq (s.group k) e w
  cases w with
  | s | h | p | v => simp only [State.land, hc, Wr.landsIn]; split_ifs <;> simp [Group.setSub]
  | m | lfsr | flags | grantReg => simp [State.land, hc, Wr.landsIn]
  | special n wide x =>
    simp only [State.land, State.landSpecial, hc, group_setGroup_self, Wr.landsIn]
    split <;> simp
  | grantSpm | grantMsl => simp [State.land, Wr.landsIn, group_congr (setBlock_groups ..)]

end

section
variable {s : State} {k e : Nat} {w : Wr} {i r l : Nat}

theorem land_sub_other (hi : i ≠ e) : (s.land k e w).sub k i = s.sub k i := by
  obtain ⟨sh, hc⟩ := capture_eq (s.group k) e w
  obtain ⟨hsubs, -⟩ := land_elsewhere s k e w
  unfold State.sub Group.sub
  cases w with
  | s | h => simp only [State.land, hc]; split_ifs <;> simp [Group.setSub, hi.symm]
  | _ => rw [hsubs nofun]

theorem land_sreg (hr : w.key ≠ r) : ((s.land k e w).sub k e).sreg r = (s.sub k e).sreg r := by
  obtain ⟨sh, hc⟩ := capture_eq (s.group k) e w
  obtain ⟨hsubs, -⟩ := land_elsewhere s k e w
  unfold State.sub Group.sub
  cases w with
  | s r' => simp only [State.land, hc]; split_ifs <;> simp [Group.setSub, Sub.sreg, Group.sub, show r' ≠ r from hr]
  | h => simp only [State.land, hc]; split_ifs <;> simp [Group.setSub, Sub.sreg, Group.sub]
  | _ => rw [hsubs nofun]

theorem land_hreg (hr : w.key ≠ 1024 + r) : ((s.land k e w).sub k e).hreg r = (s.sub k e).hreg r := by
  obtain ⟨sh, hc⟩ := capture_eq (s.group k) e w
  obtain ⟨hsubs, -⟩ := land_elsewhere s k e w
  unfold State.sub Group.sub
  cases w with
  | s => simp only [State.land, hc]; split_ifs <;> simp [Group.setSub, Sub.hreg, Group.sub]
  | h r' =>
    have hne : r' ≠ r := fun h => hr (congrArg (1024 + ·) h)
    simp only [State.land, hc]
    split_ifs <;> simp [Group.setSub, Sub.hreg, Group.sub, hne]
  | _ => rw [hsubs nofun]

/-- The lanes of a vector register that is not written keep their values. -/
theorem tget_putLanes_other {d : W32} {t : Tab W32} {r' : Nat} {mask : W32} {xs : List W32} (hl : l < 32) (hr : r' ≠ r) :
    tget d (putLanes t r' mask xs) (32 * r + l) = tget d t (32 * r + l) := by
  refine List.foldlRecOn (motive := fun u : Tab W32 => tget d u (32 * r + l) = tget d t (32 * r + l)) _ _ rfl fun u hu j hj => ?_
  have hne : 32 * r' + j ≠ 32 * r + l := by
    have := List.mem_range.1 hj
    omega
  split
  · rw [tget_tput, if_neg hne, hu]
  · exact hu

theorem land_vreg (hl : l < 32) (hr : w.key ≠ 256 + r) : ((s.land k e w).group k).vreg r l = (s.group k).vreg r l := by
  obtain ⟨sh, hc⟩ := capture_eq (s.group k) e w
  obtain ⟨-, hv, -⟩ := land_elsewhere s k e w
  unfold Group.vreg
  cases w with
  | v r' =>
    have hne : r' ≠ r := fun h => hr (congrArg (256 + ·) h)
    simp only [State.land, hc]
    split_ifs <;> simp [tget_putLanes_other hl hne]
  | _ => rw [hv nofun]

theorem land_pred (hr : w.key ≠ 512 + r) : ((s.land k e w).group k).pred r = (s.group k).pred r := by
  obtain ⟨sh, hc⟩ := capture_eq (s.group k) e w
  obtain ⟨-, -, hp, -⟩ := land_elsewhere s k e w
  unfold Group.pred
  cases w with
  | p r' =>
    have hne : r' ≠ r := fun h => hr (congrArg (512 + ·) h)
    simp only [State.land, hc]
    split_ifs <;> simp [hne]
  | _ => rw [hp nofun]

theorem land_m (hr : w.key ≠ 1280 + r) : tget 0 ((s.land k e w).group k).m r = tget 0 (s.group k).m r := by
  obtain ⟨sh, hc⟩ := capture_eq (s.group k) e w
  obtain ⟨-, -, -, hm, -⟩ := land_elsewhere s k e w
  cases w with
  | m r' =>
    have hne : r' ≠ r := fun h => hr (congrArg (1280 + ·) h)
    simp [State.land, hc, hne]
  | _ => rw [hm nofun]

theorem land_status (h : w.key < 1536) : ((s.land k e w).group k).fpcsr = (s.group k).fpcsr ∧ ((s.land k e w).group k).tr = (s.group k).tr ∧
    ((s.land k e w).group k).lpBase = (s.group k).lpBase := by
  obtain ⟨-, -, -, -, hstatus⟩ := land_elsewhere s k e w
  refine hstatus ?_
  cases w <;> simp [Wr.key, Wr.landsIn] at h ⊢
end
end Sys2Proof.Machine
end

section
/-! The words that write registers only (O58): each completes with results, or traps where it stands. -/
namespace Sys2Proof.Machine
open Laws

/-- The effect of a word that writes registers only: it completes and leaves all but its group alone, or traps in the state it found. -/
def Eff.registersOnly (k : Nat) (s : State) : Eff → Prop
  | .ok t _ _ => t.outside k = s.outside k
  | .trap t _ => t = s
  | _ => False

/-! ### The shared effects -/

section
variable {s : State} {cx : Cx}

theorem aluEff_registersOnly {o : AluForm} {b32 zext d32 : Bool} {r : Nat → Nat → Nat → Nat → Nat} :
    (aluEff o b32 zext d32 r cx s).registersOnly cx.k s := rfl

theorem divEff_registersOnly {o : AluForm} {part : Nat × Nat → Nat} : (divEff o part cx s).registersOnly cx.k s := slotBusy_outside ..

theorem vecEff_registersOnly {f : TForm} {nd n0 n1 n2 : Nat} {c2 : Bool} {lat : Nat} {F : Nat → Nat → Nat → Nat → Nat} :
    (vecEff f nd n0 n1 n2 c2 lat F cx s).registersOnly cx.k s := rfl

theorem fpResult_registersOnly {f : TForm} {nd lat draws : Nat} {slot : Bool} {F : Nat → (Nat → Nat) → Nat × BitVec 5} :
    (s.fpResult cx f nd lat draws slot F).registersOnly cx.k s := by
  unfold State.fpResult
  dsimp only
  split
  · rfl
  · have hdrawn (w : Wr) : (if (decide (draws = 0) || decide (cx.act = 0)) = true then s else s.land cx.k cx.e w).outside cx.k = s.outside cx.k :=
      outside_ite rfl (land_outside ..)
    split
    · exact outside_ite ((slotBusy_outside ..).trans (hdrawn _)) ((setSub_outside ..).trans ((slotBusy_outside ..).trans (hdrawn _)))
    · exact hdrawn _

theorem fpEff_registersOnly {t : FVar} {f : TForm} {nsrc : Nat} {x : Fv → Fv → Fv → Rm → Xv} : (fpEff t f nsrc x cx s).registersOnly cx.k s := by
  unfold fpEff
  exact fpResult_registersOnly

theorem fpRooted_registersOnly {t : FVar} {f : TForm} {x : Fv → Xv × BitVec 5} : (fpRooted t f x cx s).registersOnly cx.k s := by
  unfold fpRooted
  exact fpResult_registersOnly

theorem fpTranscendental_registersOnly {half : Bool} {f : TForm} {g : Nat → Nat × BitVec 5} :
    (fpTranscendental half f g cx s).registersOnly cx.k s := by
  unfold fpTranscendental
  exact fpResult_registersOnly

theorem fpQuiet_registersOnly {t : FVar} {f : TForm} {two : Bool} {nd lat : Nat} {g : Nat → Nat → Nat} :
    (fpQuiet t f two nd lat g cx s).registersOnly cx.k s := rfl

/-- A reduction or a scan traps on an enabled flag, and completes otherwise. -/
theorem fpTrap_registersOnly {o : Option TrapInfo} {wrs : List Wr} {lat : Nat} :
    Eff.registersOnly cx.k s (match o with | some x => .trap s x | none => .ok s wrs lat) := by
  split <;> rfl
end

/-- An opcode outside the rows of scalar arithmetic and of vector instructions. -/
theorem not_registerWord {i : Instr} {w : W64} {n : Nat} (he : encode i = some w) (hw : w.toNat % 512 = n)
    (hn : 0x044 ≤ n ∧ (n < 0x080 ∨ 0x140 ≤ n)) : registerWord i ≠ true := by
  have hop : opcodeOf i = n := by rw [opcodeOf, he, ← hw]
  intro h
  simp only [registerWord, hop, Bool.and_eq_true, Bool.or_eq_true, decide_eq_true_eq] at h
  omega

/-- Every register word issues with an effect that writes registers only. -/
theorem registerWord_effect {i : Instr} {gd : Guarding} (hr : registerWord i = true) (hg : guardingOf i = some gd) :
    ∃ f, (∀ s, exec i s = issue i gd f s) ∧ ∀ cx s, (f cx s).registersOnly cx.k s := by
  cases i with
  | sadd | ssub | smul | smulh | sand | sor | sxor | sandn | sshl | sshr | ssra | smin | smax | sclz | spop | sbfx | sbfi | ssel | scmp
  | smov => cases hg; exact ⟨_, fun _ => rfl, fun _ _ => aluEff_registersOnly⟩
  | sdiv | srem => cases hg; exact ⟨_, fun _ => rfl, fun _ _ => divEff_registersOnly⟩
  | vadd | vsub | vmul | vmulh | vmad | vand | vor | vxor | vandn | vshl | vshr | vsra | vmin | vmax | vabs | vclz | vpop | vbfx | vbfi | vsel
  | vmov => cases hg; exact ⟨_, fun _ => rfl, fun _ _ => vecEff_registersOnly⟩
  | vmovs | vmovsGet | vcmp | vfcmp | vpack | vunpack | vperm | vxshf | vrot | vbcl | vcompress
  | vexpand => cases hg; exact ⟨_, fun _ => rfl, fun _ _ => rfl⟩
  | vfmin | vfmax | vfrnd | vfclass => cases hg; exact ⟨_, fun _ => rfl, fun _ _ => fpQuiet_registersOnly⟩
  | vfadd | vfsub | vfmul | vfma => cases hg; exact ⟨_, fun _ => rfl, fun _ _ => fpEff_registersOnly⟩
  | vrcp | vrsqrt | vsqrt => cases hg; exact ⟨_, fun _ => rfl, fun _ _ => fpRooted_registersOnly⟩
  | vexp2 | vlog2 | vsin | vcos => cases hg; exact ⟨_, fun _ => rfl, fun _ _ => fpTranscendental_registersOnly⟩
  | vfdot2 | vcvt | vmxq | vmxd => cases hg; exact ⟨_, fun _ => rfl, fun _ _ => fpResult_registersOnly⟩
  | vred | vscan => cases hg; exact ⟨_, fun _ => rfl, fun _ _ => fpTrap_registersOnly⟩
  | smovi k | pmov k | rset k | rget k | ldG k | stG k | ldwG k | stwG k | ldGs k | stGs k | ldL k | stL k | ldP k | stP k | semSig k | bz k | bnz k
  | sget k | sset k | mset k | mget k | ffadd k | ldC k | stC k | ldAcq k | stRel k =>
    cases k <;> exact absurd hr (not_registerWord rfl (opcode_append ..) (by decide))
  | hintX n => exact absurd hr (not_registerWord rfl (opcode_append_ofNat _ (by omega)) (by omega))
  | _ => cases hg <;> exact absurd hr (not_registerWord rfl (opcode_append ..) (by decide))

/-! ### The whole word -/

/-- A ready word whose effect writes registers only leaves all but its group alone; outside a handler a trap of its own writes no record. -/
theorem perform_outside {s : State} {cx : Cx} {sh : Shape} {gd : Guarding} {f : Cx → State → Eff} (hf : (f cx s).registersOnly cx.k s)
    (hh : (s.group cx.k).handler = false) : (s.perform cx sh gd f).outside cx.k = s.outside cx.k := by
  unfold State.perform
  dsimp only
  split
  · rw [advance_outside, retire_outside]
    exact outside_ite (slotDone_outside ..) rfl
  · generalize f cx s = r at hf
    cases r with
    | ok t wrs lat => exact (advance_outside ..).trans ((retire_outside ..).trans hf)
    | trap t x => cases hf; exact takeTrap_outside s cx.k cx.e x hh
    | jump | gone | wait | stall => exact hf.elim

theorem registerWord_outside {s s' t : State} {i : Instr} {gd : Guarding} {cx : Cx} (hr : registerWord i = true) (hg : guardingOf i = some gd)
    (h : s.readyFor i gd = some (cx, s')) (hh : (s'.group cx.k).handler = false) (ht : exec i s = .next t) : t.outside cx.k = s'.outside cx.k := by
  obtain ⟨f, hexec, hf⟩ := registerWord_effect hr hg
  rw [hexec, issue_ready f h] at ht
  cases ht
  exact perform_outside (hf cx s') hh

end Sys2Proof.Machine

namespace Sys2Proof.Proofs
open Machine Laws

/-- Settles O58: what comes before the effect, the retirement and a landing keep what is outside their group; so does a register word's effect. The
retirement's own group is `retiredTo_retained`, a landing's registers are the lemmas above. -/
theorem registerWordsFrame : Obligations.RegisterWordsFrame := by
  unfold Obligations.RegisterWordsFrame
  refine ⟨fun s s' i gd cx h => frame_of_outside (ready_outside h), ?retire, ?land, fun s s' t i gd cx hr hg h hh ht =>
    frame_of_outside ((registerWord_outside hr hg h hh ht).trans (ready_outside h))⟩
  case retire =>
    intro s t cx wrs lat u g h
    have hkept : h.retained cx.e = g.retained cx.e := retiredTo_retained s t cx wrs lat
    have hgroup := congrArg Prod.fst hkept
    obtain ⟨hlanes, -, hs, hh⟩ := Sub.retained_eq_iff.1 (retained_self hkept)
    obtain ⟨hmem, hhub, hothers⟩ := frame_of_outside (retiredTo_outside s t cx wrs lat)
    simp only [Group.retained, Group.mk.injEq] at hgroup
    exact ⟨hmem, hhub, hothers, fun e he => retained_other hkept he, hs, hh, hlanes, by tauto⟩
  case land =>
    intro s k e w t
    obtain ⟨hmem, hhub, hothers⟩ := frame_of_outside (land_outside s k e w)
    exact ⟨hmem, hhub, hothers, fun i hi => land_sub_other hi, fun r hr => land_sreg hr, fun r l hl hr => land_vreg hl hr, fun r hr => land_pred hr,
      fun r hr => land_hreg hr, fun r hr => land_m hr, land_status⟩

end Sys2Proof.Proofs
end

section
/-! Events of a core's units and of the hub's registers (O45): banks (R152-R154), barrier cycles (R320), semaphores (R335, R459), registers (R5, R6). -/
namespace Sys2Proof.Machine
open Laws

section
variable {s : State}

/-! ### Banks -/

/-- No slot waits for the bank of key `n`. -/
def Core.unawaited (c : Core) (n : Nat) : Prop := ∀ w ∈ c.wakers, w.1 ≠ n

theorem Core.no_wakers {c : Core} {n : Nat} (h : c.unawaited n) : c.wakers.filter (fun w => w.1 == n) = [] :=
  List.filter_eq_nil_iff.2 fun w hw => by simpa using h w hw

/-- A register bank that no slot waits for is on. -/
theorem bankOn_register {off : Bool} (hf : s.arg.flag = false) (hb : tget .off (s.core s.arg.a).regBank s.arg.b = .waking off)
    (hw : (s.core s.arg.a).unawaited s.arg.b) : (s.bankOn.core s.arg.a).regBank = tput (s.core s.arg.a).regBank s.arg.b .on ∧
      s.bankOn.groups = s.groups ∧ s.bankOn.mem = s.mem := by
  unfold State.bankOn
  simp [hf, hb, Core.no_wakers hw]

theorem zero_core (s : State) (k n u : Nat) : (s.zero k n).core u = s.core u := rfl
theorem setCore_zero_mem (s : State) (u k n : Nat) (c : Core) : ((s.setCore u c).zero k n).mem = (s.zero k n).mem := rfl

/-- A scratchpad bank that was off, and that no slot waits for, is on and zero. -/
theorem bankOn_scratchpad (hf : s.arg.flag = true) (hb : tget .off (s.core s.arg.a).spmBank s.arg.b = .waking true)
    (hw : (s.core s.arg.a).unawaited (1024 + s.arg.b)) : (s.bankOn.core s.arg.a).spmBank = tput (s.core s.arg.a).spmBank s.arg.b .on ∧
      s.bankOn.groups = s.groups ∧ s.bankOn.mem = (s.zero (spmKey s.arg.a (s.arg.b * bankSize s.arg.a)) (bankSize s.arg.a)).mem := by
  unfold State.bankOn
  simp [hf, hb, zero_core, setCore_zero_mem, Core.no_wakers hw]

/-- The groups that own registers of bank `j` of core `u`. -/
def State.bankOwners (s : State) (u j : Nat) : Tab Group :=
  s.groups.filter (fun p => unitOfGroup p.1 == u && p.2.present && p.2.own.any (fun o => reach o.2 / 4 == j))

/-- A live register bank goes to retention where all its owners rest and permit it. -/
theorem retainBank_register (hf : s.arg.flag = false) (hb : tget .off (s.core s.arg.a).regBank s.arg.b = .on)
    (hl : s.bankLive s.arg.a s.arg.b = true)
    (ho : ∀ p ∈ s.bankOwners s.arg.a s.arg.b, p.2.resting = true ∧ (s.block p.2.block).rv.bpol = 0) :
    s.retainBank = s.setCore s.arg.a { s.core s.arg.a with regBank := tput (s.core s.arg.a).regBank s.arg.b .retention } := by
  have hrest : (s.bankOwners s.arg.a s.arg.b).all (fun p => p.2.resting) = true := List.all_eq_true.2 fun p hp => (ho p hp).1
  have hmay : s.mayRetain ((s.bankOwners s.arg.a s.arg.b).map (·.2.block)) = true := by
    simp only [State.mayRetain, List.all_map, List.all_eq_true]
    exact fun p hp => beq_iff_eq.2 (ho p hp).2
  unfold State.bankOwners at hrest hmay
  unfold State.retainBank
  simp [hf, hb, hl, hrest, hmay]

/-! ### Barrier cycles -/

/-- One update of a live object, whose bank need not wake, is applied and the phase judged. -/
theorem barCycle_one {up : BarUpdate} {t : State} (hu : (s.block s.arg.a).updates.filter (fun p => p.1 == s.arg.b) = [(s.arg.b, up)])
    (hw : s.wakeFor s.arg.a [s.arg.b] = none)
    (ht : t = s.setBlock s.arg.a { s.block s.arg.a with updates := (s.block s.arg.a).updates.filter (fun p => p.1 != s.arg.b) })
    (hl : t.barLive s.arg.a s.arg.b = true) :
    let r := t.applyUpdate s.arg.a s.arg.b true (t.barAt s.arg.a s.arg.b) up
    s.barCycle = r.2.write (r.2.spmAt s.arg.a s.arg.b) (leBytes 16 (bComplete r.1)) := by
  subst ht
  unfold State.barCycle
  simp [hu, hw, hl, insertUpdate]

/-! ### Semaphores -/

theorem vacate_outside (s : State) (k : Nat) : (s.vacate k).outside k = s.outside k :=
  outside_ite ((postOnce_outside ..).trans (setGroup_outside ..)) rfl

theorem freeHolders_outside (s : State) (u k : Nat) : (s.freeHolders u).outside k = s.outside k := outside_ite (setCore_outside ..) rfl

theorem dropAccess_outside (s : State) (id k : Nat) : (s.dropAccess id).outside k = s.outside k := rfl
theorem dropLines_outside (s : State) (key : Nat) (p : Line → Bool) (k : Nat) : (s.dropLines key p).outside k = s.outside k := rfl

/-- The end of an access leaves all but its group alone. -/
theorem complete_outside {id : Nat} {a : Access} {wrs : List Wr} {fail : Option TrapInfo} (h : s.access id = some a) :
    (s.complete id wrs fail).outside a.group = s.outside a.group := by
  unfold State.complete
  rw [h]
  dsimp only
  rw [vacate_outside, freeHolds_outside, freeHolders_outside]
  have hlines := outside_ite (c := (a.acquire && kindOf a.group == .lattice) = true)
    ((dropLines_outside (s.dropAccess id) (unitOfGroup a.group) (fun l => l.ctx == a.ctx) a.group).trans (dropAccess_outside s id a.group))
    (dropAccess_outside s id a.group)
  split
  · exact hlines
  · exact outside_ite ((setSub_outside ..).trans hlines) hlines

/-- An addition to a semaphore, and the end of the access that asked for it. -/
theorem semaphoreAdd_outside : ∃ t k, exec .semaphoreAdd s = .next t ∧ t.outside k = (s.semAdd s.arg.a s.arg.b).outside k := by
  cases h : (s.semAdd s.arg.a s.arg.b).access s.arg.d with
  | none => exact ⟨_, 0, by simp only [exec, execSemaphoreAdd, event, h], rfl⟩
  | some a =>
    have hid : a.id = s.arg.d := by simpa using List.find?_some h
    exact ⟨_, a.group, by simp only [exec, execSemaphoreAdd, event, h], complete_outside (wrs := []) (fail := none) (hid ▸ h)⟩

theorem storeSems_one {n o : Nat} (h : regPieces s.arg.a s.arg.data = [(.sem n, o, s.arg.data)]) : s.storeSems =
    ((({ s with hub := { s.hub with sems := tput s.hub.sems n (BitVec.ofNat 64 (setBytes (tget 0 s.hub.sems n).toNat o s.arg.data)) } } :
      State).semChanged n).devDone s.arg.d) := by
  unfold State.storeSems
  simp [h]

/-! ### Registers -/

section
variable {r : Reg} {o : Nat} (h : regPieces s.arg.a s.arg.data = [(r, o, s.arg.data)]) (ha : s.boot.active = none)
include h ha

/-- A store to one register, with no routing write held back, stores its fields. -/
theorem storeRegs_stores (hn : s.regAction r o s.arg.data = none) : s.storeRegs = (s.regStore r o s.arg.data).devDone s.arg.d := by
  unfold State.storeRegs
  simp [h, ha, hn]

/-- The action that it asks for follows as its own event. -/
theorem storeRegs_acts {i : Instr} (hi : s.regAction r o s.arg.data = some i) : s.storeRegs = (s.regStore r o s.arg.data).post i s.arg := by
  unfold State.storeRegs
  simp [h, ha, hi]
end
end

end Sys2Proof.Machine

namespace Sys2Proof.Proofs
open Machine Laws

/-- Settles O45: each event has its lemma above. -/
theorem unitEvents : Obligations.UnitEvents := by
  unfold Obligations.UnitEvents
  refine ⟨fun s => ⟨fun off hf hb hw => ?on, fun hf hb hw => ?zero, ?retain⟩, ?barrier, ?add, ?table, ?register⟩
  case on =>
    obtain ⟨hbank, hgroups, hmem⟩ := bankOn_register hf hb hw
    exact ⟨_, rfl, hbank, hgroups, fun a => congrArg (mread · a) hmem⟩
  case zero =>
    obtain ⟨hbank, hgroups, hmem⟩ := bankOn_scratchpad hf hb hw
    exact ⟨_, rfl, hbank, hgroups, fun a => (congrArg (mread · a) hmem).trans (byte_zero ..)⟩
  case retain => exact fun hf hb hl ho => congrArg _ (retainBank_register hf hb hl ho)
  case barrier => exact fun s up hu hw hl => congrArg _ (barCycle_one hu hw rfl hl)
  case add =>
    intro s
    obtain ⟨t, k, ht, hk⟩ := semaphoreAdd_outside (s := s)
    obtain ⟨hmem, ⟨hhub, hctx, hq, -⟩, -⟩ := frame_of_outside hk
    have htables := semAdd_hostTables s s.arg.a s.arg.b
    refine ⟨t, ht, fun n => ?_, fun a => congrArg (mread · a) (hmem.trans (semAdd_mem ..)), hctx.trans (congrArg Prod.fst htables),
      hq.trans (congrArg Prod.snd htables)⟩
    rw [hhub, semAdd_sems, tget_tput]
    by_cases hn : s.arg.a = n
    · simp [hn]
    · simp [hn, Ne.symm hn]
  case table => exact fun s n o h => congrArg _ (storeSems_one h)
  case register =>
    exact fun s r o h ha => ⟨fun hn => congrArg _ (storeRegs_stores h ha hn), fun i hi => congrArg _ (storeRegs_acts h ha hi)⟩

end Sys2Proof.Proofs
end

section
/-! What `exit` leaves of its sub-group (O10): neither its drain nor the withdrawal of its acquisitions moves it from its word. -/
namespace Sys2Proof.Machine
open Laws

section
variable (s : State) (k e : Nat)

/-- A landing moves no sub-group from its word. -/
theorem land_here (w : Wr) : ((s.land k e w).sub k e).here = (s.sub k e).here := by
  obtain ⟨sh, hc⟩ := capture_eq (s.group k) e w
  obtain ⟨hsubs, -⟩ := land_elsewhere s k e w
  unfold State.sub Group.sub
  cases w with
  | s | h =>
    simp only [State.land, hc]
    split_ifs
    · rfl
    · rw [group_setGroup_self]
      simp [Group.setSub, Sub.here, Group.sub]
  | _ => rw [hsubs nofun]

theorem lands_here (ws : List Wr) : ((ws.foldl (fun t w => t.land k e w) s).sub k e).here = (s.sub k e).here :=
  foldl_keeps (fun t : State => (t.sub k e).here) (fun _ _ => land_here ..) ws s

theorem landDue_here (T : Nat) (more : List (Nat × List Wr)) : ((s.landDue k e T more).sub k e).here = (s.sub k e).here := by
  refine (foldl_keeps (fun t : State => (t.sub k e).here) (fun _ _ => lands_here ..) _ _).trans ?_
  rw [sub_setSub_self]
  rfl

theorem drain_here : ((s.drain k e).sub k e).here = (s.sub k e).here := by
  unfold State.drain
  dsimp only
  rw [sub_setSub_self]
  exact landDue_here ..

theorem withdraw_groups (u id : Nat) : (s.withdraw u id).groups = s.groups := by
  unfold State.withdraw
  dsimp only
  split
  · rfl
  · rw [setCore_groups, setBlock_groups]

/-- Withdrawals leave every sub-group as it was. -/
theorem withdrawals_sub (u : Nat) (p : Nat → Bool) (id : Nat → Nat) (js : List Nat) :
    (js.foldl (fun t j => if p j then t.withdraw u (id j) else t) s).sub k e = s.sub k e :=
  congrArg (Group.sub · e) (group_congr (foldl_keeps State.groups (fun t j => by split <;> [exact withdraw_groups ..; rfl]) js s) k)
end

section
variable {s : State} {k e : Nat}

/-- A drain whose banks are on goes on, from the same word. -/
theorem drainGate_met (h : s.asleep k (s.drainBanks k e) = []) : ∃ t, s.drainGate k e = .met t ∧ (t.sub k e).here = (s.sub k e).here := by
  unfold State.drainGate State.needBanks
  simp only [h]
  refine ⟨_, rfl, ?_⟩
  have hgroups (js : List Nat) :
      (if kindOf k = .lattice then (s.drain k e).settleBanks (unitOfGroup k) js else s.drain k e).groups = (s.drain k e).groups := by
    split <;> simp only [settleBanks_groups]
  unfold State.sub
  rw [group_congr (hgroups _)]
  exact drain_here ..
end

end Sys2Proof.Machine

namespace Sys2Proof.Proofs
open Machine Laws

/-- Settles O10: nothing holds the word, which stands where it stood when its sub-group is left exited. -/
theorem exitEndsSubGroup : Obligations.ExitEndsSubGroup := by
  unfold Obligations.ExitEndsSubGroup
  intro f s s' cx h ha hbusy hawake
  obtain ⟨t, ht, hhere⟩ := drainGate_met hawake
  have hlast : ((s'.group cx.k).subs.all (fun p => p.1 == cx.e || p.2.st == 0 || p.2.st == 3) && s'.fabricBusy cx.k) = false := by
    rcases hbusy with hb | ⟨p, hp, hne, h0, h3⟩
    · rw [hb, Bool.and_false]
    · rw [List.all_eq_false.2 ⟨p, hp, by simp [hne, h0, h3]⟩, Bool.false_and]
  have hexec : exec (.exit f) s = _ := issue_effect _ h (.inl ha)
  simp only [hlast, ht, Bool.false_eq_true, if_false] at hexec
  refine ⟨_, hexec, ?_⟩
  rw [sub_setSub_self]
  exact ⟨rfl, (congrArg Sub.here (withdrawals_sub ..)).trans hhere, rfl, rfl, rfl⟩

end Sys2Proof.Proofs
end


section
/-! What follows a word's effect, by the effect's kind: each clause about a word is then a fact about its effect alone. -/
namespace Sys2Proof.Machine
open Laws

/-- The state that effect `r` of word `cx` leads to from state `s`. -/
def State.afterEffect (s : State) (cx : Cx) (r : Eff) : State :=
  match r with
  | .ok t wrs lat => s.retiredTo t cx wrs lat
  | .jump t wrs x bad => s.retiredJump t cx wrs x bad
  | .gone t => t
  | .trap t x => t.takeTrap cx.k cx.e x
  | .wait t kind item addr2 => t.waitFor cx.k cx.e kind item addr2
  | .stall t => t

section
variable {i : Instr} {gd : Guarding} {f : Cx → State → Eff}

/-- A word that can take effect goes on as its effect says. -/
theorem exec_afterEffect {s s' : State} {cx : Cx} (hexec : ∀ s, exec i s = issue i gd f s) (h : s.readyFor i gd = some (cx, s'))
    (ha : cx.act ≠ 0 ∨ gd = .always) : exec i s = .next (s'.afterEffect cx (f cx s')) := by
  rw [hexec, issue_effect f h ha]
  cases f cx s' <;> rfl

/-- A word that can take effect has passed the checks of R121. -/
theorem decodeTrap_of_ready {s s' : State} {cx : Cx} (h : s.readyFor i gd = some (cx, s')) :
    ∃ t : State, t.decodeTrap (kindOf cx.k) (t.blockOf cx.k).rv.permUcode i = none := by
  unfold State.readyFor at h
  split at h
  · split at h
    · cases h
    next t ht =>
    dsimp only at h
    split at h
    · cases h
    next hd =>
    split at h
    · cases h
    split at h
    · cases h
    · cases h
      exact ⟨t, Option.not_isSome_iff_eq_none.1 hd⟩
  · cases h

/-- Its modifier is defined (R121 check 5). -/
theorem modOk_of_ready {s s' : State} {cx : Cx} (h : s.readyFor i gd = some (cx, s')) : (shape (kindOf cx.k) i).modOk = true := by
  obtain ⟨t, ht⟩ := decodeTrap_of_ready h
  by_contra hm
  have hfail : (shape (kindOf cx.k) i).fail ≠ none := by
    unfold Shape.fail
    split_ifs <;> simp_all
  unfold State.decodeTrap at ht
  dsimp only at ht
  split_ifs at ht
  split at ht
  · contradiction
  · cases ht
  · cases ht

/-- A word completes as `T` says where its effect does. -/
theorem completesIf {pre : Cx → State → Prop} {T : Cx → State → State} (hexec : ∀ s, exec i s = issue i gd f s)
    (h : ∀ cx s, pre cx s → s.afterEffect cx (f cx s) = T cx s) : CompletesIf i gd pre T :=
  fun _ s' cx hr ha hp => (exec_afterEffect hexec hr ha).trans (congrArg _ (h cx s' hp))

theorem completesAs {T : Cx → State → State} (hexec : ∀ s, exec i s = issue i gd f s) (h : ∀ cx s, s.afterEffect cx (f cx s) = T cx s) :
    CompletesAs i gd T :=
  completesIf hexec fun cx s _ => h cx s
end

end Sys2Proof.Machine
end

section
/-! Two's complement (R12): the bits of an integer, and what they read as. -/
namespace Sys2Proof
open Machine

theorem bitsOf_lt (n : Nat) (x : Int) : bitsOf n x < 2 ^ n := by
  have hpos : (0 : Int) < (2 ^ n : Nat) := mod_cast Nat.two_pow_pos n
  have := Int.emod_lt_of_pos x hpos
  have := Int.emod_nonneg x hpos.ne'
  unfold bitsOf
  omega

theorem natCast_bitsOf (n : Nat) (x : Int) : (bitsOf n x : Int) = x % 2 ^ n := by
  rw [bitsOf, Int.toNat_of_nonneg (Int.emod_nonneg _ (by positivity))]
  norm_cast

/-- The bits of a number that fits are the number. -/
theorem bitsOf_natCast {n m : Nat} (h : m < 2 ^ n) : bitsOf n m = m := by
  rw [bitsOf, ← Int.natCast_emod, Nat.mod_eq_of_lt h, Int.toNat_natCast]

theorem sext_eq_bmod {n : Nat} (hn : 0 < n) (b : Nat) : sext n b = (b : Int).bmod (2 ^ n) := by
  obtain ⟨m, rfl⟩ := Nat.exists_eq_succ_of_ne_zero hn.ne'
  have hhalf : (2 ^ (m + 1) + 1) / 2 = 2 ^ m := by omega
  simp only [sext, Int.bmod_def, Nat.succ_eq_add_one, Nat.add_sub_cancel, Nat.add_one_ne_zero, if_false]
  rw [← Int.natCast_emod]
  have : ((b % 2 ^ (m + 1) : Nat) : Int) < ((2 ^ (m + 1) : Nat) + 1 : Int) / 2 ↔ b % 2 ^ (m + 1) < 2 ^ m := by omega
  simp only [this]

/-- The bits of an integer read as the integer, where it lies in their signed range. -/
theorem sext_bitsOf {n : Nat} (hn : 0 < n) {x : Int} (hlo : -2 ^ (n - 1) ≤ x) (hhi : x < 2 ^ (n - 1)) : sext n (bitsOf n x) = x := by
  obtain ⟨m, rfl⟩ := Nat.exists_eq_succ_of_ne_zero hn.ne'
  rw [sext_eq_bmod hn, natCast_bitsOf, show (2 : Int) ^ m.succ = (2 ^ m.succ : Nat) by norm_cast, Int.emod_bmod]
  rw [Nat.succ_sub_one] at hlo hhi
  apply Int.bmod_eq_of_le <;> push_cast <;> omega

theorem sext_range {n : Nat} (hn : 0 < n) (b : Nat) : -2 ^ (n - 1) ≤ sext n b ∧ sext n b < 2 ^ (n - 1) := by
  obtain ⟨m, rfl⟩ := Nat.exists_eq_succ_of_ne_zero hn.ne'
  have hlo := Int.le_bmod (x := b) (Nat.two_pow_pos m.succ)
  have hhi := Int.bmod_lt (x := b) (Nat.two_pow_pos m.succ)
  rw [sext_eq_bmod hn, Nat.succ_sub_one]
  push_cast at hlo hhi
  omega

end Sys2Proof
end

section
/-! The results of the scalar integer instructions (R185-R188), on strings of any width. -/
namespace Sys2Proof.Machine
open Laws

section
variable {W a b : Nat}

/-! ### Saturation (R163) -/

theorem sext_satS (hW : 0 < W) (x : Int) : sext W (satS W x) = satInt x (-(2 ^ (W - 1))) (2 ^ (W - 1) - 1) := by
  have hpos : (0 : Int) < 2 ^ (W - 1) := by positivity
  unfold satS
  push_cast
  apply sext_bitsOf hW <;> unfold satInt <;> split_ifs <;> omega

theorem satU_eq_min (W : Nat) (x : Int) : satU W x = min x.toNat (2 ^ W - 1) := by
  have hpos := Nat.two_pow_pos W
  unfold satU
  obtain ⟨m, hm, hlt⟩ : ∃ m : Nat, satInt x 0 ((2 ^ W : Nat) - 1) = m ∧ m = min x.toNat (2 ^ W - 1) :=
    ⟨_, by unfold satInt; split_ifs <;> omega, rfl⟩
  rw [hm, bitsOf_natCast (by omega), hlt]

/-! ### Sums, differences and products (R185) -/

theorem addSat_wrap {m : Nat} (h1 : m % 4 ≠ 1) (h2 : m % 4 ≠ 2) : addSat m W a b = (a + b) % 2 ^ W := by
  unfold addSat
  split <;> simp_all

theorem subSat_wrap {m : Nat} (h1 : m % 4 ≠ 1) (h2 : m % 4 ≠ 2) : subSat m W a b = bitsOf W (a - b) := by
  unfold subSat
  split <;> simp_all

/-- A difference that wraps makes up the first operand with the second. -/
theorem bitsOf_sub_add (W a b : Nat) : (bitsOf W ((a : Int) - b) + b) % 2 ^ W = a % 2 ^ W := by
  zify
  rw [natCast_bitsOf, Int.emod_add_emod, sub_add_cancel]

/-- A quotient by a positive number lies in a range that `d` times as wide a one gives. -/
theorem ediv_range {x B d : Int} (hd : 0 < d) (hlo : -(B * d) ≤ x) (hhi : x < B * d) : -B ≤ x / d ∧ x / d < B :=
  ⟨(Int.le_ediv_iff_mul_le hd).2 (by rwa [neg_mul]), Int.ediv_lt_of_lt_mul hd hhi⟩

theorem sext_mulHigh (hW : 0 < W) : sext W (mulHigh true W a b) = sext W a * sext W b / 2 ^ W := by
  have hpos : (0 : Int) < 2 ^ (W - 1) := by positivity
  have htwo : (2 : Int) ^ W = 2 * 2 ^ (W - 1) := by rw [← pow_succ', Nat.sub_add_cancel hW]
  have hprod : |sext W a * sext W b| ≤ 2 ^ (W - 1) * 2 ^ (W - 1) := by
    rw [abs_mul]
    exact mul_le_mul (abs_le.2 ((sext_range hW a).imp_right le_of_lt)) (abs_le.2 ((sext_range hW b).imp_right le_of_lt)) (abs_nonneg _) hpos.le
  obtain ⟨hlo, hhi⟩ := abs_le.1 hprod
  obtain ⟨hlo, hhi⟩ := ediv_range (x := sext W a * sext W b) (B := 2 ^ (W - 1)) (d := 2 ^ W) (by positivity)
    (by rw [htwo]; nlinarith) (by rw [htwo]; nlinarith)
  simp only [mulHigh, if_true]
  push_cast
  exact sext_bitsOf hW hlo hhi

/-! ### Bits (R185) -/

theorem testBit_andNot {j : Nat} (hj : j < W) : (andNot W a b).testBit j = (a.testBit j && !b.testBit j) := by
  simp [andNot, hj]

theorem leadingZeros_of_ne_zero (h : a % 2 ^ W ≠ 0) :
    leadingZeros W a < W ∧ 2 ^ (W - 1 - leadingZeros W a) ≤ a % 2 ^ W ∧ a % 2 ^ W < 2 ^ (W - leadingZeros W a) := by
  have hlog : Nat.log2 (a % 2 ^ W) < W := (Nat.log2_lt h).2 (Nat.mod_lt _ (Nat.two_pow_pos W))
  have hz : leadingZeros W a = W - 1 - Nat.log2 (a % 2 ^ W) := if_neg h
  rw [hz, show W - 1 - (W - 1 - Nat.log2 (a % 2 ^ W)) = Nat.log2 (a % 2 ^ W) by omega,
    show W - (W - 1 - Nat.log2 (a % 2 ^ W)) = Nat.log2 (a % 2 ^ W) + 1 by omega]
  exact ⟨by omega, Nat.log2_self_le h, Nat.lt_log2_self⟩

theorem onesCount_eq_sum (W a : Nat) : onesCount W a = ((List.range W).map (fun j => a / 2 ^ j % 2)).sum := by
  unfold onesCount
  induction List.range W with
  | nil => rfl
  | cons j l ih =>
    rcases Nat.mod_two_eq_zero_or_one (a / 2 ^ j) with h | h <;> simp [bitAt, h, ih, Nat.add_comm]

/-! ### Minimum and maximum (R185) -/

theorem lesser_spec (sgn : Bool) : (lesser sgn W a b = a ∨ lesser sgn W a b = b) ∧
    (if sgn = true then sext W (lesser sgn W a b) ≤ sext W a ∧ sext W (lesser sgn W a b) ≤ sext W b
      else lesser sgn W a b ≤ a ∧ lesser sgn W a b ≤ b) := by
  unfold lesser
  cases sgn
  · simp only [Bool.false_eq_true, if_false]; omega
  · simp only [if_true]; split_ifs with h <;> simp <;> omega

theorem greater_spec (sgn : Bool) : (greater sgn W a b = a ∨ greater sgn W a b = b) ∧
    (if sgn = true then sext W a ≤ sext W (greater sgn W a b) ∧ sext W b ≤ sext W (greater sgn W a b)
      else a ≤ greater sgn W a b ∧ b ≤ greater sgn W a b) := by
  unfold greater
  cases sgn
  · simp only [Bool.false_eq_true, if_false]; omega
  · simp only [if_true]; split_ifs with h <;> simp <;> omega

/-! ### Shifts and bit fields (R186) -/

theorem sext_shiftA (hW : 0 < W) (a m : Nat) : sext W (shiftA W a m) = sext W a / 2 ^ min m (W - 1) := by
  have hd : (1 : Int) ≤ 2 ^ min m (W - 1) := one_le_pow₀ (by norm_num)
  have hpos : (0 : Int) < 2 ^ (W - 1) := by positivity
  obtain ⟨hlo, hhi⟩ := sext_range hW a
  obtain ⟨hlo, hhi⟩ := ediv_range (x := sext W a) (B := 2 ^ (W - 1)) (d := 2 ^ min m (W - 1)) (by positivity) (by nlinarith) (by nlinarith)
  unfold shiftA
  push_cast
  exact sext_bitsOf hW hlo hhi

/-- A field of no more than `W` bits reads the same in `W` bits. -/
theorem sext_bitsOf_sext {n : Nat} (hn : 0 < n) (hW : n ≤ W) (x : Nat) : sext W (bitsOf W (sext n x)) = sext n x := by
  have hpow : (2 : Int) ^ (n - 1) ≤ 2 ^ (W - 1) := pow_le_pow_right₀ (by norm_num) (by omega)
  obtain ⟨hlo, hhi⟩ := sext_range hn x
  exact sext_bitsOf (by omega) (by linarith) (by linarith)

theorem testBit_fieldInsert {base v ctl j : Nat} (hj : j < W) : (fieldInsert W base v ctl).testBit j =
    if min (ctl % 256) W ≤ j ∧ j < min (ctl % 256) W + min (ctl / 256 % 256) (W - min (ctl % 256) W) then v.testBit (j - min (ctl % 256) W)
    else base.testBit j := by
  unfold fieldInsert
  simp only [Nat.testBit_or, testBit_andNot hj, Nat.testBit_and, Nat.testBit_mul_two_pow, Nat.testBit_two_pow_sub_one]
  generalize min (ctl % 256) W = p
  generalize min (ctl / 256 % 256) (W - p) = n
  by_cases h : p ≤ j ∧ j < p + n
  · simp [h.1, show j - p < n by omega, h]
  · have hout : (decide (p ≤ j) && decide (j - p < n)) = false := by
      simp only [Bool.and_eq_false_iff, decide_eq_false_iff_not]
      omega
    simp [h, hout]

/-- A string of 16 bits before the low 16 bits of another. -/
theorem toNat_append_setWidth {n : Nat} (x : BitVec 16) (y : BitVec n) : (x ++ y.setWidth 16).toNat = x.toNat * 65536 + y.toNat % 65536 := by
  rw [BitVec.toNat_append, BitVec.toNat_setWidth, ← Nat.shiftLeft_add_eq_or_of_lt (Nat.mod_lt _ (by decide)), Nat.shiftLeft_eq]

/-! ### Division (R187) -/

theorem natCast_bitsOf_sub_emod (W : Nat) (x : Int) : ((bitsOf W x : Int) - x) % 2 ^ W = 0 := by
  rw [natCast_bitsOf, Int.emod_sub_emod, sub_self, Int.zero_emod]

/-- The quotient of the operands, read signed or unsigned. -/
theorem divide_quotient (sgn : Bool) (W a b : Nat) : let x : Int := if sgn = true then sext W a else a
    let y : Int := if sgn = true then sext W b else b
    (y = 0 → (divide sgn W a b).1 = 2 ^ W - 1) ∧
      (y ≠ 0 → (divide sgn W a b).1 < 2 ^ W ∧ (((divide sgn W a b).1 : Int) - x.tdiv y) % 2 ^ W = 0) := by
  intro x y
  refine ⟨fun h => ?_, fun h => ?_⟩
  · rw [divide, if_pos h]
  · rw [divide, if_neg h]
    exact ⟨bitsOf_lt .., natCast_bitsOf_sub_emod ..⟩

/-- What the quotient leaves of the first operand. -/
theorem divide_remainder (sgn : Bool) (W a b : Nat) : let x : Int := if sgn = true then sext W a else a
    let y : Int := if sgn = true then sext W b else b
    (y = 0 → (divide sgn W a b).2 = a) ∧
      (y ≠ 0 → (divide sgn W a b).2 < 2 ^ W ∧ (((divide sgn W a b).2 : Int) - (x - x.tdiv y * y)) % 2 ^ W = 0) := by
  intro x y
  refine ⟨fun h => ?_, fun h => ?_⟩
  · rw [divide, if_pos h]
  · rw [divide, if_neg h]
    exact ⟨bitsOf_lt .., natCast_bitsOf_sub_emod ..⟩
end

end Sys2Proof.Machine
end

section
/-! Scalar integer instructions (O1-O4). -/
namespace Sys2Proof.Machine
open Laws

theorem aluWidth_pos (o : AluForm) : 0 < if aluWide o then 64 else 32 := by
  split <;> decide

/-- A scalar word whose result `r` meets `ok` at every width completes with such a value. -/
theorem scalarGives {i : Instr} {o : AluForm} {b32 zext d32 : Bool} {r : Nat → Nat → Nat → Nat → Nat}
    {ok : Nat → Nat → Nat → Nat → Nat → Prop}
    (hexec : ∀ s, exec i s = issue i .any (aluEff o b32 zext d32 r) s) (h : ∀ W a b c, 0 < W → ok W a b c (r W a b c)) :
    ScalarGives i o b32 zext d32 ok :=
  fun _ _ _ hr ha => ⟨_, exec_afterEffect hexec hr (.inl ha), h _ _ _ _ (aluWidth_pos o)⟩

/-- A division leaves its part of quotient and remainder in its slot. -/
theorem afterEffect_divEff (o : AluForm) (part : Nat × Nat → Nat) (cx : Cx) (s : State) : s.afterEffect cx (divEff o part cx s) =
    s.retiredBusy cx (wrS (aluDst o) (wn (aluWide o)) (part (divide (decide (aluMod o % 2 = 1)) (if aluWide o then 64 else 32)
      (s.aluArgs cx.k cx.e o false false).1 (s.aluArgs cx.k cx.e o false false).2.1))) 0 := by
  rw [← Nat.testBit_zero]
  cases o <;> rfl

/-- Conditions 0 to 9 (R188), in the order of their numbers. -/
theorem scmp_gives (o : AluForm) : ScalarGives (.scmp o) o false false true (fun W a b _ v =>
    v ≤ 1 ∧ (v = 1 ↔ match aluMod o % 16 with
      | 0 => a = b
      | 1 => a ≠ b
      | 2 => sext W a < sext W b
      | 3 => sext W a ≤ sext W b
      | 4 => sext W a > sext W b
      | 5 => sext W a ≥ sext W b
      | 6 => a < b
      | 7 => a ≤ b
      | 8 => a > b
      | _ => a ≥ b)) := by
  refine scalarGives (fun _ => rfl) fun W a b c hW => ⟨by split <;> omega, ?_⟩
  match aluMod o % 16 with
  | 0 | 1 | 2 | 3 | 4 | 5 | 6 | 7 | 8 | n + 9 => simp [cond188]

/-- An immediate reads at its operand's width as it is (R188). -/
theorem aluArgs_immediate (s : State) (k e : Nat) (w : Bool) (f : IForm) :
    sext (if w then 64 else 32) (s.aluArgs k e (.i w f) false false).2.1 = f.imm.toInt := by
  have hlo := BitVec.le_toInt f.imm
  have hhi := BitVec.toInt_lt (x := f.imm)
  cases w
  · exact sext_bitsOf (n := 32) (by decide) (by omega) (by omega)
  · exact sext_bitsOf (n := 64) (by decide) (by omega) (by omega)

/-- Conditions 10 to 15 are undefined modifiers (R188). -/
theorem scmp_undefined {o : AluForm} (h : 10 ≤ aluMod o % 16) (ck : CoreKind) : (shape ck (.scmp o)).modOk = false := by
  have hm : ¬ aluMod o ≤ 9 := by omega
  cases o <;> exact decide_eq_false hm

theorem aluMod_odd (o : AluForm) : bitAt (aluMod o) 0 = true ↔ aluMod o % 2 = 1 := by
  simp [bitAt]

end Sys2Proof.Machine

namespace Sys2Proof.Proofs
open Machine Laws

/-- Settles O1: each result meets its rule at every width. -/
theorem scalarArithmetic : Obligations.ScalarArithmetic := by
  unfold Obligations.ScalarArithmetic
  intro o
  refine ⟨scalarGives (fun _ => rfl) ?sadd, scalarGives (fun _ => rfl) ?ssub, scalarGives (fun _ => rfl) ?smul, scalarGives (fun _ => rfl) ?smulh,
    scalarGives (fun _ => rfl) ?sand, scalarGives (fun _ => rfl) ?sor, scalarGives (fun _ => rfl) ?sxor, scalarGives (fun _ => rfl) ?sandn,
    scalarGives (fun _ => rfl) ?smin, scalarGives (fun _ => rfl) ?smax, scalarGives (fun _ => rfl) ?sclz, scalarGives (fun _ => rfl) ?spop,
    scalarGives (fun _ => rfl) ?ssel, scalarGives (fun _ => rfl) ?smov⟩
  all_goals intro W a b c hW
  case sadd =>
    refine ⟨addSat_wrap, fun h => ?_, fun h => ?_⟩
    · rw [addSat, h]
      exact sext_satS hW _
    · rw [addSat, h]
      exact satU_eq_min W _
  case ssub =>
    refine ⟨fun h1 h2 => ?_, fun h => ?_, fun h => ?_⟩
    · rw [subSat_wrap h1 h2]
      exact ⟨bitsOf_lt .., bitsOf_sub_add ..⟩
    · rw [subSat, h]
      exact sext_satS hW _
    · rw [subSat, h, ← Int.toNat_sub]
      exact satU_eq_min W _
  case smul => rfl
  case smulh =>
    split_ifs with h
    · rw [(aluMod_odd o).2 h]
      exact sext_mulHigh hW
    · rw [mulHigh, if_neg (mt (aluMod_odd o).1 h)]
  case sand => exact fun j => Nat.testBit_and ..
  case sor => exact fun j => Nat.testBit_or ..
  case sxor => exact fun j => Nat.testBit_xor ..
  case sandn => exact fun j hj => testBit_andNot hj
  case smin => simpa only [aluMod_odd] using lesser_spec (W := W) (a := a) (b := b) (bitAt (aluMod o) 0)
  case smax => simpa only [aluMod_odd] using greater_spec (W := W) (a := a) (b := b) (bitAt (aluMod o) 0)
  case sclz =>
    split_ifs with h
    · exact if_pos h
    · exact leadingZeros_of_ne_zero h
  case spop => exact onesCount_eq_sum W a
  case ssel => rfl
  case smov => rfl

/-- Settles O2: shifts and fields at every width; the immediates bit by bit. -/
theorem scalarShiftsFieldsAndConstants : Obligations.ScalarShiftsFieldsAndConstants := by
  unfold Obligations.ScalarShiftsFieldsAndConstants
  refine ⟨fun o => ⟨scalarGives (fun _ => rfl) ?sshl, scalarGives (fun _ => rfl) ?sshr, scalarGives (fun _ => rfl) ?ssra,
    scalarGives (fun _ => rfl) ?sbfx, scalarGives (fun _ => rfl) ?sbfi⟩, fun f => ⟨?i32, ?n32, ?i64, ?hi⟩⟩
  case sshl => exact fun W a b c hW => rfl
  case sshr => exact fun W a b c hW => rfl
  case ssra => exact fun W a b c hW => sext_shiftA hW a b
  case sbfx =>
    intro W a b c hW p n
    have hn : n ≤ W := (Nat.min_le_right ..).trans (Nat.sub_le ..)
    simp only [fieldExtract, Bool.and_eq_true, decide_eq_true_eq, aluMod_odd]
    split_ifs with h
    · exact sext_bitsOf_sext h.2 hn _
    · rfl
  case sbfi =>
    intro W a b c hW
    cases o <;> exact fun j hj => testBit_fieldInsert hj
  case i32 => exact completesAs (fun _ => rfl) fun cx s => rfl
  case n32 =>
    exact completesAs (fun _ => rfl) fun cx s =>
      congrArg (fun v => s.retired cx (wrS f.dst.toNat 1 v) 1) (BitVec.toNat_setWidth_of_le (by decide)).symm
  case i64 => exact completesAs (fun _ => rfl) fun cx s => rfl
  case hi =>
    exact completesAs (fun _ => rfl) fun cx s => congrArg (fun v => s.retired cx (wrS f.dst.toNat 1 v) 1) (toNat_append_setWidth ..).symm

/-- Settles O3: the quotient and the remainder, as bits, differ from the integers by a multiple of 2^W. -/
theorem scalarDivision : Obligations.ScalarDivision := by
  unfold Obligations.ScalarDivision
  intro o s s' cx ha W a b x y
  refine ⟨fun h => ⟨_, (exec_afterEffect (fun _ => rfl) h (.inl ha)).trans (congrArg _ (afterEffect_divEff ..)), ?quotient⟩,
    fun h => ⟨_, (exec_afterEffect (fun _ => rfl) h (.inl ha)).trans (congrArg _ (afterEffect_divEff ..)), ?remainder⟩⟩
  case quotient => simpa only [decide_eq_true_eq] using divide_quotient (decide (aluMod o % 2 = 1)) W a b
  case remainder => simpa only [decide_eq_true_eq] using divide_remainder (decide (aluMod o % 2 = 1)) W a b

/-- Settles O4: the comparisons one by one; an undefined condition fails the word's modifier check, so that it never takes effect. -/
theorem scalarCompare : Obligations.ScalarCompare := by
  unfold Obligations.ScalarCompare
  refine ⟨scmp_gives, aluArgs_immediate, fun o h => ⟨scmp_undefined h, fun s s' cx hr => ?_⟩, fun f s s' cx hr ha => ?_⟩
  · exact absurd (scmp_undefined h _) (by rw [modOk_of_ready hr]; decide)
  · obtain ⟨v, hexec, -, hv⟩ := scmp_gives _ s s' cx hr ha
    refine ⟨v, hexec, hv.trans ?_⟩
    have ha : (s'.aluArgs cx.k cx.e (.i false { f with mod := 6, imm := -1 }) false false).1 < 2 ^ 32 := (s'.opS cx.k cx.e f.src0).isLt
    show (s'.aluArgs cx.k cx.e (.i false { f with mod := 6, imm := -1 }) false false).1 < 0xFFFFFFFF ↔ _
    omega

end Sys2Proof.Proofs
end

section
/-! Predicates and special registers (O5), branches (O6), `nop`, `yield` and `swait` (O7). -/
namespace Sys2Proof.Machine
open Laws

/-- Lane l of an immediate beside itself is its bit l mod 16 (R196). -/
theorem getLsbD_append_self (x : BitVec 16) {l : Nat} (hl : l < 32) : (x ++ x).getLsbD l = x.getLsbD (l % 16) := by
  rw [BitVec.getLsbD_append]
  split_ifs with h
  · rw [Nat.mod_eq_of_lt h]
  · rw [show l % 16 = l - 16 by omega]

/-- No lane of `lanes` is off just where those that are on are all of them. -/
theorem and_not_eq_zero_iff (p lanes : W32) : lanes &&& ~~~p = 0 ↔ p &&& lanes = lanes := by
  constructor
  all_goals
    intro h
    ext i hi
    have hbit := congrArg (·[i]) h
    simp only [BitVec.getElem_and, BitVec.getElem_not] at hbit ⊢
    cases hp : p[i] <;> simp_all

theorem length_lanesOf_and (p lanes : W32) :
    (lanesOf (p &&& lanes)).length = (List.range 32).countP (fun l => p.getLsbD l && lanes.getLsbD l) := by
  simp only [lanesOf, BitVec.getLsbD_and, List.countP_eq_length_filter]

/-! ### Transfers of control (R189, R190) -/

/-- The target of a branch, in the 40 bits of an offset (R104). -/
theorem branchTarget_eq (x : Sub) (off : BitVec 29) : let t : Int := (x.clauseStart : Int) + 8 * off.toInt
    branchTarget x off = ((t % 2 ^ 40).toNat, decide (t < 0 ∨ 2 ^ 40 ≤ t)) :=
  Prod.ext rfl (Bool.decide_or ..).symm

section
variable {f : BForm} {taken : Cx → State → Bool} {cx : Cx} {s : State}

theorem branchIf_taken (h : taken cx s = true) : branchIf f taken cx s =
    .jump s [] (branchTarget (s.sub cx.k cx.e) f.off).1 (branchTarget (s.sub cx.k cx.e) f.off).2 := by
  rw [branchIf, if_pos h]

theorem branchIf_passed (h : taken cx s = false) : branchIf f taken cx s = .ok s [] 1 := by
  rw [branchIf, if_neg (by simp [h])]
end

theorem jumpTo_aligned {s : State} {v : Nat} {wrs : List Wr} (h : v % 8 = 0) : jumpTo s v wrs = .jump s wrs (v % 2 ^ 40) (decide (2 ^ 40 ≤ v)) :=
  if_neg (not_not.2 h)

theorem jumpTo_misaligned {s : State} {v : Nat} {wrs : List Wr} (h : v % 8 ≠ 0) : jumpTo s v wrs = .trap s { cause := 0x09, addr := v } :=
  if_pos h

/-! ### Waits on slots (R144, R194) -/

theorem maskSlots_toNat (x : BitVec 16) : maskSlots (x.toNat % 64) = (List.range 6).filter (fun j => x.getLsbD j) := by
  refine List.filter_congr fun j hj => ?_
  have hj := List.mem_range.1 hj
  rw [bitAt_eq_testBit, show 64 = 2 ^ 6 from rfl, Nat.testBit_mod_two_pow, decide_eq_true hj, Bool.true_and]
  rfl

section
variable {s : State} {k e : Nat} {js : List Nat}

theorem awaitSlots_met (hbusy : ∀ j ∈ js, ((s.sub k e).slot j).st ≠ .busy) (htrap : (s.sub k e).slotTrap js = none)
    (hbanks : s.asleep k (s.landBanks k e js) = []) : s.awaitSlots k e js = .met (s.landSlots k e js) := by
  have hfind : js.find? (fun j => ((s.sub k e).slot j).st == .busy) = none := List.find?_eq_none.2 fun j hj => by simpa using hbusy j hj
  simp only [State.awaitSlots, hfind, htrap, State.needBanks, hbanks]

theorem awaitSlots_busy {j : Nat} (h : js.find? (fun j => ((s.sub k e).slot j).st == .busy) = some j) :
    s.awaitSlots k e js = .blocked (s.slotWait k e j) := by
  simp only [State.awaitSlots, h]
end

/-- The first of some rising numbers that meets `p`. -/
theorem find?_eq_some_of_first {p : Nat → Bool} {j : Nat} {js : List Nat} (hs : js.Pairwise (· < ·)) (hj : j ∈ js) (hp : p j = true)
    (hfirst : ∀ i ∈ js, i < j → p i = false) : js.find? p = some j := by
  induction js with
  | nil => cases hj
  | cons i js ih =>
    obtain ⟨hi, hs⟩ := List.pairwise_cons.1 hs
    rcases List.mem_cons.1 hj with rfl | hj
    · exact List.find?_cons_of_pos hp
    · rw [List.find?_cons_of_neg (by simp [hfirst i (List.mem_cons_self ..) (hi j hj)])]
      exact ih hs hj fun i' hi' => hfirst i' (List.mem_cons_of_mem _ hi')

theorem firstBelow_eq_some {p : Nat → Bool} {j n : Nat} (hj : j < n) (hp : p j = true) (hfirst : ∀ i, i < j → p i = false) :
    firstBelow p n = some j :=
  find?_eq_some_of_first List.pairwise_lt_range (List.mem_range.2 hj) hp fun i _ => hfirst i

theorem firstBelow_eq_none {p : Nat → Bool} {n : Nat} : firstBelow p n = none ↔ ∀ i, i < n → p i = false := by
  simp [firstBelow, List.find?_eq_none]

end Sys2Proof.Machine

namespace Sys2Proof.Proofs
open Machine Laws

/-- Settles O5: each word's one effect is its result. -/
theorem predicatesAndSpecialRegisters : Obligations.PredicatesAndSpecialRegisters := by
  unfold Obligations.PredicatesAndSpecialRegisters
  refine ⟨fun f => ⟨?pand, ?por, ?pxor, ?pandn, ?pnot, ?pmov, ?pmovImm, ?pfroms, ?ptos, ?pany, ?pall, ?ppop⟩, fun w f => ⟨?sget, ?sset⟩⟩
  case pmovImm =>
    exact fun g => ⟨g.imm ++ g.imm, fun l hl => getLsbD_append_self _ hl, completesAs (fun _ => rfl) fun cx s => rfl⟩
  case pall =>
    refine completesAs (fun _ => rfl) fun cx s => ?_
    simp only [and_not_eq_zero_iff]
    rfl
  case ppop =>
    refine completesAs (fun _ => rfl) fun cx s => ?_
    rw [← length_lanesOf_and]
    rfl
  all_goals exact completesAs (fun _ => rfl) fun cx s => rfl

/-- Settles O6: the target is taken modulo 2^40 and a target outside its range is marked. -/
theorem branches : Obligations.Branches := by
  unfold Obligations.Branches
  intro w f g target goes
  have taken {p : Cx → State → Bool} {cx : Cx} {s : State} (h : p cx s = true) : s.afterEffect cx (branchIf f p cx s) = goes cx s [] := by
    rw [branchIf_taken h, branchTarget_eq]
    rfl
  have passed {p : Cx → State → Bool} {cx : Cx} {s : State} (h : p cx s = false) : s.afterEffect cx (branchIf f p cx s) = s.retired cx [] 1 := by
    rw [branchIf_passed h]
    rfl
  refine ⟨?br, ?bz, ?bnz, ?bl, ?jr, ?jl, ?jrTraps, ?jlTraps⟩
  case br => exact completesAs (fun _ => rfl) fun cx s => taken rfl
  case bz =>
    refine completesAs (fun _ => rfl) fun cx s => ?_
    split_ifs with h
    · exact taken (beq_iff_eq.2 h)
    · exact passed (beq_eq_false_iff_ne.2 h)
  case bnz =>
    refine completesAs (fun _ => rfl) fun cx s => ?_
    split_ifs with h
    · exact passed (bne_eq_false_iff_eq.2 h)
    · exact taken (bne_iff_ne.2 h)
  case bl =>
    refine completesAs (fun _ => rfl) fun cx s => ?_
    dsimp only
    rw [branchTarget_eq]
    rfl
  case jr | jl => exact completesIf (fun _ => rfl) fun cx s h => congrArg (s.afterEffect cx) (jumpTo_aligned h)
  case jrTraps | jlTraps => exact completesIf (fun _ => rfl) fun cx s h => congrArg (s.afterEffect cx) (jumpTo_misaligned h)

/-- Settles O7: `swait` names the slots of its immediate's low bits, in rising order. -/
theorem nopYieldAndWaits : Obligations.NopYieldAndWaits := by
  unfold Obligations.NopYieldAndWaits
  intro f g named
  have hnamed : maskSlots (g.imm.toNat % 64) = named := maskSlots_toNat _
  refine ⟨completesAs (fun _ => rfl) fun cx s => rfl, completesAs (fun _ => rfl) fun cx s => rfl, ?lands, fun j hj => ?waits⟩
  case lands =>
    refine completesIf (fun _ => rfl) fun cx s ⟨hbusy, htrap, hbanks⟩ => ?_
    rw [hnamed, awaitSlots_met hbusy htrap hbanks]
    rfl
  case waits =>
    refine completesIf (fun _ => rfl) fun cx s ⟨hbusy, hfirst⟩ => ?_
    rw [hnamed, awaitSlots_busy (find?_eq_some_of_first (List.pairwise_lt_range.filter _) hj (beq_iff_eq.2 hbusy)
      fun i hi hlt => beq_eq_false_iff_ne.2 (hfirst i hi hlt))]
    rfl

end Sys2Proof.Proofs
end

section
/-! Splits and fuses (O8). -/
namespace Sys2Proof.Machine
open Laws

/-! ### Split and fuse (R134, R135, R191) -/

/-- The effect of `split`, once its sub-group is settled in state `t`. -/
def State.splitEff (t : State) (f : BForm) (cx : Cx) : Eff :=
  let x := t.sub cx.k cx.e
  let g := t.group cx.k
  let taken := t.active cx.k cx.e (commonOf cx.i) &&& t.opP cx.k f.cond
  let target := branchTarget x f.off
  if taken = 0 then .ok t [] 1
  else if x.lanes &&& ~~~taken = 0 then .jump t [] target.1 target.2
  else match firstBelow (fun n => (g.sub n).st == 0) 8, firstBelow (fun r => !(tget (false, 7) g.pairs r).1) 7 with
    | some n, some r => .gone (t.splitSub cx taken target.1 target.2 n r)
    | _, _ => .trap t { cause := 0x0C }

/-- The effect of `fuse`, once its sub-group is settled in state `t`. -/
def State.fuseEff (t : State) (cx : Cx) : Eff :=
  let g := t.group cx.k
  let x := g.sub cx.e
  if x.pair = 7 then .ok t [] 1
  else if g.arrived cx.e x.here then .gone (t.mergeSubs cx.k cx.e)
  else .wait (t.setSub cx.k cx.e { x with st := 2 }) 6 x.here (g.sub ((g.siblings cx.e).headD cx.e)).st

section
variable {f : BForm} {g : TForm} {t : State} {pre : Cx → State → Prop} {T : Cx → State → State}

theorem split_completesIf (h : ∀ cx s, pre cx s → s.afterEffect cx (t.splitEff f cx) = T cx s) :
    CompletesIf (.split f) .any (fun cx s => s.settle cx.k cx.e = .met t ∧ pre cx s) T := by
  refine completesIf (fun _ => rfl) fun cx s ⟨ht, hp⟩ => ?_
  rw [← h cx s hp]
  dsimp only
  rw [ht]
  rfl

theorem fuse_completesIf (h : ∀ cx s, pre cx s → s.afterEffect cx (t.fuseEff cx) = T cx s) :
    CompletesIf (.fuse g) .any (fun cx s => s.settle cx.k cx.e = .met t ∧ pre cx s) T := by
  refine completesIf (fun _ => rfl) fun cx s ⟨ht, hp⟩ => ?_
  rw [← h cx s hp]
  dsimp only
  rw [ht]
  rfl
end

end Sys2Proof.Machine

namespace Sys2Proof.Proofs
open Machine Laws

/-- Settles O8: what the settled sub-group's lanes, and its group's free entries and pair records, decide. -/
theorem splitAndFuse : Obligations.SplitAndFuse := by
  unfold Obligations.SplitAndFuse
  intro f g t taken rest target
  refine ⟨split_completesIf fun cx s h => ?passes, split_completesIf fun cx s ⟨h, hrest⟩ => ?branches,
    fun n r => split_completesIf fun cx s ⟨h, hrest, ⟨hn, hfree, hlow⟩, ⟨hr, hpair, hlowPair⟩⟩ => ?splits,
    split_completesIf fun cx s ⟨h, hrest, hfull⟩ => ?traps,
    fuse_completesIf fun cx s h => ?alone, fuse_completesIf fun cx s ⟨h, harrived⟩ => ?merges⟩
  case passes => exact congrArg (s.afterEffect cx) (if_pos h)
  case branches => exact congrArg (s.afterEffect cx) ((if_neg h).trans (if_pos hrest))
  case splits =>
    have hentry : firstBelow (fun n => ((t.group cx.k).sub n).st == 0) 8 = some n :=
      firstBelow_eq_some hn (beq_iff_eq.2 hfree) fun i hi => beq_eq_false_iff_ne.2 (hlow i hi)
    have hrecord : firstBelow (fun r => !(tget (false, 7) (t.group cx.k).pairs r).1) 7 = some r :=
      firstBelow_eq_some hr (by rw [hpair]; rfl) fun i hi => by rw [hlowPair i hi]; rfl
    have heff : t.splitEff f cx = .gone (t.splitSub cx (taken cx) (target cx).1 (target cx).2 n r) :=
      (if_neg h).trans ((if_neg hrest).trans (by rw [hentry, hrecord]))
    exact congrArg (s.afterEffect cx) heff
  case traps =>
    have heff : t.splitEff f cx = .trap t { cause := 0x0C } := by
      refine (if_neg h).trans ((if_neg hrest).trans ?_)
      rcases hfull with hentries | hrecords
      · rw [firstBelow_eq_none.2 fun i hi => beq_eq_false_iff_ne.2 (hentries i hi)]
      · have hrecord : firstBelow (fun r => !(tget (false, 7) (t.group cx.k).pairs r).1) 7 = none :=
          firstBelow_eq_none.2 fun i hi => by rw [hrecords i hi]; rfl
        rw [hrecord]
        split
        · next hnone => cases hnone
        · rfl
    exact congrArg (s.afterEffect cx) heff
  case alone => exact congrArg (s.afterEffect cx) (if_pos h)
  case merges => exact congrArg (s.afterEffect cx) ((if_neg h).trans (if_pos harrived))

end Sys2Proof.Proofs
end

section
/-! `trap` and `brk` (O11): their words, and what the entry to a handler writes into the trap registers (R386-R388). -/
namespace Sys2Proof.Machine
open Laws

/-! ### The entry to a handler -/

/-- What a table's entries keep through `f`, its entry at `i` keeps. -/
theorem tget_map_keeps {α γ : Type} (p : α → γ) {f : α → α} (hf : ∀ x, p (f x) = p x) (d : α) (t : Tab α) (i : Nat) :
    p (tget d (t.map fun q => (q.1, f q.2)) i) = p (tget d t i) := by
  induction t with
  | nil => rfl
  | cons q t ih =>
    simp only [List.map_cons, tget]
    split
    · exact hf q.2
    · exact ih

section
variable (s : State) (k e : Nat)

@[simp] theorem wakeReg_accesses (u j : Nat) : (s.wakeReg u j).accesses = s.accesses := by
  unfold State.wakeReg
  dsimp only
  split
  · exact postOnce_accesses ..
  · exact postOnce_accesses ..
  · rfl

@[simp] theorem wakeOwned_accesses : (s.wakeOwned k).accesses = s.accesses := by
  unfold State.wakeOwned
  split
  · exact foldl_keeps State.accesses (fun _ _ => by split <;> [exact wakeReg_accesses ..; rfl]) _ _
  · rfl

theorem takeMark_tr (clause pc : Nat) (atHeader : Bool) : ((s.takeMark k e clause pc atHeader).group k).tr = (s.group k).tr := by
  unfold State.takeMark
  split
  · rfl
  · dsimp only
    rw [State.setSub, group_setGroup_self]
    rfl
end

section
variable {s t : State} {k e : Nat} {x : TrapInfo}

/-- The groups and the accesses decide whether a handler can be entered. -/
theorem canEnter_congr (hg : (t.group k).openSubs = (s.group k).openSubs) (ha : t.accesses = s.accesses) : t.canEnter k = s.canEnter k := by
  simp only [State.canEnter, State.regionAccepted, hg, ha]

/-- The trap registers are those of the trap, at the entry. -/
theorem enterHandler_tr : ∃ g, ((s.enterHandler k e x).group k).tr = trapRegs k e g x := by
  unfold State.enterHandler
  dsimp only
  rw [takeMark_tr, group_setGroup_self]
  exact ⟨_, rfl⟩

/-- A sub-group of a group that takes a trap (R388): it stops, and waits no more. -/
def Sub.halted (y : Sub) : Sub := { y with stopped := true, wait := none, elapsed := 0 }

/-- The group, with its sub-groups so. -/
def Group.halted (g : Group) : Group := { g with subs := g.subs.map fun (p : Nat × Sub) => (p.1, p.2.halted) }

theorem halted_here (g : Group) (e : Nat) : (g.halted.sub e).here = (g.sub e).here :=
  tget_map_keeps Sub.here (f := Sub.halted) (fun _ => rfl) ..

theorem halted_clauseStart (g : Group) (e : Nat) : (g.halted.sub e).clauseStart = (g.sub e).clauseStart :=
  tget_map_keeps Sub.clauseStart (f := Sub.halted) (fun _ => rfl) ..

theorem halted_openSubs (g : Group) : g.halted.openSubs = g.openSubs := by
  simp only [Group.openSubs, Group.halted, List.filter_map, List.map_map]
  rfl

/-- The state in which a trap of a group is taken, with its banks waking where a sub-group waited. -/
theorem canEnter_setGroup {g : Group} (hg : g.openSubs = (s.group k).openSubs) (waited : Bool) :
    (if waited = true then (s.setGroup k g).wakeOwned k else s.setGroup k g).canEnter k = s.canEnter k := by
  split
  · exact canEnter_congr (by rw [group_congr (wakeOwned_groups ..), group_setGroup_self, hg]) (wakeOwned_accesses ..)
  · exact canEnter_congr (by rw [group_setGroup_self, hg]) rfl

/-- A trap outside a handler whose group's accesses are all accepted enters the handler, at the word that traps. -/
theorem takeTrap_enters (hh : (s.group k).handler = false) (hc : s.canEnter k = true) : ∃ u : State, s.takeTrap k e x =
    u.enterHandler k e { x with pc := some (x.pc.getD (s.sub k e).here), clause := some (x.clause.getD (s.sub k e).clauseStart) } := by
  have hopen (y : Option (Nat × TrapInfo)) : ({ (s.group k).halted with trapping := y } : Group).openSubs = (s.group k).openSubs :=
    halted_openSubs _
  have hcan (y : Option (Nat × TrapInfo)) (waited : Bool) := (canEnter_setGroup (hopen y) waited).trans hc
  unfold State.sub
  rw [← halted_here, ← halted_clauseStart]
  exact ⟨_, (if_neg (by rw [hh]; decide)).trans (if_pos (hcan (some (e, _)) _))⟩

theorem trapStatus_cause (k e : Nat) (hm : Bool) (x : TrapInfo) : (trapStatus k e hm x).toNat % 256 = x.cause % 256 := by
  unfold trapStatus
  rw [BitVec.toNat_ofNat]
  split_ifs <;> omega
end

/-! ### `trap` and `brk` (R195) -/

/-- A word of every profile that is not privileged, with a field that must be zero and is not (R121 check 4). -/
theorem decodeTrap_of_zero {s : State} {ck : CoreKind} {ucode : Bool} {i : Instr} (hp : inProfile ck (opcodeOf i) = true)
    (hu : isPrivileged ucode (opcodeOf i) = false) (hz : (shape ck i).zero = false) :
    s.decodeTrap ck ucode i = some { cause := 0x01, info := 3 * 2 ^ 24 + opcodeOf i } := by
  have hfail : (shape ck i).fail = some 3 := if_pos (by rw [hz]; rfl)
  simp only [State.decodeTrap, hp, hu, hfail, Bool.not_true, Bool.and_false, Bool.false_eq_true, if_false]

/-- What `trap` and `brk` have in common: the effect, with the word's own cause, the opcode, and the fields that must be zero. -/
structure Traps (i : Instr) (f : IForm) (cause : Nat) : Prop where
  exec : ∀ s, exec i s = issue i .any (fun _ s => .trap s { cause := cause, info := f.imm.toNat }) s
  opcode : opcodeOf i = 0x058 ∨ opcodeOf i = 0x059
  zero : ∀ ck, (shape ck i).zero = (f.dst == 0 && f.src0 == 0 && f.lu0 == 0)
  cause_lt : cause < 256

theorem trap_traps (f : IForm) : Traps (.trap f) f 0x0E :=
  ⟨fun _ => rfl, .inl (opcode_append ..), fun _ => rfl, by decide⟩

theorem brk_traps (f : IForm) : Traps (.brk f) f 0x19 :=
  ⟨fun _ => rfl, .inr (opcode_append ..), fun _ => rfl, by decide⟩

section
variable {i : Instr} {f : IForm} {cause : Nat}

/-- Outside a handler, the trap registers tell the word's cause, place and immediate. -/
theorem Traps.registers (hi : Traps i f cause) {s s' : State} {cx : Cx} (h : s.readyFor i .any = some (cx, s')) (ha : cx.act ≠ 0)
    (hh : (s'.group cx.k).handler = false) (hc : s'.canEnter cx.k = true) :
    ∃ t, Machine.exec i s = .next t ∧ (t.group cx.k).tr.cause.toNat % 256 = cause ∧
      (t.group cx.k).tr.pc = BitVec.ofNat 64 (s'.sub cx.k cx.e).here ∧ (t.group cx.k).tr.info = f.imm.zeroExtend 32 := by
  refine ⟨_, exec_afterEffect hi.exec h (.inl ha), ?_⟩
  obtain ⟨u, hu⟩ := takeTrap_enters (e := cx.e) (x := { cause := cause, info := f.imm.toNat }) hh hc
  obtain ⟨g, hg⟩ := enterHandler_tr (s := u) (k := cx.k) (e := cx.e) (x := { cause := cause, info := f.imm.toNat, pc := some (s'.sub cx.k cx.e).here
                                                                             clause := some (s'.sub cx.k cx.e).clauseStart })
  have htr := (congrArg (fun t : State => (t.group cx.k).tr) hu).trans hg
  refine ⟨?_, congrArg TrapRegs.pc htr, (congrArg TrapRegs.info htr).trans ?_⟩
  · exact (congrArg (fun r : TrapRegs => r.cause.toNat % 256) htr).trans ((trapStatus_cause ..).trans (Nat.mod_eq_of_lt hi.cause_lt))
  · exact BitVec.ofNat_toNat ..

/-- With a destination or a source it is illegal. -/
theorem Traps.illegal (hi : Traps i f cause) {s t : State} {k e : Nat} (hcur : s.cur = .group k e) (ht : s.headerGate k e = .met t)
    (hf : f.dst ≠ 0 ∨ f.src0 ≠ 0) : Machine.exec i s = .next (t.takeTrap k e { cause := 0x01, info := 3 * 2 ^ 24 + opcodeOf i }) := by
  rw [hi.exec, issue_of_group hcur, issueBy_of_decodeTrap ht (decodeTrap_of_zero ?_ ?_ ?_)]
  · rcases hi.opcode with h | h <;> rw [h] <;> cases kindOf k <;> decide
  · rcases hi.opcode with h | h <;> rw [h] <;> cases (t.blockOf k).rv.permUcode <;> decide
  · rw [hi.zero]
    rcases hf with hf | hf <;> rw [beq_false_of_ne hf] <;> simp
end

end Sys2Proof.Machine

namespace Sys2Proof.Proofs
open Machine Laws

/-- Settles O11: `trap` and `brk` differ in opcode and cause alone. -/
theorem trapAndBreakpoint : Obligations.TrapAndBreakpoint := by
  unfold Obligations.TrapAndBreakpoint
  intro f i cause hcases
  have hi : Traps i f cause := by
    rcases hcases with ⟨rfl, rfl⟩ | ⟨rfl, rfl⟩
    · exact trap_traps f
    · exact brk_traps f
  refine ⟨?encoding, completesAs hi.exec fun cx s => rfl, fun s s' cx h ha hh hc => hi.registers h ha hh hc, ?idle,
    fun s t k e hcur ht hf => hi.illegal hcur ht hf⟩
  case encoding => rcases hcases with ⟨rfl, rfl⟩ | ⟨rfl, rfl⟩ <;> rfl
  case idle =>
    intro s s' cx h ha
    rw [hi.exec]
    exact issue_unguarded _ h ha (by decide)

end Sys2Proof.Proofs
end

section
/-! Acquisitions of register blocks, granules and matrix slots (O12). -/
namespace Sys2Proof.Machine
open Laws

theorem setSub_group_block (s : State) (k e : Nat) (x : Sub) : ((s.setSub k e x).group k).block = (s.group k).block := by
  rw [State.setSub, group_setGroup_self]
  rfl

section
variable {s : State} {cx : Cx} {f : XForm} {kind : Nat}

theorem acquireW_traps {x : TrapInfo} (h : s.acquireTrap cx.k kind (s.opS cx.k cx.e f.xb).toNat = some x) :
    acquireW kind f cx s = .trap s x := by
  simp only [acquireW, h]

theorem acquireW_nothing (h : s.acquireTrap cx.k kind (s.opS cx.k cx.e f.xb).toNat = none) (hn : (s.opS cx.k cx.e f.xb).toNat = 0) :
    acquireW kind f cx s = .ok (s.slotDone cx.k cx.e cx.slot cx.op
      (wrS f.xa.toNat 1 (if kind = 1 then (s.blockOf cx.k).gran.length * granSize cx.unit else 0))) [] 1 := by
  simp only [acquireW, h, if_pos hn]

/-- A blocking acquisition of some units asks the checker, and its slot waits for the answer. -/
theorem acquireW_asks (h : s.acquireTrap cx.k kind (s.opS cx.k cx.e f.xb).toNat = none) (hn : (s.opS cx.k cx.e f.xb).toNat ≠ 0) :
    acquireW kind f cx s = .ok ((s.fresh.2.setSub cx.k cx.e ((s.fresh.2.sub cx.k cx.e).setSlot cx.slot
      { st := .busy, seq := s.nextId, opcode := cx.op, wrs := wrS f.xa.toNat 1 0
        request := some (Res.of kind (s.opS cx.k cx.e f.xb).toNat).image })).request
      cx.unit ⟨s.nextId, (s.group cx.k).block, cx.k, cx.e, kind, (s.opS cx.k cx.e f.xb).toNat, some cx.slot⟩) [] 1 := by
  simp only [acquireW, h, if_neg hn]
  rw [setSub_group_block]
  rfl

/-- The answer that the checker left for a trying acquisition. -/
def State.checkAnswer (s : State) (cx : Cx) : Option Nat := tfind (s.core cx.unit).answers (8 * cx.k + cx.e)

/-- The answer is taken. -/
def State.takeAnswer (s : State) (cx : Cx) : State :=
  s.setCore cx.unit { s.core cx.unit with answers := tdel (s.core cx.unit).answers (8 * cx.k + cx.e) }

theorem acquireT_refused {r : Nat} (h : s.checkAnswer cx = some r) (hr : r % 4 ≠ 0) :
    acquireT kind f cx s = .ok (s.takeAnswer cx) (wrS f.xa.toNat 1 (r % 4) ++ wrP f.xd 0) 2 := by
  unfold State.checkAnswer at h
  simp only [acquireT, h, if_neg hr, List.append_nil]
  rfl

theorem acquireT_granted {r : Nat} (h : s.checkAnswer cx = some r) (hr : r % 4 = 0) :
    let a := (s.takeAnswer cx).assign (s.group cx.k).block cx.k (r / 4 % 4) (r / 16)
    acquireT kind f cx s = .ok a.2.2 (wrS f.xa.toNat 1 0 ++ wrP f.xd 0xFFFFFFFF ++ a.1) 2 := by
  unfold State.checkAnswer at h
  simp only [acquireT, h, if_pos hr, if_true]
  rfl

/-- Neither an answer nor a question of the sub-group's, nor a check of anyone's. -/
structure State.Quiet (s : State) (cx : Cx) : Prop where
  answer : s.checkAnswer cx = none
  requests : ∀ q ∈ (s.core cx.unit).requests, ¬ (q.group = cx.k ∧ q.entry = cx.e ∧ q.slot = none)
  check : (s.core cx.unit).check = none

theorem State.Quiet.requests_any (h : s.Quiet cx) :
    (s.core cx.unit).requests.any (fun q => q.group == cx.k && q.entry == cx.e && q.slot.isNone) = false :=
  List.any_eq_false.2 fun q hq => by simpa [and_assoc] using h.requests q hq

theorem acquireT_traps {x : TrapInfo} (hq : s.Quiet cx) (h : s.acquireTrap cx.k kind (s.opS cx.k cx.e f.xb).toNat = some x) :
    acquireT kind f cx s = .trap s x := by
  have hanswer := hq.answer
  unfold State.checkAnswer at hanswer
  simp only [acquireT, hanswer, hq.requests_any, hq.check, h, Bool.or_self, Bool.false_eq_true, if_false]

theorem acquireT_nothing (hq : s.Quiet cx) (h : s.acquireTrap cx.k kind (s.opS cx.k cx.e f.xb).toNat = none)
    (hn : (s.opS cx.k cx.e f.xb).toNat = 0) : acquireT kind f cx s = .ok s (wrS f.xa.toNat 1 0 ++ wrP f.xd 0xFFFFFFFF) 2 := by
  have hanswer := hq.answer
  unfold State.checkAnswer at hanswer
  simp only [acquireT, hanswer, hq.requests_any, hq.check, h, if_pos hn, Bool.or_self, Bool.false_eq_true, if_false, if_true, List.append_nil]
end

end Sys2Proof.Machine

namespace Sys2Proof.Proofs
open Machine Laws

/-- Settles O12: the three kinds differ in the unit they count alone. -/
theorem acquisitions : Obligations.Acquisitions := by
  unfold Obligations.Acquisitions
  intro f kind iw it hkind n answer quiet
  obtain ⟨hw, ht⟩ : (∀ s, exec iw s = issue iw .any (acquireW kind f) s) ∧ ∀ s, exec it s = issue it .any (acquireT kind f) s := by
    rcases hkind with ⟨rfl, rfl, rfl⟩ | ⟨rfl, rfl, rfl⟩ | ⟨rfl, rfl, rfl⟩ <;> exact ⟨fun _ => rfl, fun _ => rfl⟩
  have hquiet {cx : Cx} {s : State} (h : quiet cx s) : s.Quiet cx := ⟨h.1, h.2.1, h.2.2⟩
  refine ⟨completesIf hw fun cx s ⟨h, hn⟩ => congrArg (s.afterEffect cx) (acquireW_nothing h hn),
    completesIf hw fun cx s ⟨h, hn⟩ => congrArg (s.afterEffect cx) (acquireW_asks h hn),
    fun x => completesIf hw fun cx s h => congrArg (s.afterEffect cx) (acquireW_traps h),
    fun r => completesIf ht fun cx s ⟨h, hr⟩ => congrArg (s.afterEffect cx) (acquireT_refused h hr),
    fun r => completesIf ht fun cx s ⟨h, hr⟩ => congrArg (s.afterEffect cx) (acquireT_granted h hr),
    completesIf ht fun cx s ⟨hq, h, hn⟩ => congrArg (s.afterEffect cx) (acquireT_nothing (hquiet hq) h hn),
    fun x => completesIf ht fun cx s ⟨hq, h⟩ => congrArg (s.afterEffect cx) (acquireT_traps (hquiet hq) h)⟩

end Sys2Proof.Proofs
end

section
/-! Releases of register blocks, granules and matrix slots (O13). -/
namespace Sys2Proof.Machine
open Laws

/-- The group holds a register block within reach (R202). -/
theorem own_any_iff {g : Group} {l : Nat} :
    g.own.any (fun o => o.1 == l && decide (o.2 < pending)) = true ↔ ∃ o ∈ g.own, o.1 = l ∧ o.2 < pending := by
  simp only [List.any_eq_true, Bool.and_eq_true, beq_iff_eq, decide_eq_true_eq]

/-- The lowest block of mask `m` that the group does not hold (R203). -/
def Group.unheldBlock (g : Group) (m : Nat) : Option Nat :=
  firstBelow (fun l => bitAt m l && !g.own.any (fun o => o.1 == l && decide (o.2 < pending))) 16

section
variable {g : Group} {m : Nat}

theorem unheldBlock_none (h : ∀ l, l < 16 → bitAt m l = true → ∃ o ∈ g.own, o.1 = l ∧ o.2 < pending) : g.unheldBlock m = none := by
  refine firstBelow_eq_none.2 fun l hl => ?_
  cases hm : bitAt m l
  · rfl
  · rw [own_any_iff.2 (h l hl hm)]
    rfl

theorem unheldBlock_some {l : Nat} (hl : l < 16) (hm : bitAt m l = true) (hno : ¬ ∃ o ∈ g.own, o.1 = l ∧ o.2 < pending)
    (hfirst : ∀ i, i < l → bitAt m i = true → ∃ o ∈ g.own, o.1 = i ∧ o.2 < pending) : g.unheldBlock m = some l := by
  refine firstBelow_eq_some hl ?_ fun i hi => ?_
  · rw [hm, Bool.eq_false_iff.2 (mt own_any_iff.1 hno)]
    rfl
  · cases hm : bitAt m i
    · rfl
    · rw [own_any_iff.2 (hfirst i hi hm)]
      rfl
end

/-- The slots of mask `m` that the block does not hold, and those of a running routine (R203): none. -/
theorem msl_free {s : State} {u m : Nat} {b : Block}
    (h : ∀ l ∈ (List.range 4).filter (bitAt m), ∃ p, b.slotAt l = some p ∧ (s.mslot u p).st ≠ 1) :
    firstBelow (fun l => bitAt m l && (b.slotAt l).isNone) 4 = none ∧
      firstBelow (fun l => bitAt m l && (s.mslot u ((b.slotAt l).getD 0)).st == 1) 4 = none := by
  refine ⟨firstBelow_eq_none.2 fun l hl => ?_, firstBelow_eq_none.2 fun l hl => ?_⟩
  all_goals
    cases hm : bitAt m l
    · rfl
    · obtain ⟨p, hp, hst⟩ := h l (List.mem_filter.2 ⟨List.mem_range.2 hl, hm⟩)
      simp [hp, hst]

end Sys2Proof.Machine

namespace Sys2Proof.Proofs
open Machine Laws

/-- Settles O13: the lowest unit not held decides the trap of `rel.reg`, the count that of `rel.spm`. -/
theorem releases : Obligations.Releases := by
  unfold Obligations.Releases
  intro f x blk owns lo slots touched
  refine ⟨completesIf (fun _ => rfl) fun cx s h => ?blocks, fun l hl => completesIf (fun _ => rfl) fun cx s ⟨hm, hno, hfirst⟩ => ?notHeld,
    completesIf (fun _ => rfl) fun cx s hx => ?noGranule, completesIf (fun _ => rfl) fun cx s ⟨hx, hle, hfree⟩ => ?granules,
    completesIf (fun _ => rfl) fun cx s ⟨hx, hle, htouched⟩ => ?granulesWait, completesIf (fun _ => rfl) fun cx s hlt => ?tooMany,
    completesIf (fun _ => rfl) fun cx s h => ?slots⟩
  case blocks =>
    have hnone : (s.group cx.k).unheldBlock (x cx s % 65536) = none := unheldBlock_none h
    unfold Group.unheldBlock at hnone
    dsimp only
    rw [hnone]
    rfl
  case notHeld =>
    have hsome : (s.group cx.k).unheldBlock (x cx s % 65536) = some l := unheldBlock_some hl hm hno hfirst
    unfold Group.unheldBlock at hsome
    dsimp only
    rw [hsome]
    rfl
  case noGranule => exact congrArg (s.afterEffect cx) ((if_neg (Nat.not_lt.2 (le_of_eq_of_le hx (Nat.zero_le _)))).trans (if_pos hx))
  case granules =>
    exact congrArg (s.afterEffect cx) ((if_neg (Nat.not_lt.2 hle)).trans ((if_neg hx).trans (if_neg fun h =>
      hfree ((Bool.or_eq_true_iff.1 h).imp_left Option.isSome_iff_ne_none.1))))
  case granulesWait =>
    exact congrArg (s.afterEffect cx) ((if_neg (Nat.not_lt.2 hle)).trans ((if_neg hx).trans (if_pos
      (Bool.or_eq_true_iff.2 (htouched.imp_left Option.isSome_iff_ne_none.2)))))
  case tooMany => exact congrArg (s.afterEffect cx) (if_pos hlt)
  case slots =>
    obtain ⟨hheld, hstill⟩ := msl_free (b := s.block (s.group cx.k).block) (m := (s.opS cx.k cx.e f.xb).toNat % 16) h
    dsimp only
    rw [hheld]
    dsimp only
    rw [hstill]
    rfl

end Sys2Proof.Proofs
end

section
/-! Banks (O14). -/
namespace Sys2Proof.Machine
open Laws

theorem find?_own_eq_none {g : Group} {l : Nat} (h : ∀ o ∈ g.own, o.1 = l → pending ≤ o.2) :
    g.own.find? (fun o => o.1 == l && decide (o.2 < pending)) = none :=
  List.find?_eq_none.2 fun o ho hb => by
    rw [Bool.and_eq_true, beq_iff_eq, decide_eq_true_eq] at hb
    exact absurd hb.2 (Nat.not_lt.2 (h o ho hb.1))

end Sys2Proof.Machine

namespace Sys2Proof.Proofs
open Machine Laws

/-- Settles O14: the place, then the state of its bank, decide what `rwake` does. -/
theorem bankInstructions : Obligations.BankInstructions := by
  unfold Obligations.BankInstructions
  intro f
  dsimp only
  refine ⟨fun hmod => ⟨completesIf (fun _ => rfl) fun cx s ⟨hin, hbank⟩ => ?spmOn,
      completesIf (fun _ => rfl) fun cx s ⟨hin, hon, hoff⟩ => ?spmWakes,
      completesIf (fun _ => rfl) fun cx s hout => ?spmOutside⟩,
    fun hmod p hp => ⟨completesIf (fun _ => rfl) fun cx s ⟨hown, hbank⟩ => ?regOn,
      completesIf (fun _ => rfl) fun cx s ⟨hown, hbank⟩ => ?regWakes⟩,
    fun hmod => completesIf (fun _ => rfl) fun cx s h => ?notHeld,
    completesIf (fun _ => rfl) fun cx s hx => congrArg (s.afterEffect cx) (if_pos hx),
    completesIf (fun _ => rfl) fun cx s hx => congrArg (s.afterEffect cx) (if_neg hx),
    completesIf (fun _ => rfl) fun cx s hn => congrArg (s.afterEffect cx) (if_pos hn),
    completesIf (fun _ => rfl) fun cx s ⟨hn, hout⟩ => ?dropOutside,
    completesIf (fun _ => rfl) fun cx s ⟨hn, hin, hfree⟩ => ?drops⟩
  case spmOn =>
    simp only [hmod, hin, if_true, Bool.not_true, Bool.false_eq_true, if_false]
    rcases hbank with hbank | hbank <;> rw [hbank] <;> rfl
  case spmWakes =>
    simp only [hmod, hin, if_true, Bool.not_true, Bool.false_eq_true, if_false]
    rfl
  case spmOutside =>
    simp only [hmod, hout, if_true, Bool.not_false]
    rfl
  case regOn =>
    simp only [hmod, hown, hbank, Bool.false_eq_true, if_false]
    rfl
  case regWakes =>
    simp only [hmod, hown, Bool.false_eq_true, if_false]
    rfl
  case notHeld =>
    simp only [hmod, find?_own_eq_none h, Bool.false_eq_true, if_false]
    rfl
  case dropOutside =>
    simp only [if_neg hn, hout, Bool.not_false, if_true]
    rfl
  case drops =>
    simp only [if_neg hn, hin, hfree, Bool.not_true, Bool.false_eq_true, if_false]
    rfl

end Sys2Proof.Proofs
end

section
/-! Object tables, semaphore maps and handles (O15). -/
namespace Sys2Proof.Proofs
open Machine Laws

/-- Settles O15: each word's status picks its effect; the statuses of an extent are `State.extentStatus`'s. -/
theorem supervisorInstructions : Obligations.SupervisorInstructions := by
  unfold Obligations.SupervisorInstructions
  intro f
  dsimp only
  refine ⟨completesIf (fun _ => rfl) fun cx s h => ?entOutside, completesIf (fun _ => rfl) fun cx s ⟨hlt, hbad⟩ => ?entBad,
    completesIf (fun _ => rfl) fun cx s ⟨hlt, hok⟩ => ?entWritten, fun st => completesIf (fun _ => rfl) fun cx s h => ?extRefused,
    fun a => completesIf (fun _ => rfl) fun cx s h => ?extWritten, completesAs (fun _ => rfl) fun cx s => rfl,
    completesAs (fun _ => rfl) fun cx s => rfl, completesAs (fun _ => rfl) fun cx s => rfl, completesAs (fun _ => rfl) fun cx s => ?semmap,
    completesAs (fun _ => rfl) fun cx s => rfl, completesAs (fun _ => rfl) fun cx s => ?hmint⟩
  case entOutside =>
    simp only [if_pos h, Nat.one_ne_zero, if_false]
    rfl
  case entBad =>
    simp only [if_neg (Nat.not_le.2 hlt), hbad, if_true, OfNat.ofNat_ne_zero, if_false]
    rfl
  case entWritten =>
    simp only [if_neg (Nat.not_le.2 hlt), hok, Bool.false_eq_true, if_false, if_true]
    rfl
  case extRefused =>
    simp only [h]
    rfl
  case extWritten =>
    simp only [h]
    rfl
  case semmap =>
    by_cases hn : 4096 ≤ (s.opS cx.k cx.e f.xb).toNat
    · simp only [if_pos hn, Nat.one_ne_zero, if_false]
      rfl
    by_cases hm : 2 ^ 17 ≤ (s.opS cx.k cx.e f.xc).toNat
    · simp only [if_neg hn, if_pos hm, OfNat.ofNat_ne_zero, if_false]
      rfl
    · simp only [if_neg hn, if_neg hm, if_true]
      rfl
  case hmint =>
    simp only [Bool.decide_and, Bool.decide_eq_true, Bool.decide_eq_false, Bool.and_assoc]
    rfl

end Sys2Proof.Proofs
end

section
/-! `launch` and the words on launches and blocks (O39). -/
namespace Sys2Proof.Machine
open Laws

/-- A word whose effect is an access through its handle (R57, R264). -/
theorem handleWord {i : Instr} {gd : Guarding} {hr need n align : Nat} {offs : Cx → State → List (Nat × Int)} {lane0 : Cx → State → Int}
    {a : Cx → State → HandleReg → Access}
    (hexec : ∀ s, exec i s = issue i gd (fun cx s => s.handleAccess cx hr need n align (offs cx s) (a cx s) (lane0 cx s)) s) :
    HandleWord i gd hr need n align offs lane0 a := by
  refine ⟨completesIf hexec fun cx s ⟨hcheck, hhold⟩ => ?accepted, fun t => completesIf hexec fun cx s hcheck => ?traps,
    fun p => completesIf hexec fun cx s ⟨hcheck, hhold⟩ => ?waits⟩
  all_goals dsimp only at hcheck ⊢
  case accepted =>
    dsimp only at hhold
    simp only [State.handleAccess, hcheck, hhold]
    rfl
  case traps =>
    simp only [State.handleAccess, hcheck]
    rfl
  case waits =>
    dsimp only at hhold
    simp only [State.handleAccess, hcheck, hhold]
    rfl

section
variable {s : State} {n c : Nat} {l : Launch}

/-- A launch of the context is held in it; the words that name one refuse any other (R436). -/
theorem refused_eq_false (h : tfind s.launches n = some l ∧ l.ctx = c) : ((tfind s.launches n).isNone || l.ctx != c) = false := by
  simp [h]

theorem refused_eq_true (h : ∀ l, ¬ (tfind s.launches n = some l ∧ l.ctx = c)) : ((tfind s.launches n).isNone || (s.launchOf n).ctx != c) = true := by
  cases hl : tfind s.launches n with
  | none => rfl
  | some l => simpa [launchOf_eq hl] using fun hc => h l ⟨hl, hc⟩
end

/-- A block with a group that has not exited runs (R436). -/
theorem groups_any_running {s : State} {b : Nat} {ks : List Nat}
    (h : ∃ k ∈ ks, (s.group k).present = true ∧ (s.group k).block = b ∧ (s.group k).exited = false) :
    ks.any (fun k => (s.group k).present && (s.group k).block == b && !(s.group k).exited) = true := by
  obtain ⟨k, hk, hpresent, hgroup, hexited⟩ := h
  exact List.any_eq_true.2 ⟨k, hk, by simp [hpresent, hgroup, hexited]⟩

/-- Every block is asked for, or the one that is has a frame (R437). -/
theorem frameMissing_eq_false {s : State} {n idx : Nat} (h : idx = 0xFFFFFFFF ∨ ∃ fr, s.frameOf n idx = some fr) :
    (idx != 0xFFFFFFFF && (s.frameOf n idx).isNone) = false := by
  rcases h with h | ⟨fr, hfr⟩
  · simp [h]
  · simp [hfr]

end Sys2Proof.Machine

namespace Sys2Proof.Proofs
open Machine Laws

/-- Settles O39: whether the context holds the launch, then the conditions of each word's statuses in their order, pick its answer. -/
theorem launchAndContextWords : Obligations.LaunchAndContextWords := by
  unfold Obligations.LaunchAndContextWords
  intro f
  dsimp only
  refine ⟨handleWord fun _ => rfl, completesIf (fun _ => rfl) fun cx s h => ?lqueryUnheld,
    fun l => completesIf (fun _ => rfl) fun cx s h => ?lquery,
    completesIf (fun _ => rfl) fun cx s h => ?cpreemptUnheld,
    fun l => completesIf (fun _ => rfl) fun cx s ⟨h, hen⟩ => ?cpreemptOff,
    fun l => completesIf (fun _ => rfl) fun cx s ⟨h, hen, hnone⟩ => ?cpreemptNone,
    fun l b x fr => completesIf (fun _ => rfl) fun cx s ⟨h, hen, hone, hkind, hframe, hsaving, hidx, hrunning, hhold⟩ => ?cpreemptSaves,
    completesIf (fun _ => rfl) fun cx s h => ?cresumeUnheld,
    fun l => completesIf (fun _ => rfl) fun cx s ⟨h, hnone⟩ => ?cresumeNone,
    fun l => completesIf (fun _ => rfl) fun cx s ⟨h, hsome, hqueued, hnone, hidx⟩ => ?cresumeQueues,
    completesIf (fun _ => rfl) fun cx s h => ?cresumeEscUnheld,
    fun l => completesIf (fun _ => rfl) fun cx s ⟨h, hidx⟩ => ?cresumeEscAll,
    fun l b k => completesIf (fun _ => rfl) fun cx s ⟨h, hidx, hblock, hgroups, hpresent, hgroup, hgidx, hesc, hdouble, hrelease⟩ =>
      ?cresumeEscReleases,
    completesIf (fun _ => rfl) fun cx s h => ?ctermOutside,
    fun rv => completesIf (fun _ => rfl) fun cx s ⟨hlt, hrv⟩ => ?cterm,
    completesIf (fun _ => rfl) fun cx s h => ?ctermLUnheld,
    fun l => completesIf (fun _ => rfl) fun cx s h => ?ctermL,
    completesIf (fun _ => rfl) fun cx s h => ?cqueryUnheld,
    fun l => completesIf (fun _ => rfl) fun cx s h => ?cquery,
    completesIf (fun _ => rfl) fun cx s h => ?cqueryUOutside,
    completesIf (fun _ => rfl) fun cx s h => ?cqueryU⟩
  case lqueryUnheld =>
    dsimp only
    split
    · next l hl => rw [if_neg fun hc => h l ⟨hl, hc⟩]; rfl
    · rfl
  case lquery =>
    simp only [h.1, h.2, if_true]
    rfl
  case cpreemptUnheld | cresumeUnheld | cresumeEscUnheld | ctermLUnheld | cqueryUnheld =>
    simp only [refused_eq_true h, if_true]
    rfl
  case cpreemptOff =>
    simp only [launchOf_eq h.1, refused_eq_false h, hen, Bool.false_eq_true, if_false, Bool.not_false, if_true]
    rfl
  case cpreemptNone =>
    simp only [launchOf_eq h.1, refused_eq_false h, hen, hnone, List.filter_nil, List.length_nil, Nat.not_lt_zero, or_self, List.isEmpty_nil,
      Bool.true_or, Bool.not_true, Bool.false_eq_true, if_false, if_true]
    rfl
  case cpreemptSaves =>
    have hlattice : [(b, x)].filter (fun b => kindOfUnit (unitOfBlock b.1) == .lattice) = [(b, x)] := by simp [hkind]
    have hstream : [(b, x)].filter (fun b => kindOfUnit (unitOfBlock b.1) == .stream) = [] := by simp [hkind]
    obtain ⟨frs, hfrs⟩ := List.head?_eq_some_iff.1 hframe
    have hfree : (f.mod.getLsbD 0 && l.pclass == 1) = false := Bool.eq_false_iff.2 (by simpa using hhold)
    have hroom : ¬ ((fr :: frs).length < [(b, x)].length ∨ (s.freeFrames .stream).length < ([] : Tab Block).length) := by simp
    have hframes : s.fresh.2.freeFrames .lattice = fr :: frs := hfrs
    simp only [launchOf_eq h.1, refused_eq_false h, hen, hone, hlattice, hstream, hfrs, if_neg hroom, hfree, hframes, hsaving, hidx,
      groups_any_running hrunning, List.isEmpty_cons, List.all_cons, List.all_nil, List.any_cons, List.any_nil, Option.isNone_none,
      beq_self_eq_true, Bool.and_true, Bool.or_false, Bool.not_true, Bool.and_false, Bool.false_eq_true, if_false]
    rfl
  case cresumeNone =>
    simp only [launchOf_eq h.1, refused_eq_false h, hnone, List.isEmpty_nil, Bool.true_or, Bool.false_eq_true, if_false, if_true]
    rfl
  case cresumeQueues =>
    have hmore : s.blocks.any (fun b => b.2.present && b.2.launch == (s.opS cx.k cx.e f.xb).toNat && l.named (s.opS cx.k cx.e f.xc).toNat b.2.idx) =
        false := List.any_eq_false.2 (List.filter_eq_nil_iff.1 hnone)
    have hidle := List.all_eq_true.2 fun p hp => Option.isNone_iff_eq_none.2 (hqueued p hp)
    simp only [launchOf_eq h.1, refused_eq_false h, hmore, frameMissing_eq_false hidx, hidle, List.isEmpty_eq_false_iff.2 hsome,
      Bool.not_true, Bool.or_self, Bool.false_eq_true, if_false]
    rfl
  case cresumeEscAll =>
    simp only [launchOf_eq h.1, refused_eq_false h, hidx, Bool.false_eq_true, if_false, if_true]
    rfl
  case cresumeEscReleases =>
    have hfind : [k].find? (fun k => (s.group k).present && (s.group k).block == b &&
        (s.group k).gidx == ((s.sub cx.k cx.e).sreg f.xd.toNat).toNat &&
        ((s.group k).escalated && !(s.group k).doubleTrap && !(s.group k).escRelease)) = some k :=
      List.find?_cons_of_pos (by simp [hpresent, hgroup, hgidx, hesc, hdouble, hrelease])
    simp only [launchOf_eq h.1, refused_eq_false h, if_neg hidx, hblock, hgroups, hfind, Bool.false_eq_true, if_false]
    rfl
  case ctermOutside =>
    simp only [if_pos h]
    rfl
  case cterm =>
    simp only [if_neg (Nat.not_le.2 hlt), hrv]
    rfl
  case ctermL =>
    simp only [launchOf_eq h.1, refused_eq_false h, Bool.false_eq_true, if_false]
    rfl
  case cquery =>
    simp only [launchOf_eq h.1, refused_eq_false h, Bool.false_eq_true, if_false]
    refine congrArg (fun v => s.retiredTo (s.slotBusy cx.k cx.e cx.slot cx.op (wrS f.xa.toNat 4 v)) cx [] 1) ?_
    ring
  case cqueryUOutside =>
    dsimp only
    rw [if_neg (by simpa using h)]
    rfl
  case cqueryU =>
    dsimp only
    rw [if_pos (by simpa using h)]
    rfl

end Sys2Proof.Proofs
end

section
/-! Vector integer instructions (O16), comparison and movement of lanes (O17). -/
namespace Sys2Proof.Machine

@[simp] theorem wn_ne_zero (w : Bool) : wn w ≠ 0 := by
  cases w <;> decide

/-! ### Masks of lanes -/

/-- The sum of 2^l over the `l` below `n` that meet `p` has no carries. -/
theorem sum_two_pow_lt_and_testBit (p : Nat → Bool) (n : Nat) :
    (List.range n).foldl (fun m l => if p l then m + 2 ^ l else m) 0 < 2 ^ n ∧
      ∀ l, ((List.range n).foldl (fun m l => if p l then m + 2 ^ l else m) 0).testBit l = (decide (l < n) && p l) := by
  induction n with
  | zero => simp
  | succ n ih =>
    obtain ⟨hlt, hbit⟩ := ih
    rw [List.range_succ, List.foldl_append, List.foldl_cons, List.foldl_nil]
    generalize (List.range n).foldl (fun m l => if p l then m + 2 ^ l else m) 0 = x at hlt hbit ⊢
    have hpow : 2 ^ (n + 1) = 2 ^ n + 2 ^ n := by rw [pow_succ, mul_two]
    refine ⟨by split_ifs <;> omega, fun l => ?_⟩
    rcases lt_trichotomy l n with hl | rfl | hl
    · have hbelow : (if p n = true then x + 2 ^ n else x).testBit l = x.testBit l := by
        split_ifs
        · rw [Nat.add_comm, Nat.testBit_two_pow_add_gt hl]
        · rfl
      rw [hbelow, hbit, decide_eq_true hl, decide_eq_true (by omega : l < n + 1)]
    · have hoff : x.testBit l = false := Nat.testBit_lt_two_pow hlt
      split_ifs with hp
      · rw [Nat.add_comm, Nat.testBit_two_pow_add_eq, hoff]
        simp [hp]
      · rw [hoff]
        simp [hp]
    · have habove : (if p n = true then x + 2 ^ n else x) < 2 ^ l :=
        lt_of_lt_of_le (by split_ifs <;> omega : _ < 2 ^ (n + 1)) (Nat.pow_le_pow_right (by decide) hl)
      rw [Nat.testBit_lt_two_pow habove, decide_eq_false (by omega), Bool.false_and]

/-- Lane `l` of the mask of the lanes that satisfy `p`. -/
theorem getLsbD_maskOf (p : Nat → Bool) {l : Nat} (hl : l < 32) : (maskOf p).getLsbD l = p l := by
  rw [maskOf, BitVec.getLsbD_ofNat, (sum_two_pow_lt_and_testBit p 32).2, decide_eq_true hl, Bool.true_and, Bool.true_and]

/-- The first of a mask's lanes is its lowest. -/
theorem lanesOf_head {m : W32} {low : Nat} (hlow : low < 32) (hon : m.getLsbD low = true) (hoff : ∀ l, l < low → m.getLsbD l = false) :
    (lanesOf m).headD 0 = low := by
  have hfirst : (List.range 32).find? (fun l => m.getLsbD l) = some low :=
    find?_eq_some_of_first List.pairwise_lt_range (List.mem_range.2 hlow) hon fun l _ => hoff l
  rw [List.headD_eq_head?_getD, lanesOf, List.head?_filter, hfirst, Option.getD_some]

/-! ### Results of one lane (R217) -/

/-- A vector word completes with the value that its lane function gives each lane. -/
theorem vectorGives {i : Instr} {f : TForm} {nd n0 n1 n2 lat : Nat} {c2 : Bool} {F : Cx → State → Nat → Nat → Nat → Nat → Nat}
    {G : Cx → State → Nat → Nat}
    (hexec : ∀ s, exec i s = issue i .always (fun cx s => vecEff f nd n0 n1 n2 c2 lat (F cx s) cx s) s)
    (h : ∀ cx s l, F cx s (s.laneN cx.k f.src0.toNat n0 l) (if n1 = 0 then 0 else s.opLane cx.k cx.e f.src1 n1 (f.mod.getLsbD 0) l)
      (if n2 = 0 then 0 else s.opLane cx.k cx.e f.src2 n2 c2 l) l = G cx s l) :
    CompletesAs i .always (fun cx s => s.retired cx (wrV f.dst.toNat nd cx.act (G cx s)) lat) :=
  completesAs hexec fun cx s => congrArg (fun g => s.retired cx (wrV f.dst.toNat nd cx.act g) lat) (funext (h cx s))

end Sys2Proof.Machine

namespace Sys2Proof.Proofs
open Machine

/-- Settles O16: lane by lane, over the registers that each operand is read from. -/
theorem vectorIntegers : Obligations.VectorIntegers := by
  unfold Obligations.VectorIntegers
  intro w f W a b c gives
  refine ⟨vectorGives (fun _ => rfl) ?vadd, vectorGives (fun _ => rfl) ?vsub, vectorGives (fun _ => rfl) ?vmul, vectorGives (fun _ => rfl) ?vmulh,
    vectorGives (fun _ => rfl) ?vmad, vectorGives (fun _ => rfl) ?vand, vectorGives (fun _ => rfl) ?vor, vectorGives (fun _ => rfl) ?vxor,
    vectorGives (fun _ => rfl) ?vandn, vectorGives (fun _ => rfl) ?vshl, vectorGives (fun _ => rfl) ?vshr, vectorGives (fun _ => rfl) ?vsra,
    vectorGives (fun _ => rfl) ?vmin, vectorGives (fun _ => rfl) ?vmax, vectorGives (fun _ => rfl) ?vabs, vectorGives (fun _ => rfl) ?vclz,
    vectorGives (fun _ => rfl) ?vpop, vectorGives (fun _ => rfl) ?vbfx, vectorGives (fun _ => rfl) ?vbfi, vectorGives (fun _ => rfl) ?vsel,
    vectorGives (fun _ => rfl) ?vmov, completesAs (fun _ => rfl) fun cx s => rfl⟩
  all_goals intro cx s l
  case vabs | vclz | vpop | vmov | vshl | vshr | vsra | vbfx => rfl
  case vadd | vsub | vmul | vmulh | vand | vor | vxor | vandn | vmin | vmax => rw [if_neg (wn_ne_zero w)]
  case vsel =>
    rw [if_neg (wn_ne_zero w)]
    rfl
  case vmad => rw [if_neg (wn_ne_zero w), if_neg (wn_ne_zero w)]
  case vbfi =>
    rw [if_neg (wn_ne_zero w)]
    rfl

/-- Settles O17: a comparison lane by lane; the first active lane is the lowest; each movement is its word's one effect. -/
theorem vectorCompareExtractAndMove : Obligations.VectorCompareExtractAndMove := by
  unfold Obligations.VectorCompareExtractAndMove
  refine ⟨fun w f => ⟨?vcmp, fun low hlow => ?vmovsGet⟩, fun w kd f => ⟨?vperm, ?vxshf, ?vrot, ?vbcl, ?vexpand, ?vcompress, ?vunpack, ?vpack⟩⟩
  case vcmp => exact ⟨_, completesAs (fun _ => rfl) fun cx s => rfl, fun cx s l hl => getLsbD_maskOf _ hl⟩
  case vmovsGet =>
    refine completesIf (fun _ => rfl) fun cx s ⟨hon, hoff⟩ => ?_
    rw [lanesOf_head hlow hon hoff]
    rfl
  all_goals exact completesAs (fun _ => rfl) fun cx s => rfl

end Sys2Proof.Proofs
end

section
/-! Results of float words (O18, O20), conversions and blocks (O21), reductions (O22). -/
namespace Sys2Proof.Machine

/-! ### Float results (R174, R175, R230) -/

section
variable {i : Instr} {f : TForm} {nd lat : Nat} {cx : Cx} {s : State}

/-- The effect of a float result none of whose flags traps. -/
theorem fpResult_of_clear {n : Nat} {slot : Bool} {F : Nat → (Nat → Nat) → Nat × BitVec 5} (h : s.fpClear cx F) :
    s.afterEffect cx (s.fpResult cx f nd lat n slot F) =
      if slot = true then s.fpRetiredBusy cx f.dst.toNat nd n F else s.fpRetired cx f.dst.toNat nd lat n F := by
  unfold State.fpClear State.fpFlags State.fpLanes State.drawsOf at h
  simp only [State.fpResult, h, Bool.or_eq_true, decide_eq_true_eq]
  cases slot <;> rfl

section
variable {draws : Cx → State → Nat} {E : Cx → State → Eff} {L : Cx → State → Nat → (Nat → Nat) → Nat × BitVec 5}

/-- A float word completes with the lanes' values and flags, where none of them traps. -/
theorem floatGives (hexec : ∀ s, exec i s = issue i .always E s)
    (h : ∀ cx s, E cx s = s.fpResult cx f nd lat (draws cx s) false (L cx s)) :
    CompletesIf i .always (fun cx s => s.fpClear cx (L cx s)) (fun cx s => s.fpRetired cx f.dst.toNat nd lat (draws cx s) (L cx s)) :=
  completesIf hexec fun cx s hclear => by
    rw [h, fpResult_of_clear hclear, if_neg Bool.false_ne_true]

/-- A long-latency float word leaves its slot busy with them. -/
theorem floatGivesBusy (hexec : ∀ s, exec i s = issue i .always E s)
    (h : ∀ cx s, E cx s = s.fpResult cx f nd 0 (draws cx s) true (L cx s)) :
    CompletesIf i .always (fun cx s => s.fpClear cx (L cx s)) (fun cx s => s.fpRetiredBusy cx f.dst.toNat nd (draws cx s) (L cx s)) :=
  completesIf hexec fun cx s hclear => by
    rw [h, fpResult_of_clear hclear, if_pos rfl]
end

/-! ### Element-wise results (R165) -/

/-- A lane of elements `r`, and the flags that any of them raised: a type has one element or two. -/
def laneOfElems (t : FVar) (r : Nat → Nat × BitVec 5) : Nat × BitVec 5 :=
  (joinElems t (fun j => (r j).1), if fvElems t = 2 then (r 0).2 ||| (r 1).2 else (r 0).2)

theorem laneOfElems_eq (t : FVar) (r : Nat → Nat × BitVec 5) :
    (joinElems t (fun j => (r j).1), (List.range (fvElems t)).foldl (fun m j => m ||| (r j).2) (0 : BitVec 5)) = laneOfElems t r := by
  refine congrArg (Prod.mk _) ?_
  cases t with
  | f32 | f64 => exact BitVec.zero_or
  | f16x2 | bf16x2 => exact congrArg (· ||| (r 1).2) BitVec.zero_or

variable {t : FVar}

/-- Element-wise arithmetic rounds the exact result of each element (R224). -/
theorem fpEff_eq {nsrc : Nat} {x : Fv → Fv → Fv → Rm → Xv} : fpEff t f nsrc x cx s =
    s.fpResult cx f t.n 5 (drawsFor (mf f.mod 2 3) (fvElems t)) false (fun l draw => laneOfElems t (fun j =>
      (fvFmt t).round (mf f.mod 2 3) false (draw j) (x ((fvFmt t).decode (elemOf t (s.laneN cx.k f.src0.toNat t.n l) j))
        ((fvFmt t).decode (elemOf t (s.opLaneF cx.k cx.e f.src1 t (f.mod.getLsbD 0) l) j))
        ((fvFmt t).decode (elemOf t (if nsrc = 3 then s.opLaneF cx.k cx.e f.src2 t (f.mod.getLsbD 1) l else 0) j)) (mf f.mod 2 3)))) := by
  unfold fpEff
  simp only [← laneOfElems_eq]

/-- A root or a reciprocal is rounded, and raises its table's flag beside those of the rounding (R229). -/
theorem fpRooted_eq {g : Fv → Xv × BitVec 5} : fpRooted t f g cx s =
    s.fpResult cx f t.n 0 (drawsFor (mf f.mod 2 3) (fvElems t)) true (fun l draw => laneOfElems t (fun j =>
      let y := g ((fvFmt t).decode (elemOf t (s.laneN cx.k f.src0.toNat t.n l) j))
      let z := (fvFmt t).round (mf f.mod 2 3) false (draw j) y.1
      (z.1, y.2 ||| z.2))) := by
  unfold fpRooted
  simp only [← laneOfElems_eq]

/-- A transcendental function is of elements of 16 bits, or of one of 32 (R176). -/
theorem fpTranscendental_eq {half : Bool} {g : Nat → Nat × BitVec 5} : fpTranscendental half f g cx s =
    s.fpResult cx f 1 0 0 true (fun l _ => laneOfElems (if half then .f16x2 else .f32) (fun j =>
      if half then via16 g (elemOf (if half then .f16x2 else .f32) (s.laneN cx.k f.src0.toNat 1 l) j) else g (s.laneN cx.k f.src0.toNat 1 l))) := by
  unfold fpTranscendental
  simp only [← laneOfElems_eq]
end

/-! ### Reductions (R239) -/

/-- The value of the last of the running values, 0 where there is none. -/
theorem lastValue_eq (r : List (Nat × Nat × BitVec 5)) :
    (match r.getLast? with | some p => p.2.1 | none => 0) = (r.map (fun p => p.2.1)).getLast?.getD 0 := by
  rw [List.getLast?_map]
  cases r.getLast? <;> rfl

end Sys2Proof.Machine

namespace Sys2Proof.Proofs
open Machine

/-- Settles O18: element by element. -/
theorem floatArithmetic : Obligations.FloatArithmetic := by
  unfold Obligations.FloatArithmetic
  intro t bf f F rm A B C lanes gives
  refine ⟨floatGives (fun _ => rfl) ?vfadd, floatGives (fun _ => rfl) ?vfsub, floatGives (fun _ => rfl) ?vfmul, floatGives (fun _ => rfl) ?vfma,
    floatGives (fun _ => rfl) ?vfdot2⟩
  case vfdot2 => exact fun cx s => rfl
  all_goals exact fun cx s => fpEff_eq

/-- Settles O20: element by element; the lane of a transcendental function is a pair of 16-bit elements, or one number. -/
theorem floatFunctions : Obligations.FloatFunctions := by
  unfold Obligations.FloatFunctions
  intro t half f rm hv elem both rooted direct gives
  refine ⟨floatGivesBusy (fun _ => rfl) ?vrcp, floatGivesBusy (fun _ => rfl) ?vsqrt, floatGivesBusy (fun _ => rfl) ?vrsqrt,
    floatGivesBusy (fun _ => rfl) ?vexp2, floatGivesBusy (fun _ => rfl) ?vlog2, floatGivesBusy (fun _ => rfl) ?vsin,
    floatGivesBusy (fun _ => rfl) ?vcos⟩
  case vrcp | vsqrt | vrsqrt => exact fun cx s => fpRooted_eq
  all_goals
    intro cx s
    cases half <;> exact fpTranscendental_eq

/-- Settles O21: the source of a conversion is a pair where its type has 64 bits. -/
theorem floatConversions : Obligations.FloatConversions := by
  unfold Obligations.FloatConversions
  intro d int x f v E cvt quant dequant draws
  refine ⟨floatGives (fun _ => rfl) fun cx s => ?vcvt, floatGives (fun _ => rfl) fun cx s => rfl, floatGives (fun _ => rfl) fun cx s => rfl⟩
  simp only [Bool.or_eq_true, decide_eq_true_eq]
  rfl

/-- Settles O22: the last of the running values is the reduction. -/
theorem reductions : Obligations.Reductions := by
  unfold Obligations.Reductions
  intro o f rm x run
  refine ⟨completesIf (fun _ => rfl) fun cx s h => ?vred, completesIf (fun _ => rfl) fun cx s h => ?vscan⟩
  all_goals
    have hflags : fpTrap (s.group cx.k).fpcsr cx.act (runFlags (s.running cx o f)) = none := h
    simp only [hflags]
  case vred =>
    rw [← lastValue_eq]
    rfl
  case vscan => rfl

end Sys2Proof.Proofs
end

section
/-! Accesses to the scratchpad (R243): the block's own and a cluster member's (O25), the lanes' slices (O26). -/
namespace Sys2Proof.Machine
open Laws

/-! ### The block's own scratchpad -/

section
variable {s : State} {cx : Cx} {n align : Nat} {read : Bool} {offs : List (Nat × Int)} {a : Access}

theorem spmAccess_traps {t : TrapInfo} (h : s.checkSpm (s.group cx.k).block n align read offs = some t) :
    s.spmAccess cx n align read offs a = .trap s t := by
  simp only [State.spmAccess, h]

theorem spmAccess_waits {p : Nat} (h : s.checkSpm (s.group cx.k).block n align read offs = none)
    (hp : s.rangeHold (s.group cx.k).block (spmPlaces n offs) = some p) : s.spmAccess cx n align read offs a = .wait s 0x07 p 0 := by
  simp only [State.spmAccess, h, hp]

theorem spmAccess_wakes {t : State} (h : s.checkSpm (s.group cx.k).block n align read offs = none)
    (hp : s.rangeHold (s.group cx.k).block (spmPlaces n offs) = none)
    (ht : s.wakeFor (s.group cx.k).block (offs.map (fun p => p.2.toNat)) = some t) : s.spmAccess cx n align read offs a = .stall t := by
  simp only [State.spmAccess, h, hp, ht]

theorem spmAccess_enters (h : s.checkSpm (s.group cx.k).block n align read offs = none)
    (hp : s.rangeHold (s.group cx.k).block (spmPlaces n offs) = none)
    (ht : s.wakeFor (s.group cx.k).block (offs.map (fun p => p.2.toNat)) = none) :
    s.spmAccess cx n align read offs a = .ok (s.newAccess cx { a with accepted := true, local_ := true }) [] 1 := by
  simp only [State.spmAccess, h, hp, ht]
end

/-- A word whose effect is an access to its block's scratchpad. -/
theorem scratchWord {i : Instr} {gd : Guarding} {n align : Nat} {read : Bool} {offs : Cx → State → List (Nat × Int)} {pre : Cx → State → Prop}
    {a : Cx → State → Access} {f : Cx → State → Eff} (hexec : ∀ s, exec i s = issue i gd f s)
    (h : ∀ cx s, pre cx s → f cx s = s.spmAccess cx n align read (offs cx s) (a cx s)) : ScratchWord i gd n align read offs pre a := by
  exact ⟨completesIf hexec fun cx s ⟨hpre, hc, hp, ht⟩ => congrArg (s.afterEffect cx) ((h cx s hpre).trans (spmAccess_enters hc hp ht)),
    fun _ => completesIf hexec fun cx s ⟨hpre, hc⟩ => congrArg (s.afterEffect cx) ((h cx s hpre).trans (spmAccess_traps hc)),
    fun _ => completesIf hexec fun cx s ⟨hpre, hc, hp⟩ => congrArg (s.afterEffect cx) ((h cx s hpre).trans (spmAccess_waits hc hp)),
    fun _ => completesIf hexec fun cx s ⟨hpre, hc, hp, ht⟩ => congrArg (s.afterEffect cx) ((h cx s hpre).trans (spmAccess_wakes hc hp ht))⟩

/-! ### Cluster members (R246) -/

section
variable {f : MForm} {n : Nat} {kind : AccKind} {data : Nat → List Byte} {read : Bool} {cx : Cx} {s : State}

theorem clusterAccess_outside (h : (s.blockOf cx.k).csize ≤ f.h.toNat % 4) :
    clusterAccess f n kind data read cx s = .trap s (laneTrap 0x0A (2 ^ 24) (s.accessOffsets cx f n true false false)) :=
  if_pos h

theorem clusterAccess_own (h : f.h.toNat % 4 < (s.blockOf cx.k).csize) (hm : f.h.toNat % 4 = (s.blockOf cx.k).x % (s.blockOf cx.k).csize) :
    clusterAccess f n kind data read cx s = s.spmAccess cx n n read (s.accessOffsets cx f n true false false)
      { Access.start kind (s.spmElems (s.group cx.k).block n (s.accessOffsets cx f n true false false) data) with size := n, dst := f.d.toNat } :=
  (if_neg (Nat.not_le.2 h)).trans (if_pos hm)

theorem clusterAccess_other (h : f.h.toNat % 4 < (s.blockOf cx.k).csize) (hm : f.h.toNat % 4 ≠ (s.blockOf cx.k).x % (s.blockOf cx.k).csize) :
    clusterAccess f n kind data read cx s = .ok (s.newAccess cx { Access.start kind ((s.accessOffsets cx f n true false false).map (fun p =>
        ({ lane := p.1, off := bitsOf 64 p.2, obj := bitsOf 64 p.2, n := n, data := data p.1 } : Elem))) with
      size := n, dst := f.d.toNat, hreg := f.h.toNat % 4
      member := some ((s.blockOf cx.k).members.getD (f.h.toNat % 4) (s.group cx.k).block) }) [] 1 :=
  (if_neg (Nat.not_le.2 h)).trans (if_neg hm)
end

/-! ### The lanes' slices (R245) -/

/-- The offset in each lane's slice that a word names. -/
def State.sliceOffset (s : State) (cx : Cx) (f : MForm) (n : Nat) : Int := (s.opN cx.k cx.e f.off false : Int) + f.imm.toInt * n

section
variable {f : MForm} {n : Nat} {kind : AccKind} {read : Bool} {data : Nat → List Byte} {cx : Cx} {s : State}

theorem privateAccess_misaligned (h : (s.group cx.k).lpBase.toNat % 128 ≠ 0 ∨ s.sliceOffset cx f n % n ≠ 0) :
    privateAccess f n kind read data cx s =
      .trap s (laneTrap 0x09 0 ((lanesOf cx.act).map (fun l => (l, s.sliceOffset cx f n)))) :=
  if_pos (Bool.or_eq_true_iff.2 (h.imp (decide_eq_true ·) (decide_eq_true ·)))

/-- Neither the slice's base nor the offset is misaligned. -/
theorem slice_aligned (hb : (s.group cx.k).lpBase.toNat % 128 = 0) (hq : s.sliceOffset cx f n % n = 0) :
    ¬ (decide ((s.group cx.k).lpBase.toNat % 128 ≠ 0) || decide (s.sliceOffset cx f n % n ≠ 0)) = true := by
  simp [hb, hq]

theorem privateAccess_negative (hb : (s.group cx.k).lpBase.toNat % 128 = 0) (hq : s.sliceOffset cx f n % n = 0) (h : s.sliceOffset cx f n < 0) :
    privateAccess f n kind read data cx s =
      .trap s (laneTrap 0x0A 0 ((lanesOf cx.act).map (fun l => (l, s.sliceOffset cx f n)))) :=
  (if_neg (slice_aligned hb hq)).trans (if_pos h)
end

end Sys2Proof.Machine

namespace Sys2Proof.Proofs
open Machine Laws

/-- Settles O25: the member's number decides whether a cluster access is the block's own, another's, or traps. -/
theorem scratchpadAccesses : Obligations.ScratchpadAccesses := by
  unfold Obligations.ScratchpadAccesses
  intro z w f offs blk own other data here there
  exact ⟨scratchWord (fun _ => rfl) fun _ _ _ => rfl, scratchWord (fun _ => rfl) fun _ _ _ => rfl,
    scratchWord (fun _ => rfl) fun cx s ⟨hlt, hm⟩ => clusterAccess_own hlt hm,
    scratchWord (fun _ => rfl) fun cx s ⟨hlt, hm⟩ => clusterAccess_own hlt hm,
    completesIf (fun _ => rfl) fun cx s ⟨hlt, hm⟩ => congrArg (s.afterEffect cx) (clusterAccess_other hlt hm),
    completesIf (fun _ => rfl) fun cx s ⟨hlt, hm⟩ => congrArg (s.afterEffect cx) (clusterAccess_other hlt hm),
    completesIf (fun _ => rfl) fun cx s h => congrArg (s.afterEffect cx) (clusterAccess_outside h),
    completesIf (fun _ => rfl) fun cx s h => congrArg (s.afterEffect cx) (clusterAccess_outside h)⟩

/-- Settles O26: alignment, then the sign of the offset, decide the trap; a 64-bit element is two words of the slice. -/
theorem lanePrivateAccesses : Obligations.LanePrivateAccesses := by
  unfold Obligations.LanePrivateAccesses
  intro z f q base n at_ offs ok all data access
  refine ⟨scratchWord (fun _ => rfl) fun cx s ⟨hb, hq, hpos⟩ => ?load, scratchWord (fun _ => rfl) fun cx s ⟨hb, hq, hpos⟩ => ?store, ?traps⟩
  case load | store => exact (if_neg (slice_aligned hb hq)).trans (if_neg (Int.not_lt.2 hpos))
  case traps =>
    rintro i gd (⟨rfl, rfl⟩ | ⟨rfl, rfl⟩)
    all_goals exact ⟨completesIf (fun _ => rfl) fun cx s h => congrArg (s.afterEffect cx) (privateAccess_misaligned h),
      completesIf (fun _ => rfl) fun cx s ⟨hb, hq, h⟩ => congrArg (s.afterEffect cx) (privateAccess_negative hb hq h)⟩

end Sys2Proof.Proofs
end

section
/-! The copy engine (O36): the issue of `cp.go` (R275), a copy's start, landing and end (R257, R258), and a ring's push (R291). -/
namespace Sys2Proof.Machine
open Laws

/-! ### The issue of a copy (R275) -/

/-- The 256 bytes of a copy's descriptor, as group `k` sees them, at offset `p` of its block. -/
def State.descAt (s : State) (k p : Nat) : List Byte :=
  (List.range 256).map (fun i => (s.ownBytes k (s.spmAt (s.group k).block (p + i)) 1).headD 0)

/-- Nothing keeps `cp.go` from reading its descriptor at offset `p`, and `n` is the entry for its copy (R275 steps 1 and 2). -/
structure State.ReadsDesc (s : State) (k p n : Nat) : Prop where
  check : s.checkSpm (s.group k).block 256 16 true [(0, (p : Int))] = none
  hold : s.rangeHold (s.group k).block [(none, (p : Int), (p : Int) + 256)] = none
  entry : firstBelow (fun i => !s.copies.any (fun c => c.block == (s.group k).block && c.entry == i)) 16 = some n
  wake : s.wakeFor (s.group k).block [p, p + 255] = none
  own : (List.range 16).any (fun i => s.ownBusy k (s.spmAt (s.group k).block (p + 16 * i)) 16) = false

theorem entry_used_iff {s : State} {b n : Nat} :
    s.copies.any (fun c => c.block == b && c.entry == n) = true ↔ ¬ ∀ c ∈ s.copies, ¬ (c.block = b ∧ c.entry = n) := by
  simp

/-- The lowest entry of the block that no copy holds. -/
theorem lowest_free_entry {s : State} {b n : Nat} (hn : n < 16) (hfree : ∀ c ∈ s.copies, ¬ (c.block = b ∧ c.entry = n))
    (hlow : ∀ i, i < n → ¬ ∀ c ∈ s.copies, ¬ (c.block = b ∧ c.entry = i)) :
    firstBelow (fun i => !s.copies.any (fun c => c.block == b && c.entry == i)) 16 = some n := by
  refine firstBelow_eq_some hn ?_ fun i hi => ?_
  · rw [Bool.eq_false_iff.2 fun h => entry_used_iff.1 h hfree]
    rfl
  · rw [entry_used_iff.2 (hlow i hi)]
    rfl

theorem own_operations_done {s : State} {k b p : Nat} (h : ∀ i, i < 16 → s.ownBusy k (s.spmAt b (p + 16 * i)) 16 = false) :
    (List.range 16).any (fun i => s.ownBusy k (s.spmAt b (p + 16 * i)) 16) = false :=
  List.any_eq_false.2 fun i hi => by simp [h i (List.mem_range.1 hi)]

/-- The places of both sides of a copy meet (R256). -/
def placesMeet (ps : List Place) : Prop := ∃ x y : Place, ps = [x, y] ∧ x.1 = y.1 ∧ x.2.1 < y.2.2 ∧ y.2.1 < x.2.2

section
variable (s : State) (k e : Nat) (d : List Byte)

/-- The places that the copy of descriptor `d` reaches, through the handles that it names. -/
def State.descSpans : List Place :=
  copySpans d (s.opH k e (dSrcReg d)) (s.opH k e (dDstReg d)) (s.ring (s.group k).block (dRnum d))

/-- Descriptor `d` passes its own checks 1 to 6 (R256), and its handle registers and their handles pass theirs (R275). -/
structure State.DescOk : Prop where
  reason : s.descReason (s.group k).block d = none
  regs : ((if dSrcKind d = 0 then [dSrcReg d] else []) ++ (if dDstKind d = 0 then [dDstReg d] else [])).findSome? (s.descRegTrap k e) = none
  handles : ((if dSrcKind d = 0 then s.descHandleTrap k (dSrcReg d) (s.opH k e (dSrcReg d)) (rR + rC) else none).orElse (fun _ =>
    if dDstKind d = 0 then s.descHandleTrap k (dDstReg d) (s.opH k e (dDstReg d)) (rW + rC) else none)) = none

/-- The copy that entry `n` holds for descriptor `d` (R275, R350). -/
def State.newCopy (n : Nat) : Copy :=
  { id := s.nextId, block := (s.group k).block, ctx := s.ctxOf k, desc := d, srcH := s.opH k e (dSrcReg d), dstH := s.opH k e (dDstReg d)
    srcReg := dSrcReg d, dstReg := dDstReg d, entry := n, spans := s.descSpans k e d
    after := s.earlier k (fun a => a.kind.inLoads || a.kind.inStores) }
end

theorem descOk {s : State} {k e : Nat} {d : List Byte} (hreason : s.descReason (s.group k).block d = none)
    (hsrcReg : dSrcKind d = 0 → s.descRegTrap k e (dSrcReg d) = none) (hdstReg : dDstKind d = 0 → s.descRegTrap k e (dDstReg d) = none)
    (hsrc : dSrcKind d = 0 → s.descHandleTrap k (dSrcReg d) (s.opH k e (dSrcReg d)) (rR + rC) = none)
    (hdst : dDstKind d = 0 → s.descHandleTrap k (dDstReg d) (s.opH k e (dDstReg d)) (rW + rC) = none) : s.DescOk k e d where
  reason := hreason
  regs := by
    rw [List.findSome?_eq_none_iff]
    intro r hr
    rcases List.mem_append.1 hr with hr | hr <;> split_ifs at hr with hkind
    · rw [List.mem_singleton.1 hr, hsrcReg hkind]
    · cases hr
    · rw [List.mem_singleton.1 hr, hdstReg hkind]
    · cases hr
  handles := by
    rw [ite_eq_right_iff.2 hsrc, ite_eq_right_iff.2 hdst]
    rfl

/-- What `cp.go` does once it has read its descriptor (R275): a failing check traps at the descriptor's address; an empty copy is done; any other
goes to its entry. -/
theorem cpGo_effect (f : XForm) : ∃ F : Cx → State → Eff, (∀ s, exec (.cpGo f) s = issue (.cpGo f) .any F s) ∧
    ∀ (cx : Cx) (s : State) (p n : Nat) (d : List Byte), (s.opS cx.k cx.e f.xb).toNat = p → s.descAt cx.k p = d → s.ReadsDesc cx.k p n →
      (∀ r, s.descReason (s.group cx.k).block d = some r → F cx s = .trap s { cause := 0x13, addr := p, info := r * 2 ^ 24 }) ∧
      (s.DescOk cx.k cx.e d → placesMeet (s.descSpans cx.k cx.e d) → F cx s = .trap s { cause := 0x13, addr := p, info := 7 * 2 ^ 24 }) ∧
      (s.DescOk cx.k cx.e d → ¬ placesMeet (s.descSpans cx.k cx.e d) → F cx s = if dCount d = 0 then .ok s [] 1 else
        .ok ({ s.fresh.2 with copies := s.fresh.2.copies ++ [s.newCopy cx.k cx.e d n] }.post .copyStart { a := s.nextId }) [] 1) := by
  refine ⟨_, fun _ => rfl, fun cx s p n d hp hd hread => ⟨fun r hr => ?bad, fun hok hmeet => ?clash, fun hok hmeet => ?good⟩⟩
  -- The results of the checks go in before any `match` is reduced: what remains then holds nothing that the kernel could evaluate.
  all_goals
    unfold State.descAt at hd
    simp -iota only [hp, hread.check, hread.hold, hread.entry, hread.wake, hread.own, hd]
  case bad => simp only [hr, Bool.false_eq_true, if_false]
  all_goals
    simp -iota only [hok.reason, hok.regs, hok.handles]
    simp only [State.newCopy, State.descSpans, State.ring] at hmeet ⊢
    generalize copySpans d _ _ _ = ps at hmeet ⊢
    simp only [Bool.false_eq_true, if_false]
  case clash =>
    obtain ⟨x, y, rfl, hkind, hx, hy⟩ := hmeet
    simp [hkind, hx, hy]
  case good =>
    rw [if_neg fun h => hmeet ?_]
    · rfl
    · split at h
      next x y =>
        simp only [Bool.and_eq_true, beq_iff_eq, decide_eq_true_eq] at h
        obtain ⟨⟨hkind, hx⟩, hy⟩ := h
        exact ⟨x, y, rfl, hkind, hx, hy⟩
      · cases h

/-! ### Copies in flight (R257, R258) -/

/-- No copy that its core has been given before `y` has still to start, and the accesses that `y` follows are done (R257, R350). -/
def State.InOrder (s : State) (y : Copy) : Prop :=
  (∀ c ∈ s.copies, unitOfBlock c.block = unitOfBlock y.block → c.id < y.id → c.started = true) ∧ ∀ a ∈ s.accesses, a.id ∉ y.after

theorem State.InOrder.nothing_ahead {s : State} {y : Copy} (h : s.InOrder y) :
    ¬ ((s.copies.any (fun c => unitOfBlock c.block == unitOfBlock y.block && decide (c.id < y.id) && !c.started) ||
      s.accesses.any (fun a => y.after.contains a.id)) = true) := by
  obtain ⟨hcopies, haccesses⟩ := h
  have hc : s.copies.any (fun c => unitOfBlock c.block == unitOfBlock y.block && decide (c.id < y.id) && !c.started) = false :=
    List.any_eq_false.2 fun c hc => by simpa using hcopies c hc
  have ha : s.accesses.any (fun a => y.after.contains a.id) = false := List.any_eq_false.2 fun a ha => by simpa using haccesses a ha
  rw [hc, ha]
  simp

section
variable {s : State} {y : Copy} (hy : s.copy s.arg.a = some y)
include hy

/-- A copy that is no ring's starts. -/
theorem copyBegin_starts (h : s.InOrder y) (hr : dRing y.desc = false) :
    s.copyBegin = (s.setCopy { y with started := true, left := List.range (dCount y.desc) }).post .copyLineLanded { a := y.id } := by
  simp only [State.copyBegin, hy, if_neg h.nothing_ahead, hr, Bool.false_eq_true, if_false]

/-- A ring copy whose ring cannot be used fails at its first element. -/
theorem copyBegin_fails (h : s.InOrder y) (hr : dRing y.desc = true) (hu : (s.ring y.block (dRnum y.desc)).usable = false) :
    s.copyBegin = (s.setCopy { y with started := true, failed := some (0, 0x17) }).post .copyFault { a := y.id } := by
  simp only [State.copyBegin, hy, if_neg h.nothing_ahead, hr, hu, if_true, Bool.not_false]

/-- A byte of element `x` lands: the element's other bytes `rest`, or the copy's other elements, are left. -/
theorem copyLand_byte {i n x : Nat} {s' t u : State} {todo rest : List Nat} (hp : y.paused = false) (hchoice : s.choose y.left.length = (i, s'))
    (hx : y.left[i]? = some x) (hbelow : ∀ w ∈ y.left, ¬ (w < x ∧ sameBytes y.desc w x = true))
    (hbanks : ∀ o ∈ s'.copyOffs y x, s'.bankHeld s'.nextId (s'.spmAt y.block o) = false) (hwake : s'.wakeFor y.block (s'.copyOffs y x) = none)
    (htodo : (tfind y.part x).getD (List.range (2 ^ dEsize y.desc)) = todo) (hbyte : s'.choose todo.length = (n, t))
    (hrest : todo.filter (· != todo.getD n 0) = rest) (hland : t.copyByte y x (todo.getD n 0) rest.isEmpty = .ok u) :
    s.copyLand =
      if rest = [] then
        let left := y.left.filter (· != x)
        ((u.barUpdate y.block (dBar y.desc) (.landing (2 ^ dEsize y.desc))).setCopy { y with left := left, part := tdel y.part x }).post
          (if !left.isEmpty then .copyLineLanded else if y.failed.isSome then .copyFault else .copyComplete) { a := y.id }
      else (u.setCopy { y with part := tput y.part x rest }).post .copyLineLanded { a := y.id } := by
  have hfirst : y.left.any (fun w => decide (w < x) && sameBytes y.desc w x) = false :=
    List.any_eq_false.2 fun w hw => by simpa using hbelow w hw
  have hheld : (s'.copyOffs y x).any (fun o => s'.bankHeld s'.nextId (s'.spmAt y.block o)) = false :=
    List.any_eq_false.2 fun o ho => by simp [hbanks o ho]
  have hleft : y.left.isEmpty = false := by
    cases h : y.left with
    | nil => simp [h] at hx
    | cons => rfl
  unfold State.copyLand
  simp only [hy, hp, hchoice, hx, htodo, hfirst, hheld, hwake, hbyte, hrest, hland, hleft, List.isEmpty_iff, Bool.or_self, Bool.not_false,
    Bool.false_eq_true, if_false, if_true]

/-- A copy that is no ring's leaves its entry. -/
theorem copyDone_no_ring (h : y.tile = none) : s.copyDone = { s with copies := s.copies.filter (fun c => c.id != y.id) } := by
  simp only [State.copyDone, hy, h]

/-- A failed copy leaves its entry; its block had no record of a fault (R258). -/
theorem copyStop_first {x r : Nat} (hf : y.failed = some (x, r)) (hb : (s.block y.block).copyFault = none) :
    s.copyStop = (({ s with copies := s.copies.filter (fun c => c.id != y.id) } : State).setBlock y.block
      { s.block y.block with copyFault := some ⟨dSa y.desc x, dDa y.desc x, r, 0⟩ }).barUpdate y.block (dBar y.desc) (.fault 1) := by
  have hblock : ({ s with copies := s.copies.filter (fun c => c.id != y.id) } : State).block y.block = s.block y.block := rfl
  simp only [State.copyStop, hy, hf, Option.getD_some, hblock, hb]
end

/-- The one tile taken from a ring, written by another than a finishing group, is pushed (R291). -/
theorem pushTile_one {s : State} {t who : Nat} (hflag : s.arg.flag = false) (hwho : who ≠ 1)
    (h : (s.ring s.arg.a s.arg.b).taken = [(t, who, true)]) :
    s.pushTile = s.setRing s.arg.a s.arg.b { s.ring s.arg.a s.arg.b with
      taken := [], rsv := (s.ring s.arg.a s.arg.b).rsv - 1, full := (s.ring s.arg.a s.arg.b).full + 1 } := by
  unfold State.pushTile
  simp [hflag, hwho, h]

end Sys2Proof.Machine

namespace Sys2Proof.Proofs
open Machine Laws

/-- Settles O36: `cp.go` as its descriptor's checks say; each event of a copy in flight, and a ring's push, has its lemma above. -/
theorem copyEngine : Obligations.CopyEngine := by
  unfold Obligations.CopyEngine
  refine ⟨fun f => ?issue, fun s y hy => ⟨?start, ?fails, ?lands, ?done, ?stops⟩, ?push⟩
  case issue =>
    intro b p d src dst spans free read regsOk handlesOk clash
    obtain ⟨F, hexec, hF⟩ := cpGo_effect f
    have hread {cx : Cx} {s : State} {n : Nat} (h : read cx s n) : s.ReadsDesc cx.k (p cx s) n := by
      obtain ⟨hcheck, hhold, ⟨hn, hfree, hlow⟩, hwake, hown⟩ := h
      exact ⟨hcheck, hhold, lowest_free_entry hn hfree hlow, hwake, own_operations_done hown⟩
    have hok {cx : Cx} {s : State} (hreason : s.descReason (b cx s) (d cx s) = none) (hregs : regsOk cx s) (hhandles : handlesOk cx s) :
        s.DescOk cx.k cx.e (d cx s) := descOk hreason hregs.1 hregs.2 hhandles.1 hhandles.2
    refine ⟨fun n => completesIf hexec fun cx s ⟨hr, hreason, hregs, hhandles, hclash, hcount⟩ => ?starts,
      fun n => completesIf hexec fun cx s ⟨hr, hreason, hregs, hhandles, hclash, hcount⟩ => ?empty,
      fun n r => completesIf hexec fun cx s ⟨hr, hreason⟩ => ?bad,
      fun n => completesIf hexec fun cx s ⟨hr, hreason, hregs, hhandles, hclash⟩ => ?clash⟩
    all_goals obtain ⟨hbad, hmeet, hgood⟩ := hF cx s _ n _ rfl rfl (hread hr)
    case starts => exact congrArg (s.afterEffect cx) ((hgood (hok hreason hregs hhandles) hclash).trans (if_neg hcount))
    case empty => exact congrArg (s.afterEffect cx) ((hgood (hok hreason hregs hhandles) hclash).trans (if_pos hcount))
    case bad => exact congrArg (s.afterEffect cx) (hbad r hreason)
    case clash => exact congrArg (s.afterEffect cx) (hmeet (hok hreason hregs hhandles) hclash)
  case start => exact fun h hr => congrArg _ (copyBegin_starts hy h hr)
  case fails => exact fun h hr hu => congrArg _ (copyBegin_fails hy h hr hu)
  case lands =>
    intro hp x t i s' offs todo c rest left hx hbelow hbanks hwake hland
    have hbyte := copyLand_byte hy hp rfl hx hbelow hbanks hwake rfl rfl rfl hland
    exact ⟨fun h => congrArg _ (hbyte.trans (if_neg h)), fun h => congrArg _ (hbyte.trans (if_pos h))⟩
  case done => exact fun h => congrArg _ (copyDone_no_ring hy h)
  case stops => exact fun x r hf hb => congrArg _ (copyStop_first hy hf hb)
  case push => exact fun s t who hflag hwho h => congrArg _ (pushTile_one hflag hwho h)

end Sys2Proof.Proofs
end

section
/-! Accesses through a handle (R264): loads (O23) and stores (O24). -/
namespace Sys2Proof.Machine
open Laws

theorem wideScope_eq (sc : Nat) : wideScope sc = decide (sc = 3 ∨ sc = 4) := (Bool.decide_or ..).symm

theorem handleAccess_enters {s : State} {cx : Cx} {hr need n align : Nat} {offs : List (Nat × Int)} {a : HandleReg → Access} {lane0 : Int}
    (hcheck : s.checkHandle cx.k (s.opH cx.k cx.e hr) hr need n align offs = none)
    (hhold : s.rangeHold (s.group cx.k).block (objPlaces (s.opH cx.k cx.e hr) n offs) = none) :
    s.handleAccess cx hr need n align offs a lane0 = .ok (s.newAccess cx { a (s.opH cx.k cx.e hr) with
      hbits := (s.opH cx.k cx.e hr).bits, hreg := hr % 32, off0 := bitsOf 64 lane0 }) [] 1 := by
  simp only [State.handleAccess, hcheck, hhold]

end Sys2Proof.Machine

namespace Sys2Proof.Proofs
open Machine

/-- Settles O23: each load is an access through its handle; an acquiring one then holds the group's later accesses. -/
theorem handleLoads : Obligations.HandleLoads := by
  unfold Obligations.HandleLoads
  intro z zw zs w f load at0 each row one
  refine ⟨handleWord fun _ => rfl, handleWord fun _ => rfl, handleWord fun _ => rfl, handleWord fun _ => rfl,
    completesIf (fun _ => rfl) fun cx s ⟨hcheck, hhold⟩ => ?acquire⟩
  case acquire =>
    dsimp only [one] at hcheck hhold
    simp only [handleAccess_enters hcheck hhold, wideScope_eq]
    rfl

/-- Settles O24: each store is an access through its handle, whose elements carry their data; a release's names what it comes after. -/
theorem handleStores : Obligations.HandleStores := by
  unfold Obligations.HandleStores
  intro z zw zs w f store at0 each row one
  exact ⟨handleWord fun _ => rfl, handleWord fun _ => rfl, handleWord fun _ => rfl, handleWord fun _ => rfl, handleWord fun _ => rfl⟩

end Sys2Proof.Proofs
end

section
/-! Handles as values (O28): narrowing (R279), fields, moves and tests (R280). -/
namespace Sys2Proof.Machine

section
variable {h : HandleReg} {r : Nat}

/-- A valid handle whose reserved bits are zero (R279 check 1). -/
def HandleReg.usable (h : HandleReg) : Prop := h.valid = true ∧ h.bits.toNat % 256 = 0
/-- A handle that is not sealed and carries the right to derive (R279 check 2). -/
def HandleReg.derivable (h : HandleReg) : Prop := bitAt h.rights 7 = false ∧ bitAt h.rights 6 = true

theorem HandleReg.usable_iff : h.usable ↔ ¬ (!h.valid || h.bits.toNat % 256 != 0) = true := by
  simp [HandleReg.usable]

theorem HandleReg.derivable_iff : h.derivable ↔ ¬ (bitAt h.rights 7 || !bitAt h.rights 6) = true := by
  simp [HandleReg.derivable]

theorem narrowTrap_unusable (hu : ¬ h.usable) : narrowTrap h r = some { cause := 0x06, info := 1 * 2 ^ 24 + r % 32 } :=
  if_pos (not_not.1 (mt HandleReg.usable_iff.2 hu))

theorem narrowTrap_closed (hu : h.usable) (ho : ¬ h.derivable) : narrowTrap h r = some { cause := 0x08, info := 2 * 2 ^ 24 + r % 32 } :=
  (if_neg (HandleReg.usable_iff.1 hu)).trans (if_pos (not_not.1 (mt HandleReg.derivable_iff.2 ho)))

theorem narrowTrap_none (hu : h.usable) (ho : h.derivable) : narrowTrap h r = none :=
  (if_neg (HandleReg.usable_iff.1 hu)).trans (if_neg (HandleReg.derivable_iff.1 ho))
end

end Sys2Proof.Machine

namespace Sys2Proof.Proofs
open Machine

/-- Settles O28: `narrowTrap` judges both narrowing words; `hderive` then judges its range. -/
theorem handleWords : Obligations.HandleWords := by
  unfold Obligations.HandleWords
  intro f
  dsimp only
  refine ⟨?traps, completesIf (fun _ => rfl) fun cx s ⟨hu, ho, hlen⟩ => ?outside, completesIf (fun _ => rfl) fun cx s ⟨hu, ho, hlen⟩ => ?derived,
    completesIf (fun _ => rfl) fun cx s ⟨hu, ho⟩ => ?restricted, completesAs (fun _ => rfl) fun _ _ => rfl,
    completesAs (fun _ => rfl) fun _ _ => rfl, completesAs (fun _ => rfl) fun _ _ => rfl⟩
  case traps =>
    rintro i (rfl | rfl)
    all_goals
      refine ⟨completesIf (fun _ => rfl) fun cx s hu => ?_, completesIf (fun _ => rfl) fun cx s ⟨hu, ho⟩ => ?_⟩
      · simp only [narrowTrap_unusable hu]
        rfl
      · simp only [narrowTrap_closed hu ho]
        rfl
  case outside =>
    simp only [narrowTrap_none hu ho]
    exact congrArg (s.afterEffect cx) (if_pos hlen)
  case derived =>
    simp only [narrowTrap_none hu ho]
    exact congrArg (s.afterEffect cx) (if_neg (Nat.not_lt.2 hlen))
  case restricted =>
    simp only [narrowTrap_none hu ho]
    rfl

end Sys2Proof.Proofs
end

section
/-! Fences, cleans, invalidations and prefetches (R272, R252, R276, R277), and hints (R118-R120): O27. -/
namespace Sys2Proof.Machine
open Laws

/-! ### What a program can tell of a hint -/

/-- What a hint or a prefetch, its register move apart, leaves as it was: groups, memory and the hub. -/
def State.hintFrame (s : State) : Tab Group × Memory × Hub := (s.groups, s.mem, s.hub)

theorem hintFrame_eq {s t : State} (hg : t.groups = s.groups) (hm : t.mem = s.mem) (hh : t.hub = s.hub) : t.hintFrame = s.hintFrame :=
  congrArg₂ Prod.mk hg (congrArg₂ Prod.mk hm hh)

/-- Whichever of two states a branch answers, it keeps what both keep. -/
theorem hintFrame_ite {c : Prop} [Decidable c] {s t u : State} (ht : t.hintFrame = s.hintFrame) (hu : u.hintFrame = s.hintFrame) :
    (if c then t else u).hintFrame = s.hintFrame := by
  split <;> assumption

section
variable (s : State)

theorem choose_hintFrame (n : Nat) : (s.choose n).2.hintFrame = s.hintFrame := by
  unfold State.choose
  split <;> rfl

theorem portRead_hintFrame (ctx obj key addr : Nat) : (s.portRead ctx obj key addr).2.hintFrame = s.hintFrame := by
  unfold State.portRead
  dsimp only
  split
  · rfl
  · split
    · rfl
    · exact choose_hintFrame s 2

theorem walkPage_hintFrame (ctx obj v page : Nat) (ctl : Bool) : (s.walkPage ctx obj v page ctl).2.hintFrame = s.hintFrame := by
  have hp := portRead_hintFrame s ctx obj (1 + page) (entBase v + 16 * page)
  unfold State.walkPage
  dsimp only
  split_ifs
  · rfl
  all_goals exact hp

theorem walkEntry_hintFrame (ctx obj gen : Nat) : (s.walkEntry ctx obj gen).2.hintFrame = s.hintFrame := by
  unfold State.walkEntry
  dsimp only
  split
  · rfl
  · exact portRead_hintFrame ..

theorem walk_hintFrame (ctx obj gen a : Nat) (ctl : Bool) : (s.walk ctx obj gen a ctl).2.hintFrame = s.hintFrame := by
  have he := walkEntry_hintFrame s ctx obj gen
  unfold State.walk
  split
  · next t ht => rwa [ht] at he
  · next v t ht =>
    rw [ht] at he
    exact (walkPage_hintFrame ..).trans he

theorem fillLine_hintFrame (u ctx obj gen a ext : Nat) : (s.fillLine u ctx obj gen a ext).hintFrame = s.hintFrame := by
  have hv (c : Prop) [Decidable c] (n : Nat) : (if c then s.choose n else (n, s)).2.hintFrame = s.hintFrame := by
    split
    · exact choose_hintFrame ..
    · rfl
  unfold State.fillLine
  dsimp only
  split
  · exact hv _ _
  · rfl

theorem prefetch_hintFrame (k : Nat) (h : HandleReg) (o : Nat) (l1 : Bool) : (s.prefetch k h o l1).hintFrame = s.hintFrame := by
  have hw := walk_hintFrame s (s.ctxOf k) h.obj h.gen (h.base + o) (kindOf k == .control)
  unfold State.prefetch
  dsimp only
  split
  · next x t ht =>
    rw [ht] at hw
    refine hintFrame_ite hw (hintFrame_ite ((fillLine_hintFrame ..).trans ?_) ?_)
    all_goals
      split
      · exact hintFrame_ite hw hw
      · exact hw
  · next t ht => rwa [ht] at hw

theorem wakeReg_hintFrame (u j : Nat) : (s.wakeReg u j).hintFrame = s.hintFrame :=
  have ⟨hmem, ⟨hhub, _⟩, _⟩ := frame_of_outside (wakeReg_outside s 0 u j)
  hintFrame_eq (wakeReg_groups ..) hmem hhub
end

/-! ### Hints (R119, R120) -/

/-- The prefetch of `hint.pf`, where it makes one. -/
theorem hintPf_effect (f : TForm) : ∃ F : Cx → State → Eff, (∀ s, exec (.hintPf f) s = issue (.hintPf f) .always F s) ∧
    ∀ cx s, ∃ t, F cx s = .ok t (hintMove f cx s) 1 ∧ t.hintFrame = s.hintFrame :=
  ⟨_, fun _ => rfl, fun _ s => ⟨_, rfl, hintFrame_ite (prefetch_hintFrame s ..) rfl⟩⟩

/-- The wake of `hint.bank`, where it makes one. -/
theorem hintBank_effect (f : TForm) : ∃ F : Cx → State → Eff, (∀ s, exec (.hintBank f) s = issue (.hintBank f) .always F s) ∧
    ∀ cx s, ∃ t, F cx s = .ok t (hintMove f cx s) 1 ∧ t.hintFrame = s.hintFrame := by
  refine ⟨_, fun _ => rfl, fun cx s => ⟨_, rfl, hintFrame_ite ?_ rfl⟩⟩
  split
  · exact hintFrame_ite (wakeReg_hintFrame ..) rfl
  · rfl

/-- A hint with such an effect is its move, and nothing that a program can tell from it. -/
theorem hint_moves {i : Instr} {f : TForm} {F : Cx → State → Eff} (hexec : ∀ s, exec i s = issue i .always F s)
    (hF : ∀ cx s, ∃ t, F cx s = .ok t (hintMove f cx s) 1 ∧ t.hintFrame = s.hintFrame) {s s' : State} {cx : Cx}
    (h : s.readyFor i .always = some (cx, s')) :
    ∃ t, exec i s = .next (s'.retiredTo t cx (hintMove f cx s') 1) ∧ t.groups = s'.groups ∧ t.mem = s'.mem ∧ t.hub = s'.hub := by
  obtain ⟨t, heff, hhintFrame⟩ := hF cx s'
  obtain ⟨hg, hm, hh⟩ := Prod.mk.inj hhintFrame |>.imp_right Prod.mk.inj
  exact ⟨t, (exec_afterEffect hexec h (.inr rfl)).trans (heff ▸ rfl), hg, hm, hh⟩

/-! ### Prefetches (R277) -/

theorem prefetchG_checked {cx : Cx} {s : State} {g : MForm} {l1 : Bool} (h : s.checkHandle cx.k (s.opH cx.k cx.e g.h.toNat) g.h.toNat rR 1 1
    (s.accessOffsets cx g 16 false false true) = none) : prefetchG g l1 cx s =
      .ok (s.prefetch cx.k (s.opH cx.k cx.e g.h.toNat) (((s.accessOffsets cx g 16 false false true).headD (0, 0)).2).toNat l1) [] 1 := by
  simp only [prefetchG, h]

end Sys2Proof.Machine

namespace Sys2Proof.Proofs
open Machine

/-- Settles O27: a range of no bytes completes its word at once; a hint's prefetch or wake keeps what a program can tell. -/
theorem hintsFencesAndCacheWords : Obligations.HintsFencesAndCacheWords := by
  unfold Obligations.HintsFencesAndCacheWords
  refine ⟨fun f g => ?words, fun op f => ⟨completesAs (fun _ => rfl) fun _ _ => rfl, ?hints⟩⟩
  case hints =>
    rintro i (rfl | rfl) s s' cx h
    · obtain ⟨F, hexec, hF⟩ := hintPf_effect f
      exact hint_moves hexec hF h
    · obtain ⟨F, hexec, hF⟩ := hintBank_effect f
      exact hint_moves hexec hF h
  case words =>
    dsimp only
    refine ⟨fun hsc => completesAs (fun _ => rfl) fun cx s => congrArg (s.afterEffect cx) (if_pos hsc),
      fun hsc => completesAs (fun _ => rfl) fun cx s => (congrArg (s.afterEffect cx) (if_neg hsc)).trans ?fence,
      completesAs (fun _ => rfl) fun _ _ => rfl,
      completesIf (fun _ => rfl) fun cx s ⟨hc, hn⟩ => ?cleanNothing, completesIf (fun _ => rfl) fun cx s ⟨hc, hn⟩ => ?cleanRange,
      completesAs (fun _ => rfl) fun _ _ => rfl,
      completesIf (fun _ => rfl) fun cx s ⟨hc, hn⟩ => ?invalNothing, completesIf (fun _ => rfl) fun cx s ⟨hc, hn⟩ => ?invalRange,
      completesAs (fun _ => rfl) fun _ _ => rfl,
      fun t => ⟨completesIf (fun _ => rfl) fun cx s hc => ?cleanTraps, completesIf (fun _ => rfl) fun cx s hc => ?invalTraps⟩,
      completesIf (fun _ => rfl) fun cx s hc => congrArg (s.afterEffect cx) (prefetchG_checked hc),
      completesIf (fun _ => rfl) fun cx s hc => congrArg (s.afterEffect cx) (prefetchG_checked hc)⟩
    case fence =>
      have hdrop : (mf f.mod 3 2 != 2 && wideScope (mf f.mod 0 3)) =
          decide (mf f.mod 3 2 ≠ 2 ∧ (mf f.mod 0 3 = 3 ∨ mf f.mod 0 3 = 4)) := by
        rw [wideScope_eq, Bool.decide_and, decide_not]
        rfl
      rw [← hdrop]
      rfl
    case cleanNothing | invalNothing =>
      simp only [State.rangeTrap, hc]
      exact congrArg (s.afterEffect cx) (if_pos hn)
    case cleanRange | invalRange =>
      simp only [State.rangeTrap, hc]
      exact congrArg (s.afterEffect cx) (if_neg hn)
    case cleanTraps | invalTraps =>
      simp only [State.rangeTrap, hc]
      rfl

end Sys2Proof.Proofs
end

section
/-! Accesses at their places (O44): acceptance at the port (R57 steps 6 to 8), and one element performed at a memory key (R266-R270, R333, R344). -/
namespace Sys2Proof.Machine
open Laws

theorem leNat_leBytes (n x : Nat) : leNat (leBytes n x) = x % 256 ^ n := by
  induction n generalizing x with
  | zero => simp [leBytes, leNat, Nat.mod_one]
  | succ n ih =>
    rw [leBytes, leNat, ih, Nat.pow_succ', Nat.mod_mul, BitVec.toNat_ofNat]

/-! ### Acceptance -/

section
variable {s t : State} {a : Access} {el : Elem}

theorem acceptAccess_handle (ha : s.access s.arg.a = some a) (hacc : a.accepted = false) (hpause : a.paused = false) (hfail : a.fail = none)
    (hmember : a.member = none) (hk : a.kind = .load ∨ a.kind = .store) : s.acceptAccess = s.acceptHandle a := by
  rcases hk with hk | hk <;> simp [State.acceptAccess, ha, hacc, hpause, hfail, hmember, hk]

/-- The one element of the access is resolved. -/
theorem acceptHandle_places (he : a.elems = [el]) {l : Loc} {f : Nat} (h : s.portElem a el = (.ok (l, f), t)) :
    s.acceptHandle a = t.setAccess { a with accepted := true, elems := splitHost a.kind { el with loc := l, flags := f } } := by
  simp [State.acceptHandle, he, h]

/-- It fails, and its access does not wait. -/
theorem acceptHandle_fails (he : a.elems = [el]) {st : Nat} (h : s.portElem a el = (.error st, t)) (h0 : st ≠ 0) (h8 : st ≠ 8) :
    s.acceptHandle a = t.portFails { a with elems := [{ el with flags := 0 }] }
      { cause := stepCause st, src := 1, fmask := maskOf (fun l => [el].any (fun y => y.lane == l)), addr := el.off
        info := st * 2 ^ 24 + a.hreg } false := by
  simp [State.acceptHandle, he, h, h0, h8, beq_false_of_ne h8]

/-- It fails for residence: its access waits, in its place. -/
theorem acceptHandle_suspends (he : a.elems = [el]) (h : s.portElem a el = (.error 8, t)) {o : Bool × State}
    (ho : t.extentOrd a.ctx (field a.hbits.toNat 104 24) (field a.hbits.toNat 96 8) el.obj = o) :
    s.acceptHandle a = o.2.portFails { a with elems := [{ el with flags := if o.1 then 1 else 0 }] }
      { cause := stepCause 8, src := 1, fmask := maskOf (fun l => [el].any (fun y => y.lane == l)), addr := el.off, addr2 := el.obj
        info := 8 * 2 ^ 24 + a.hreg } true := by
  simp [State.acceptHandle, he, h, ho]
end

/-! ### A bank's drops, and a write at a key (R154, R265) -/

section
variable (s : State) (id key : Nat)

/-- A drop of the key's bank comes before the access named `id` and has still to take effect. -/
def State.dropDue : Bool := isSpmKey key && (s.core (spmKeyUnit key)).drops.any (fun d => d.1 == spmKeyBank key && decide (d.2 ≤ id))
/-- The key's bank is off, by a drop that does not come after the access named `id`. -/
def State.bankOff : Bool :=
  isSpmKey key && tget .off (s.core (spmKeyUnit key)).spmBank (spmKeyBank key) == .off && !s.dropsAfter id key
/-- `x` lies in the bank of the key. -/
abbrev inBankOf (key x : Nat) : Prop :=
  spmKey (spmKeyUnit key) (spmKeyBank key * bankSize (spmKeyUnit key)) ≤ x ∧
    x < spmKey (spmKeyUnit key) (spmKeyBank key * bankSize (spmKeyUnit key)) + bankSize (spmKeyUnit key)

theorem bankLost_eq : s.bankLost id key = (s.dropDue id key || s.bankOff id key) := by
  simp only [State.bankLost, State.dropDue, State.bankOff, State.dropsAfter, spmKeyBank]
  cases isSpmKey key <;> rfl

variable {s id key}

theorem settleDrops_due (h : s.dropDue id key = true) : s.settleDrops id key = (s.setCore (spmKeyUnit key) { s.core (spmKeyUnit key) with
    drops := (s.core (spmKeyUnit key)).drops.filter (fun d => !(d.1 == spmKeyBank key && decide (d.2 ≤ id))) }).zero
      (spmKey (spmKeyUnit key) (spmKeyBank key * bankSize (spmKeyUnit key))) (bankSize (spmKeyUnit key)) :=
  if_pos h

theorem settleDrops_not_due (h : s.dropDue id key = false) : s.settleDrops id key = s := if_neg (Bool.eq_false_iff.1 h)

theorem setCore_byte (s : State) (u : Nat) (c : Core) (x : Nat) : (s.setCore u c).byte x = s.byte x := rfl

theorem settleDrops_byte (x : Nat) : (s.settleDrops id key).byte x = if s.dropDue id key = true ∧ inBankOf key x then 0 else s.byte x := by
  cases h : s.dropDue id key with
  | false => simp [settleDrops_not_due h]
  | true =>
    rw [settleDrops_due h, byte_zero, setCore_byte]
    simp only [true_and]

/-- Drops that take effect are those before the access: the bank's state and the drops after it stay. -/
theorem settleDrops_bankOff : (s.settleDrops id key).bankOff id key = s.bankOff id key := by
  cases h : s.dropDue id key with
  | false => rw [settleDrops_not_due h]
  | true =>
    have hafter (d : Nat × Nat) : (!(d.1 == spmKeyBank key && decide (d.2 ≤ id)) && (d.1 == spmKeyBank key && decide (id < d.2))) =
        (d.1 == spmKeyBank key && decide (id < d.2)) := by
      by_cases hd : id < d.2
      · simp [hd, Nat.not_le.2 hd]
      · simp [hd]
    simp only [settleDrops_due h, State.bankOff, State.dropsAfter, zero_core, core_setCore_self, List.any_filter, hafter]

theorem storeAt_off (h : s.bankOff id key = true) (bs : List Byte) : s.storeAt id key bs =
    (((s.settleDrops id key).setCore (spmKeyUnit key) { (s.settleDrops id key).core (spmKeyUnit key) with
      spmBank := tput ((s.settleDrops id key).core (spmKeyUnit key)).spmBank (spmKeyBank key) .on }).zero
        (spmKey (spmKeyUnit key) (spmKeyBank key * bankSize (spmKeyUnit key))) (bankSize (spmKeyUnit key))).write key bs :=
  if_pos (settleDrops_bankOff.trans h)

theorem storeAt_on (h : s.bankOff id key = false) (bs : List Byte) : s.storeAt id key bs = (s.settleDrops id key).write key bs :=
  if_neg (Bool.eq_false_iff.1 (settleDrops_bankOff.trans h))

theorem byteAtWrite_eq (x : Nat) : s.byteAtWrite id key x = if s.bankLost id key = true ∧ inBankOf key x then 0 else s.byte x := rfl

/-- The bytes written, in a bank whose lost contents are zero. -/
theorem storeAt_byte (bs : List Byte) (x : Nat) : (s.storeAt id key bs).byte x =
    if key ≤ x ∧ x < key + bs.length then bs.getD (x - key) 0 else s.byteAtWrite id key x := by
  rw [byteAtWrite_eq, bankLost_eq]
  cases h : s.bankOff id key with
  | true =>
    have hbank : (if inBankOf key x then 0 else (s.settleDrops id key).byte x) = if inBankOf key x then 0 else s.byte x := by
      split
      · rfl
      · next hx => rw [settleDrops_byte, if_neg fun hc => hx hc.2]
    rw [storeAt_off h, byte_write, byte_zero, setCore_byte, hbank]
    simp only [Bool.or_true, true_and]
  | false => rw [storeAt_on h, byte_write, settleDrops_byte, Bool.or_false]

/-- Where nothing of the key's bank is lost, a write finds every byte as it was. -/
theorem byteAtWrite_kept (h : s.bankLost id key = false) (x : Nat) : s.byteAtWrite id key x = s.byte x := by
  simp [State.byteAtWrite, h]

theorem settleDrops_kept (h : s.bankLost id key = false) : s.settleDrops id key = s := by
  rw [bankLost_eq, Bool.or_eq_false_iff] at h
  exact settleDrops_not_due h.1
end

/-! ### What a performance at a key leaves alone -/

/-- What no performance at a memory key changes: accesses, groups, and the hub with its tables. -/
def State.offMemory (s : State) : List Access × Tab Group × Hub × Tab Context × Tab Queue × Tab Launch × Tab RecRing × Tab Frame × List Binding :=
  (s.accesses, s.groups, s.hub, s.contexts, s.queues, s.launches, s.rings, s.frames, s.bindings)

section
variable {s t : State}

theorem offMemory_parts (h : t.offMemory = s.offMemory) : t.accesses = s.accesses ∧ t.groups = s.groups ∧ sameHub s t := by
  simpa only [State.offMemory, sameHub, Prod.mk.injEq] using h

theorem sameHub_trans {u : State} (h : sameHub s t) (h' : sameHub t u) : sameHub s u := by
  obtain ⟨hhub, hcontexts, hqueues, hlaunches, hrings, hframes, hbindings⟩ := h
  simpa only [sameHub, hhub, hcontexts, hqueues, hlaunches, hrings, hframes, hbindings] using h'

theorem write_offMemory (k : Nat) (bs : List Byte) : (s.write k bs).offMemory = s.offMemory := rfl
theorem zero_offMemory (k n : Nat) : (s.zero k n).offMemory = s.offMemory := rfl
theorem setCore_offMemory (u : Nat) (c : Core) : (s.setCore u c).offMemory = s.offMemory := rfl

theorem settleDrops_offMemory (id key : Nat) : (s.settleDrops id key).offMemory = s.offMemory := by
  cases h : s.dropDue id key with
  | true => rw [settleDrops_due h, zero_offMemory, setCore_offMemory]
  | false => rw [settleDrops_not_due h]

theorem storeAt_offMemory (id key : Nat) (bs : List Byte) : (s.storeAt id key bs).offMemory = s.offMemory := by
  cases h : s.bankOff id key with
  | true => rw [storeAt_off h, write_offMemory, zero_offMemory, setCore_offMemory, settleDrops_offMemory]
  | false => rw [storeAt_on h, write_offMemory, settleDrops_offMemory]

/-- What an access notes in the caches that may hold its bytes. -/
theorem noteCaches_eq (a : Access) (el : Elem) (key : Nat) : ∃ d l, s.noteCaches a el key = { s with dirty := d, llcHost := l } := by
  unfold State.noteCaches State.holdHost
  dsimp only
  split_ifs <;> exact ⟨_, _, rfl⟩

theorem dropOwnLines_eq (a : Access) (el : Elem) : ∃ l, s.dropOwnLines a el = { s with lines := l } := by
  unfold State.dropOwnLines
  dsimp only
  split
  · exact ⟨_, rfl⟩
  · split
    · exact ⟨_, rfl⟩
    · exact ⟨_, rfl⟩
    · split <;> exact ⟨_, rfl⟩

section
variable (a : Access) (el : Elem) (key : Nat)

@[simp] theorem noteCaches_offMemory : (s.noteCaches a el key).offMemory = s.offMemory := by
  obtain ⟨d, l, h⟩ := noteCaches_eq (s := s) a el key
  rw [h]
  rfl
@[simp] theorem noteCaches_mem : (s.noteCaches a el key).mem = s.mem := by
  obtain ⟨d, l, h⟩ := noteCaches_eq (s := s) a el key
  rw [h]
@[simp] theorem noteCaches_poisoned (k n : Nat) : (s.noteCaches a el key).poisoned k n = s.poisoned k n := by
  obtain ⟨d, l, h⟩ := noteCaches_eq (s := s) a el key
  rw [h]
  rfl
@[simp] theorem noteCaches_bankLost (id k : Nat) : (s.noteCaches a el key).bankLost id k = s.bankLost id k := by
  obtain ⟨d, l, h⟩ := noteCaches_eq (s := s) a el key
  rw [h]
  rfl
@[simp] theorem noteCaches_cached : (s.noteCaches a el key).cached a = s.cached a := by
  obtain ⟨d, l, h⟩ := noteCaches_eq (s := s) a el key
  rw [h]
  rfl

@[simp] theorem dropOwnLines_offMemory : (s.dropOwnLines a el).offMemory = s.offMemory := by
  obtain ⟨l, h⟩ := dropOwnLines_eq (s := s) a el
  rw [h]
  rfl
@[simp] theorem dropOwnLines_mem : (s.dropOwnLines a el).mem = s.mem := by
  obtain ⟨l, h⟩ := dropOwnLines_eq (s := s) a el
  rw [h]
end

theorem byte_congr (h : t.mem = s.mem) (x : Nat) : t.byte x = s.byte x := congrArg (mread · x) h
theorem bytes_eq {k n : Nat} {bs : List Byte} (hn : bs.length = n) (h : ∀ i, i < n → s.byte (k + i) = bs.getD i 0) : s.bytes k n = bs :=
  List.ext_getElem (by simp [State.bytes, hn]) fun i hi hbs => by
    simpa [State.bytes, List.getElem?_eq_getElem hbs] using h i (hn ▸ hbs)
theorem bytes_congr (h : t.mem = s.mem) (k n : Nat) : t.bytes k n = s.bytes k n := List.map_congr_left fun _ _ => byte_congr h _
theorem num_congr (h : t.mem = s.mem) (k n : Nat) : t.num k n = s.num k n := congrArg leNat (bytes_congr h k n)
theorem byteAtWrite_congr {id key : Nat} (h : t.mem = s.mem) (hl : t.bankLost id key = s.bankLost id key) (x : Nat) :
    t.byteAtWrite id key x = s.byteAtWrite id key x := by
  rw [byteAtWrite_eq, byteAtWrite_eq, hl, byte_congr h]
end

/-! ### One element at a key -/

/-- The bytes of a read, none of which its group's own queue gives. -/
theorem map_unowned {α β : Type} {got : List α} {n : Nat} {F : (α × Option β) × Nat → α} (hF : ∀ x i, F ((x, none), i) = x)
    (hn : got.length = n) : (got.zip (List.replicate n none)).zipIdx.map F = got :=
  List.ext_getElem (by simp [hn]) fun i _ _ => by simp [hF]

section
variable {s : State} {a : Access} {el : Elem} {key : Nat}

/-- An atomic that writes. -/
theorem atomAt_writes {id op x : Nat} {d : List Byte} (hkept : s.bankLost id key = false) (hpz : s.poisoned key (atomSize op) = false)
    (hx : atomNew op (s.num key (atomSize op)) (leNat d) = some x) :
    s.atomAt id key op d = (s.bytes key (atomSize op), false, s.storeAt id key (leBytes (atomSize op) x)) := by
  rw [State.num] at hx
  simp only [State.atomAt, settleDrops_kept hkept, hpz, hx, Bool.false_eq_true, if_false]

/-- An atomic that writes nothing. -/
theorem atomAt_keeps {id op : Nat} {d : List Byte} (hkept : s.bankLost id key = false) (hpz : s.poisoned key (atomSize op) = false)
    (hx : atomNew op (s.num key (atomSize op)) (leNat d) = none) : s.atomAt id key op d = (s.bytes key (atomSize op), false, s) := by
  rw [State.num] at hx
  simp only [State.atomAt, settleDrops_kept hkept, hpz, hx, Bool.false_eq_true, if_false]

/-- No store of its group comes before a load: it reads nothing of its own queue. -/
theorem ownByte_first {k before i : Nat} {l : Loc} (h : ∀ b ∈ s.accesses, before ≤ b.id) : s.ownByte k before l i = none := by
  have hnone : s.accesses.filter (fun b => b.group == k && decide (b.id < before) && (b.kind == .store || b.kind == .hst) &&
      b.elems.any (fun el => (el.covers l i).isSome)) = [] :=
    List.filter_eq_nil_iff.2 fun b hb => by simp [Nat.not_lt.2 (h b hb)]
  simp only [State.ownByte, State.ownElem, hnone]
  rfl

/-- A read that no cache and no earlier store serves takes what the memory holds. -/
theorem readElem_memory (hcache : s.cached a = false) (hkept : s.bankLost a.id key = false) (hfirst : ∀ b ∈ s.accesses, a.id ≤ b.id) :
    s.readElem a el key = (s.bytes key el.n, (List.range el.n).any (fun i => s.poisoned (key + i) 1), s) := by
  have hown (i : Nat) : (if a.kind.inLoads then s.ownByte a.group a.id (.mem key) i else none) = none := by
    rw [ownByte_first hfirst, ite_self]
  simp only [State.readElem, settleDrops_kept hkept, hcache, hown, Bool.not_false, Bool.or_true, if_true, List.map_const', List.length_range]
  rw [map_unowned (fun _ _ => rfl) (by simp)]
  simp [State.bytes, Function.comp_def]

theorem performMem_store (hk : a.kind = .store) : ∃ u, s.performMem a 0 el key = ({ el with done := true }, u) ∧
    u.offMemory = s.offMemory ∧
      ∀ x, u.byte x = if key ≤ x ∧ x < key + el.data.length then el.data.getD (x - key) 0 else s.byteAtWrite a.id key x := by
  refine ⟨((s.noteCaches a el key).storeAt a.id key el.data).dropOwnLines a el, by simp only [State.performMem, hk, AccKind.op], ?_, fun x => ?_⟩
  · rw [dropOwnLines_offMemory, storeAt_offMemory, noteCaches_offMemory]
  · rw [byte_congr (dropOwnLines_mem ..), storeAt_byte, byteAtWrite_congr (noteCaches_mem ..) (noteCaches_bankLost ..)]

section
variable {op : Nat} (hk : a.kind = .atom op) (hkept : s.bankLost a.id key = false) (hpz : s.poisoned key (atomSize op) = false)
include hk hkept hpz

theorem performMem_atom_writes {v : Nat} (hv : atomNew op (s.num key (atomSize op)) (leNat el.data) = some v) : ∃ el' u,
    s.performMem a 0 el key = (el', u) ∧ el'.done = true ∧ u.offMemory = s.offMemory ∧
      ∀ x, u.byte x = if key ≤ x ∧ x < key + atomSize op then (leBytes (atomSize op) v).getD (x - key) 0 else s.byte x := by
  have hatom := atomAt_writes (s := s.noteCaches a el key) (id := a.id) ((noteCaches_bankLost ..).trans hkept) ((noteCaches_poisoned ..).trans hpz)
    ((num_congr (noteCaches_mem ..) ..).symm ▸ hv)
  refine ⟨{ el with done := true, result := (s.noteCaches a el key).bytes key (atomSize op), pz := false },
    ((s.noteCaches a el key).storeAt a.id key (leBytes (atomSize op) v)).dropOwnLines a el,
    by simp only [State.performMem, hk, AccKind.op, hatom], rfl, ?_, fun x => ?_⟩
  · rw [dropOwnLines_offMemory, storeAt_offMemory, noteCaches_offMemory]
  · rw [byte_congr (dropOwnLines_mem ..), storeAt_byte, length_leBytes, byteAtWrite_kept ((noteCaches_bankLost ..).trans hkept),
      byte_congr (noteCaches_mem ..)]

theorem performMem_atom_keeps (hv : atomNew op (s.num key (atomSize op)) (leNat el.data) = none) : ∃ el' u,
    s.performMem a 0 el key = (el', u) ∧ el'.done = true ∧ u.offMemory = s.offMemory ∧ u.mem = s.mem := by
  have hatom := atomAt_keeps (s := s.noteCaches a el key) (id := a.id) ((noteCaches_bankLost ..).trans hkept) ((noteCaches_poisoned ..).trans hpz)
    ((num_congr (noteCaches_mem ..) ..).symm ▸ hv)
  refine ⟨{ el with done := true, result := (s.noteCaches a el key).bytes key (atomSize op), pz := false },
    (s.noteCaches a el key).dropOwnLines a el, by simp only [State.performMem, hk, AccKind.op, hatom], rfl, ?_, ?_⟩
  · rw [dropOwnLines_offMemory, noteCaches_offMemory]
  · rw [dropOwnLines_mem, noteCaches_mem]
end

theorem performMem_load (hk : a.kind = .load) (hcache : s.cached a = false) (hkept : s.bankLost a.id key = false)
    (hfirst : ∀ b ∈ s.accesses, a.id ≤ b.id) : s.performMem a 0 el key = ({ el with
        done := true, result := s.bytes key el.n, pz := (List.range el.n).any (fun i => s.poisoned (key + i) 1) }, s.noteCaches a el key) := by
  have haccesses : (s.noteCaches a el key).accesses = s.accesses := (offMemory_parts (noteCaches_offMemory ..)).1
  have hread := readElem_memory (s := s.noteCaches a el key) (el := el) ((noteCaches_cached ..).trans hcache)
    ((noteCaches_bankLost ..).trans hkept) (haccesses ▸ hfirst)
  simp only [State.performMem, hk, AccKind.op, hread, bytes_congr (noteCaches_mem ..), noteCaches_poisoned]
end

end Sys2Proof.Machine
end

section
/-! The end of an access (R143, R396): it leaves the accesses, its slot completes, and the other operations of its group go on. -/
namespace Sys2Proof.Machine
open Laws

section
variable {s : State} {a : Access}

theorem access_setAccess_self {b : Access} (h : s.access a.id = some b) : (s.setAccess a).access a.id = some a := by
  have hid : b.id = a.id := by simpa using List.find?_some h
  have hsame : ((fun x => x.id == a.id) ∘ fun b : Access => if b.id = a.id then a else b) = fun b => b.id == a.id := by
    funext x
    by_cases hx : x.id = a.id <;> simp [hx]
  rw [State.access] at h
  rw [State.access, State.setAccess, List.find?_map, hsame, h, Option.map_some, if_pos hid]

/-! ### What the end of an access keeps -/

theorem freeHolders_accesses (u : Nat) : (s.freeHolders u).accesses = s.accesses := by
  unfold State.freeHolders
  dsimp only
  split <;> rfl
theorem freeHolders_groups (u : Nat) : (s.freeHolders u).groups = s.groups := by
  unfold State.freeHolders
  dsimp only
  split <;> rfl
theorem freeHolds_accesses (k : Nat) : (s.freeHolds k).accesses = s.accesses := by
  unfold State.freeHolds
  dsimp only
  split <;> rfl
theorem freeHolds_subs (k : Nat) : ((s.freeHolds k).group k).subs = (s.group k).subs := by
  have h (g : Group) : ((s.setGroup k g).group k).subs = g.subs := by rw [group_setGroup_self]
  unfold State.freeHolds
  dsimp only
  split
  · exact h _
  · exact h _
theorem vacate_accesses (k : Nat) : (s.vacate k).accesses = s.accesses := by
  unfold State.vacate
  dsimp only
  split
  · rw [postOnce_accesses, setGroup_accesses]
  · rfl
theorem vacate_subs (k : Nat) : ((s.vacate k).group k).subs = (s.group k).subs := by
  unfold State.vacate
  dsimp only
  split
  · rw [group_congr (postOnce_groups ..), group_setGroup_self]
  · rfl

theorem others_go_on_sub (u k e : Nat) : (((s.freeHolders u).freeHolds k).vacate k).sub k e = s.sub k e := by
  have h : ((((s.freeHolders u).freeHolds k).vacate k).group k).subs = (s.group k).subs := by
    rw [vacate_subs, freeHolds_subs, group_congr (freeHolders_groups u)]
  exact congrArg (tget ({} : Sub) · e) h

/-! ### The end itself -/

section
variable {id : Nat} {wrs : List Wr} {fail : Option TrapInfo} (h : s.access id = some a)
include h

theorem complete_access : (s.complete id wrs fail).access id = none := by
  have hacc : (s.complete id wrs fail).accesses = (s.dropAccess id).accesses := by
    unfold State.complete
    rw [h]
    dsimp only
    rw [vacate_accesses, freeHolds_accesses, freeHolders_accesses]
    cases a.slot with
    | none => dsimp only; split <;> rfl
    | some j => dsimp only; split <;> split <;> rfl
  rw [State.access, hacc]
  simp [State.dropAccess]

/-- Its slot, which no rollback has given to another, completes. -/
theorem complete_slot {j : Nat} (hj : a.slot = some j) (hbusy : ((s.sub a.group a.entry).slot j).st = .busy)
    (hseq : ((s.sub a.group a.entry).slot j).seq = a.seq) : ((s.complete id wrs fail).sub a.group a.entry).slot j =
      { (s.sub a.group a.entry).slot j with st := .complete, wrs := wrs, fail := fail } := by
  unfold State.complete
  rw [h]
  dsimp only
  rw [hj]
  dsimp only
  generalize ht : (if (a.acquire && kindOf a.group == CoreKind.lattice) = true then _ else s.dropAccess id) = t
  have hgroups : t.groups = s.groups := by
    rw [← ht]
    split <;> rfl
  have hsub : t.sub a.group a.entry = s.sub a.group a.entry := congrArg (Group.sub · a.entry) (group_congr hgroups a.group)
  rw [others_go_on_sub, hsub, if_pos (by simp [hbusy, hseq]), sub_setSub_self, slot_setSlot, if_pos rfl]
end
end

end Sys2Proof.Machine
end

section
/-! An access of one element at a memory key is performed and ends (O44). -/
namespace Sys2Proof.Machine
open Laws

/-- The event in hand names access `a`, which may be performed now: its one element is `el`, at `key`. -/
structure State.Performs (s : State) (a : Access) (el : Elem) (key : Nat) : Prop where
  access : s.access s.arg.a = some a
  ready : s.accessReady a = true
  elems : a.elems = [el]
  loc : el.loc = .mem key
  elem : s.elemReady a 0 el = true
  awake : s.wakeElem el = none
  error : a.error = 0

/-- The kinds whose performance at a key O44 describes. -/
inductive AccKind.Plain : AccKind → Prop
  | load : AccKind.Plain .load
  | store : AccKind.Plain .store
  | atom (op : Nat) : AccKind.Plain (.atom op)

/-- An access once its one element has become `el`. -/
def Access.withElem (a : Access) (el : Elem) : Access := { a with elems := [el] }

section
variable {s u : State} {a : Access} {el el' : Elem} {key : Nat}

theorem choose_one (s : State) : s.choose 1 = (0, s) := rfl

/-- The last element of a plain access ends it. -/
theorem elemDone_ends (hk : a.kind.Plain) (he : a.elems = [el]) (herr : a.error = 0) (hdone : el'.done = true) :
    u.elemDone a 0 el' = (u.setAccess (a.withElem el')).complete a.id (a.withElem el').results := by
  have hrecord (t : State) : t.redRecord (a.withElem el') = t := by
    generalize ha : a.kind = k at hk
    cases hk <;> simp only [State.redRecord, Access.withElem, ha, AccKind.op]
  have hlaunch : (a.kind == AccKind.launch) = false := by
    generalize a.kind = k at hk
    cases hk <;> rfl
  have hset : a.elems.set 0 el' = [el'] := by rw [he]; rfl
  simp only [State.elemDone, hset, List.all_cons, hdone, List.all_nil, Bool.and_true, if_true]
  rw [show ({ a with elems := [el'] } : Access) = a.withElem el' from rfl, hrecord]
  exact (if_pos herr).trans (if_neg (Bool.eq_false_iff.1 hlaunch))

/-- Of one element that is ready there is no choice. -/
theorem performAccess_one (h : s.Performs a el key) (hk : a.kind.Plain) (i : Instr) (hend : (s.performElem a 0 el).access a.id = none) :
    s.performAccess a i = s.performElem a 0 el := by
  have hrun : s.runReady a 0 el = true := by simp only [State.runReady, h.elem, h.loc, Bool.and_true]
  generalize ha : a.kind = k at hk
  cases hk
  all_goals simp [State.performAccess, ha, h.elems, hrun, choose_one, h.awake, hend]

section
variable (h : s.Performs a el key) (hk : a.kind.Plain) (hp : s.performMem a 0 el key = (el', u)) (hdone : el'.done = true)
  (hu : u.offMemory = s.offMemory)

include h in
theorem State.Performs.access_self : s.access a.id = some a := by
  have hid : a.id = s.arg.a := by simpa using List.find?_some h.access
  exact hid ▸ h.access

include h hu in
theorem State.Performs.access_performed : (u.setAccess (a.withElem el')).access (a.withElem el').id = some (a.withElem el') := by
  have hacc : u.access a.id = some a := (congrArg (List.find? _) (offMemory_parts hu).1).trans h.access_self
  exact access_setAccess_self (a := a.withElem el') hacc

include h hk hp hdone hu

/-- A poll performs the element and ends the access. -/
theorem State.Performs.poll (i : Instr) : s.pollAccess i = (u.setAccess (a.withElem el')).complete a.id (a.withElem el').results := by
  have hperform : s.performElem a 0 el = (u.setAccess (a.withElem el')).complete a.id (a.withElem el').results := by
    simp only [State.performElem, h.loc, hp, elemDone_ends hk h.elems h.error hdone]
  have hend := complete_access (wrs := (a.withElem el').results) (fail := none) (h.access_performed (el' := el') hu)
  have hone := performAccess_one h hk i (hperform ▸ hend)
  simp only [State.pollAccess, h.access, h.ready, if_true, hone, hperform]

/-- What a poll leaves: the access is gone, and all that the element's performance left is as it was. -/
theorem State.Performs.poll_leaves (i : Instr) :
    (s.pollAccess i).access a.id = none ∧ (s.pollAccess i).mem = u.mem ∧ sameHub s (s.pollAccess i) := by
  have hself := h.access_performed (el' := el') hu
  obtain ⟨hmem, hhub, -⟩ := frame_of_outside (complete_outside (wrs := (a.withElem el').results) (fail := none) hself)
  rw [h.poll hk hp hdone hu]
  exact ⟨complete_access hself, hmem, sameHub_trans (offMemory_parts hu).2.2 hhub⟩

/-- Its slot, which no rollback has given to another, has its results. -/
theorem State.Performs.poll_slot (i : Instr) {j : Nat} (hj : a.slot = some j) (hbusy : ((s.sub a.group a.entry).slot j).st = .busy)
    (hseq : ((s.sub a.group a.entry).slot j).seq = a.seq) : ((s.pollAccess i).sub a.group a.entry).slot j =
      { (s.sub a.group a.entry).slot j with st := .complete, wrs := (a.withElem el').results, fail := none } := by
  have hsub : (u.setAccess (a.withElem el')).sub a.group a.entry = s.sub a.group a.entry :=
    congrArg (Group.sub · a.entry) (group_congr (offMemory_parts hu).2.1 a.group)
  rw [← hsub] at hbusy hseq ⊢
  rw [h.poll hk hp hdone hu]
  exact complete_slot (a := a.withElem el') (h.access_performed hu) hj hbusy hseq
end
end

/-! ### The events of an access -/

section
variable {s : State} {i : Instr}

theorem pollAccess_waits {a : Access} (h : s.access s.arg.a = some a) (hr : s.accessReady a = false) : s.pollAccess i = s.again i := by
  simp only [State.pollAccess, h, hr, Bool.false_eq_true, if_false]

theorem pollAccess_gone (h : s.access s.arg.a = none) : s.pollAccess i = s := by
  simp only [State.pollAccess, h]

/-- Both events of an access poll it. -/
theorem exec_poll (hi : i = .slotComplete ∨ i = .storePerformed) (hn : s.arg.a ≠ 0) : exec i s = .next (s.pollAccess i) := by
  rcases hi with rfl | rfl
  · exact congrArg Host.Outcome.next (if_pos hn)
  · rfl
end

end Sys2Proof.Machine

namespace Sys2Proof.Proofs
open Machine Laws

/-- Settles O44: acceptance resolves the element; its performance and the end of its access are `Performs.poll`. -/
theorem accessPerformance : Obligations.AccessPerformance := by
  unfold Obligations.AccessPerformance
  refine ⟨?accepts, ?performs, ?waits⟩
  case accepts =>
    intro s a ha hacc hpause hfail hmember hk el x t he hx
    have hexec : exec .accessAccepted s = .next (s.acceptHandle a) :=
      congrArg Host.Outcome.next (acceptAccess_handle ha hacc hpause hfail hmember hk)
    refine ⟨?_, ?_, ?_⟩
    · rintro l f rfl
      rw [hexec, acceptHandle_places he hx]
    · rintro st rfl h0 h8
      rw [hexec, acceptHandle_fails he hx h0 h8]
    · rintro rfl
      exact hexec.trans (congrArg Host.Outcome.next (acceptHandle_suspends he hx rfl))
  case performs =>
    intro s a el key ha hready he hloc helem hwake herr
    have h : s.Performs a el key := ⟨ha, hready, he, hloc, helem, hwake, herr⟩
    refine ⟨fun hk => ?store, fun op hk hn hkept hpz => ?atom, fun hk hcache hkept hone hn => ?load⟩
    case store =>
      obtain ⟨u, hp, hu, hbyte⟩ := performMem_store (s := s) (el := el) (key := key) hk
      obtain ⟨hgone, hmem, hhub⟩ := h.poll_leaves (hk ▸ .store) hp rfl hu .storePerformed
      refine ⟨_, rfl, hgone, hhub, fun x hx => ?_, fun i hi => ?_⟩
      · rw [byte_congr hmem, hbyte, if_neg (by omega)]
      · rw [byte_congr hmem, hbyte, if_pos (by omega), Nat.add_sub_cancel_left]
    case atom =>
      refine ⟨_, exec_poll (.inl rfl) hn, ?_⟩
      cases hv : atomNew op (s.num key (atomSize op)) (leNat el.data) with
      | some v =>
        obtain ⟨el', u, hp, hdone, hu, hbyte⟩ := performMem_atom_writes hk hkept hpz hv
        obtain ⟨hgone, hmem, -⟩ := h.poll_leaves (hk ▸ .atom op) hp hdone hu .slotComplete
        refine ⟨hgone, fun x hx => ?_, fun x hx hlt => ?_, fun hnone => nomatch hnone⟩
        · rw [byte_congr hmem, hbyte, if_neg (by omega)]
        · cases hx
          have hbytes : u.bytes key (atomSize op) = leBytes (atomSize op) v :=
            bytes_eq (length_leBytes ..) fun i hi => by rw [hbyte, if_pos (by omega), Nat.add_sub_cancel_left]
          rw [State.num, bytes_congr hmem, hbytes, leNat_leBytes, Nat.mod_eq_of_lt hlt]
      | none =>
        obtain ⟨el', u, hp, hdone, hu, hsame⟩ := performMem_atom_keeps hk hkept hpz hv
        obtain ⟨hgone, hmem, -⟩ := h.poll_leaves (hk ▸ .atom op) hp hdone hu .slotComplete
        have hkeep : sameMemory s (s.pollAccess .slotComplete) := byte_congr (hmem.trans hsame)
        exact ⟨hgone, fun x _ => hkeep x, fun _ hx => (nomatch hx), fun _ => hkeep⟩
    case load =>
      have hfirst : ∀ b ∈ s.accesses, a.id ≤ b.id := by simp [hone]
      have hp := performMem_load (el := el) (key := key) hk hcache hkept hfirst
      have hu : (s.noteCaches a el key).offMemory = s.offMemory := noteCaches_offMemory ..
      have hplain : a.kind.Plain := hk ▸ .load
      obtain ⟨hgone, hmem, -⟩ := h.poll_leaves hplain hp rfl hu .slotComplete
      refine ⟨_, exec_poll (.inl rfl) hn, hgone, byte_congr (hmem.trans (noteCaches_mem ..)), fun j hj hbusy hseq => ?_⟩
      rw [h.poll_slot hplain hp rfl hu .slotComplete hj hbusy hseq]
      exact ⟨rfl, rfl⟩
  case waits =>
    intro s i hi hn
    exact ⟨fun a ha hr => (exec_poll hi hn).trans (congrArg _ (pollAccess_waits ha hr)),
      fun ha => (exec_poll hi hn).trans (congrArg _ (pollAccess_gone ha))⟩

end Sys2Proof.Proofs
end

section
/-! The parameter registers (R309): O30. -/
namespace Sys2Proof.Machine
open Laws

/-! ### Even pairs (R121 check 7) -/

/-- A word that can take effect fails none of the checks 4 to 8 of R121. -/
theorem fail_of_ready {i : Instr} {gd : Guarding} {s s' : State} {cx : Cx} (h : s.readyFor i gd = some (cx, s')) :
    (shape (kindOf cx.k) i).fail = none := by
  obtain ⟨t, ht⟩ := decodeTrap_of_ready h
  unfold State.decodeTrap at ht
  dsimp only at ht
  split_ifs at ht
  split at ht
  · assumption
  · cases ht
  · cases ht

/-- Its operands are legal, and its pairs and quads aligned (R121 checks 6 and 7). -/
theorem operands_of_ready {i : Instr} {gd : Guarding} {s s' : State} {cx : Cx} {o : Opnd} (h : s.readyFor i gd = some (cx, s'))
    (ho : o ∈ (shape (kindOf cx.k) i).ops) : o.legal = true ∧ o.aligned = true := by
  have hfail := fail_of_ready h
  unfold Shape.fail at hfail
  split_ifs at hfail with _ _ hlegal haligned
  simp only [Bool.not_eq_true', Bool.not_eq_false, Bool.and_eq_true, List.all_eq_true] at hlegal haligned
  exact ⟨hlegal.1 o ho, haligned o ho⟩

/-- A scalar pair that a word writes is even. -/
theorem sDst_pair_even {v : BitVec 8} {pos : Nat} (hl : (sDst v pos 2).legal = true) (ha : (sDst v pos 2).aligned = true) : v.toNat % 2 = 0 := by
  have hreg : v.toNat < 64 := of_decide_eq_true hl
  simpa [Opnd.aligned, Opnd.isReg, sDst, hreg] using ha

/-! ### The halves of a register -/

theorem land_m_self {s : State} {k e r : Nat} {mask v : W64} :
    tget 0 ((s.land k e (.m r mask v)).group k).m r = (tget 0 (s.group k).m r &&& ~~~mask) ||| (v &&& mask) := by
  obtain ⟨sh, hc⟩ := capture_eq (s.group k) e (.m r mask v)
  simp [State.land, hc]

/-- The result of `mset.b32`: value `v` for the high or the low half of m register `r`. -/
def halfWr (r : Nat) (hi : Bool) (v : W32) : Wr :=
  .m r (if hi then 0xFFFFFFFF00000000 else 0xFFFFFFFF) (BitVec.ofNat 64 (if hi then v.toNat * 2 ^ 32 else v.toNat))

/-- A register is its two halves. -/
theorem halves_append (x : W64) : x.extractLsb' 32 32 ++ x.extractLsb' 0 32 = x := by
  rw [BitVec.extractLsb'_append_extractLsb'_eq_extractLsb' (by decide), BitVec.extractLsb'_eq_self]

theorem low_half_replaced (x : W64) (v : W32) :
    (x &&& ~~~0xFFFFFFFF) ||| (BitVec.ofNat 64 v.toNat &&& 0xFFFFFFFF) = x.extractLsb' 32 32 ++ v := by
  have hmask : (0xFFFFFFFF : W64) = 0#32 ++ BitVec.allOnes 32 := rfl
  have hv : BitVec.ofNat 64 v.toNat = 0#32 ++ v := by
    refine BitVec.eq_of_toNat_eq ?_
    rw [BitVec.toNat_append, BitVec.toNat_ofNat, BitVec.toNat_ofNat, Nat.zero_mod, Nat.zero_shiftLeft, Nat.zero_or]
    omega
  rw [hmask, hv]
  conv_lhs => rw [← halves_append x]
  rw [BitVec.not_append, BitVec.and_append, BitVec.and_append, BitVec.or_append]
  simp only [BitVec.and_zero, BitVec.not_zero, BitVec.not_allOnes, BitVec.and_allOnes, BitVec.or_zero, BitVec.zero_or]

theorem high_half_replaced (x : W64) (v : W32) :
    (x &&& ~~~0xFFFFFFFF00000000) ||| (BitVec.ofNat 64 (v.toNat * 2 ^ 32) &&& 0xFFFFFFFF00000000) = v ++ x.extractLsb' 0 32 := by
  have hmask : (0xFFFFFFFF00000000 : W64) = BitVec.allOnes 32 ++ 0#32 := rfl
  have hv : BitVec.ofNat 64 (v.toNat * 2 ^ 32) = v ++ 0#32 := by
    refine BitVec.eq_of_toNat_eq ?_
    rw [BitVec.toNat_append, BitVec.toNat_ofNat, BitVec.toNat_ofNat, Nat.zero_mod, Nat.or_zero, Nat.shiftLeft_eq]
    omega
  rw [hmask, hv]
  conv_lhs => rw [← halves_append x]
  rw [BitVec.not_append, BitVec.and_append, BitVec.and_append, BitVec.or_append]
  simp only [BitVec.and_zero, BitVec.not_zero, BitVec.not_allOnes, BitVec.and_allOnes, BitVec.or_zero, BitVec.zero_or]

theorem halfWr_replaces {s : State} {k e r : Nat} {hi : Bool} {v : W32} :
    let m (s : State) : W64 := tget 0 (s.group k).m r
    m (s.land k e (halfWr r hi v)) = if hi then v ++ (m s).extractLsb' 0 32 else (m s).extractLsb' 32 32 ++ v := by
  intro m
  cases hi
  · exact land_m_self.trans (low_half_replaced ..)
  · exact land_m_self.trans (high_half_replaced ..)

theorem field_32_eq_extractLsb' (x : W64) (o : Nat) : field x.toNat o 32 = (x.extractLsb' o 32).toNat := by
  rw [BitVec.extractLsb'_toNat, Nat.shiftRight_eq_div_pow, field]

end Sys2Proof.Machine

namespace Sys2Proof.Proofs
open Machine

/-- Settles O30: `mset.b32` lands one half through its mask; the register pair of `mget.b64` passes check 7 of R121 only where it is even. -/
theorem parameterRegisters : Obligations.ParameterRegisters := by
  unfold Obligations.ParameterRegisters
  intro f hi m value
  refine ⟨⟨fun cx s => halfWr f.xd.toNat hi (value cx s), completesAs (fun _ => rfl) fun cx s => ?set, fun cx s k e => halfWr_replaces⟩,
    completesAs (fun _ => rfl) fun cx s => ?half, completesAs (fun _ => rfl) fun cx s => rfl, fun hodd s s' cx hready => ?odd⟩
  case set => rfl
  case half =>
    rw [← field_32_eq_extractLsb']
    rfl
  case odd =>
    obtain ⟨hlegal, haligned⟩ := operands_of_ready (o := sDst f.xa 20 2) hready (List.mem_singleton.2 rfl)
    have := sDst_pair_even hlegal haligned
    omega

end Sys2Proof.Proofs
end

section
/-! Matrix slots and ring registers by instruction (R309, R311, R312), calls (R310), clears (R315) and the loads of the engine (R316): O29. -/
namespace Sys2Proof.Machine

/-! ### Calls (R310) -/

section
variable {s : State} {cx : Cx} {slot bar routine p : Nat}

theorem callRoutine_traps {t : TrapInfo} (h : s.callTrap cx.k slot bar routine = some t) : callRoutine slot bar routine cx s = .trap s t := by
  simp only [callRoutine, h]

theorem callRoutine_starts (h : s.callTrap cx.k slot bar routine = none) (hslot : (s.blockOf cx.k).slotAt slot = some p)
    (hidle : (s.mslot cx.unit p).st ≠ 1) (hboot : s.boot.active ≠ some (3, cx.unit)) :
    callRoutine slot bar routine cx s = .ok (s.startRoutine cx.k p slot bar routine) [] 1 := by
  simp only [callRoutine, h, hslot, Option.getD_some, decide_eq_false hidle, beq_eq_false_iff_ne.2 hboot, Bool.or_self, Bool.false_eq_true, if_false]

theorem callRoutine_waits (h : s.callTrap cx.k slot bar routine = none) (hslot : (s.blockOf cx.k).slotAt slot = some p)
    (hbusy : (s.mslot cx.unit p).st = 1) : callRoutine slot bar routine cx s = .wait s 0x09 slot 0 := by
  simp only [callRoutine, h, hslot, Option.getD_some, decide_eq_true hbusy, Bool.true_or, if_true]
end

/-! ### Clears (R315) -/

section
variable (s : State) (cx : Cx) (n : Nat)

/-- The slot that a group's `mclr.all` has waited for, or the first. -/
def State.clearsFrom : Nat :=
  match (s.sub cx.k cx.e).wait with
  | some w => if w.kind = 0x09 then w.item else 0
  | none => 0

/-- The slots below `n` that it has still to clear, with their physical numbers. -/
def State.toClearBelow : List (Nat × Nat) :=
  (List.range n).filterMap (fun l => if l < s.clearsFrom cx then none else ((s.blockOf cx.k).slotAt l).map (fun p => (l, p)))

theorem toClear_eq : s.toClear cx = s.toClearBelow cx 4 := rfl

/-- Those slots cleared, in ascending order. -/
def State.clearBelow : State :=
  (s.toClearBelow cx n).foldl (fun t x => t.setMslot cx.unit x.2 (t.mslot cx.unit x.2).cleared) s

theorem clearBelow_eq : s.clearBelow cx n =
    ((List.range n).filterMap (fun l => if l < s.clearsFrom cx then none else (s.blockOf cx.k).slotAt l)).foldl
      (fun t p => t.setMslot cx.unit p (t.mslot cx.unit p).cleared) s := by
  have hslots : (s.toClearBelow cx n).map Prod.snd =
      (List.range n).filterMap (fun l => if l < s.clearsFrom cx then none else (s.blockOf cx.k).slotAt l) := by
    rw [State.toClearBelow, List.map_filterMap]
    congr 1
    funext l
    split_ifs <;> simp [Function.comp_def]
  rw [← hslots, List.foldl_map]
  rfl

/-- A slot that is not busy, as `mclr.all` passes over the slots. -/
def State.slotFree (x : Nat × Nat) : Bool := (s.mslot cx.unit x.2).st != 1

/-- None of the slots below `n` that it has still to clear is busy. -/
def State.idleBelow : Prop :=
  ∀ l, l < n → ∀ p, s.clearsFrom cx ≤ l → (s.blockOf cx.k).slotAt l = some p → (s.mslot cx.unit p).st ≠ 1
end

section
variable {s : State} {cx : Cx} {n p : Nat}

theorem mem_toClearBelow {x : Nat × Nat} :
    x ∈ s.toClearBelow cx n ↔ x.1 < n ∧ s.clearsFrom cx ≤ x.1 ∧ (s.blockOf cx.k).slotAt x.1 = some x.2 := by
  obtain ⟨l, p⟩ := x
  simp only [State.toClearBelow, List.mem_filterMap, List.mem_range]
  constructor
  · rintro ⟨a, ha, h⟩
    split_ifs at h with hlt
    obtain ⟨q, hq, heq⟩ := Option.map_eq_some_iff.1 h
    cases heq
    exact ⟨ha, Nat.not_lt.1 hlt, hq⟩
  · rintro ⟨hl, hfrom, hp⟩
    exact ⟨l, hl, by rw [if_neg (Nat.not_lt.2 hfrom), hp]; rfl⟩

theorem State.idleBelow.free (h : s.idleBelow cx n) : ∀ x ∈ s.toClearBelow cx n, s.slotFree cx x = true := by
  intro x hx
  obtain ⟨hl, hfrom, hp⟩ := mem_toClearBelow.1 hx
  exact bne_iff_ne.2 (h _ hl _ hfrom hp)

/-- Slot `n` comes next after those below it. -/
theorem toClear_split (hn : n < 4) (hfrom : s.clearsFrom cx ≤ n) (hslot : (s.blockOf cx.k).slotAt n = some p) :
    ∃ rest, s.toClear cx = s.toClearBelow cx n ++ (n, p) :: rest := by
  obtain ⟨k, hk⟩ := Nat.exists_eq_add_of_lt hn
  have hrange : List.range 4 = List.range n ++ n :: (List.range k).map (fun i => n + (i + 1)) := by
    rw [hk, Nat.add_assoc, List.range_add, List.range_succ_eq_map, List.map_cons, List.map_map]
    rfl
  rw [toClear_eq, State.toClearBelow, hrange, List.filterMap_append, List.filterMap_cons_some (b := (n, p)) (by
    rw [if_neg (Nat.not_lt.2 hfrom), hslot]
    rfl)]
  exact ⟨_, rfl⟩

theorem toClear_all_free (h : s.idleBelow cx 4) : (s.toClear cx).takeWhile (s.slotFree cx) = s.toClearBelow cx 4 ∧
    (s.toClear cx).dropWhile (s.slotFree cx) = [] :=
  ⟨List.takeWhile_eq_self_iff.2 h.free, List.dropWhile_eq_nil_iff.2 h.free⟩

theorem toClear_first_busy (hn : n < 4) (hfrom : s.clearsFrom cx ≤ n) (hslot : (s.blockOf cx.k).slotAt n = some p)
    (hbusy : (s.mslot cx.unit p).st = 1) (hbelow : s.idleBelow cx n) : (s.toClear cx).takeWhile (s.slotFree cx) = s.toClearBelow cx n ∧
    ∃ rest, (s.toClear cx).dropWhile (s.slotFree cx) = (n, p) :: rest := by
  obtain ⟨rest, hsplit⟩ := toClear_split hn hfrom hslot
  have hstop : ¬ s.slotFree cx (n, p) = true := by simp [State.slotFree, hbusy]
  rw [hsplit, List.takeWhile_append_of_pos hbelow.free, List.dropWhile_append_of_pos hbelow.free, List.takeWhile_cons_of_neg hstop,
    List.dropWhile_cons_of_neg hstop, List.append_nil]
  exact ⟨rfl, rest, rfl⟩
end

end Sys2Proof.Machine

namespace Sys2Proof.Proofs
open Machine

/-- Settles O29: what each word finds of its slot, its ring or its checks picks its effect; `mclr.all` stops at the first busy slot. -/
theorem matrixRegistersAndCalls : Obligations.MatrixRegistersAndCalls := by
  unfold Obligations.MatrixRegistersAndCalls
  refine ⟨fun w p f g => ?registers, fun f => ?engine⟩
  case registers =>
    intro hi m x b put
    refine ⟨completesAs (fun _ => rfl) fun _ _ => rfl, completesAs (fun _ => rfl) fun _ _ => rfl, completesAs (fun _ => rfl) fun _ _ => rfl,
      completesAs (fun _ => rfl) fun _ _ => rfl, fun q => completesIf (fun _ => rfl) fun cx s hslot => ?held,
      completesIf (fun _ => rfl) fun cx s hslot => ?notHeld, completesIf (fun _ => rfl) fun cx s hx => ?ring,
      completesIf (fun _ => rfl) fun cx s hx => ?noRing, completesIf (fun _ => rfl) fun cx s hput => ?set,
      fun t => completesIf (fun _ => rfl) fun cx s hput => ?setTraps, completesAs (fun _ => rfl) fun cx s => ?get⟩
    case held | notHeld =>
      dsimp only [x] at hslot
      simp only [hslot]
      rfl
    case ring => exact congrArg (s.afterEffect cx) (if_neg (Nat.not_lt.2 hx))
    case noRing => exact congrArg (s.afterEffect cx) (if_pos hx)
    case set =>
      dsimp only [put, b, x] at hput ⊢
      simp only [beq_iff_eq, hput, Bool.or_eq_true]
      rfl
    case setTraps =>
      dsimp only [put, b, x] at hput
      simp only [beq_iff_eq, hput]
      rfl
    case get =>
      simp only [beq_iff_eq]
      rfl
  case engine =>
    intro xa xb xc blk
    refine ⟨?call, fun p => completesIf (fun _ => rfl) fun cx s ⟨hslot, hidle⟩ => ?clear, completesIf (fun _ => rfl) fun cx s hslot => ?noSlot,
      ⟨completesIf (fun _ => rfl) fun cx s hidle => ?clearAll,
        fun n p => completesIf (fun _ => rfl) fun cx s ⟨hn, hfrom, hslot, hbusy, hbelow⟩ => ?clearWaits⟩,
      completesIf (fun _ => rfl) fun cx s hruns => ?loadRt, completesIf (fun _ => rfl) fun cx s ⟨hcheck, hruns⟩ => ?loadCode,
      completesAs (fun _ => rfl) fun _ _ => rfl⟩
    case call =>
      rintro i routine (⟨rfl, rfl⟩ | ⟨rfl, rfl⟩)
      all_goals exact ⟨
        fun p => completesIf (fun _ => rfl) fun cx s ⟨hcheck, hslot, hidle, hboot⟩ =>
          congrArg (s.afterEffect cx) (callRoutine_starts hcheck hslot hidle hboot),
        fun t => completesIf (fun _ => rfl) fun cx s hcheck => congrArg (s.afterEffect cx) (callRoutine_traps hcheck),
        fun p => completesIf (fun _ => rfl) fun cx s ⟨hcheck, hslot, hbusy⟩ =>
          congrArg (s.afterEffect cx) (callRoutine_waits hcheck hslot hbusy)⟩
    case clear =>
      dsimp only [blk] at hslot
      simp only [hslot, if_neg hidle]
      rfl
    case noSlot =>
      dsimp only [blk] at hslot
      simp only [hslot]
      rfl
    case clearAll =>
      obtain ⟨htake, hdrop⟩ := toClear_all_free hidle
      unfold State.slotFree at htake hdrop
      simp only [htake, hdrop]
      exact congrArg (s.retiredTo · cx [] 1) (clearBelow_eq s cx 4)
    case clearWaits =>
      obtain ⟨htake, rest, hdrop⟩ := toClear_first_busy hn hfrom hslot hbusy hbelow
      unfold State.slotFree at htake hdrop
      simp only [htake, hdrop]
      exact congrArg (State.waitFor · cx.k cx.e 0x09 n 0) (clearBelow_eq s cx n)
    case loadRt =>
      simp only [hruns]
      rfl
    case loadCode =>
      simp only [hcheck, hruns]
      rfl

end Sys2Proof.Proofs
end

section
/-! Pushes and pops of a ring by a group (R313, R291): O31. -/
namespace Sys2Proof.Machine

section
variable {f : XForm} {go : Nat → Nat → Ring → Cx → State → Eff} {cx : Cx} {s : State}

/-- The ring that a ring operation names exists and can be used (R290). -/
def State.usesRing (s : State) (cx : Cx) (f : XForm) : Prop :=
  let n := (s.opS cx.k cx.e f.xb).toNat
  let r := s.ring (s.group cx.k).block n
  n ≤ 7 ∧ r.en = true ∧ r.flt = false

theorem usesRing_iff : s.usesRing cx f ↔
    ¬ (decide (7 < (s.opS cx.k cx.e f.xb).toNat) || !(s.ring (s.group cx.k).block (s.opS cx.k cx.e f.xb).toNat).usable) = true := by
  simp [State.usesRing, Ring.usable]

theorem ringOp_traps (h : ¬ s.usesRing cx f) : ringOp f go cx s = .trap s { cause := 0x14, info := 4 * 2 ^ 24 } :=
  if_pos (not_not.1 (mt usesRing_iff.2 h))

theorem ringOp_goes (h : s.usesRing cx f) : ringOp f go cx s =
    go (s.group cx.k).block (s.opS cx.k cx.e f.xb).toNat (s.ring (s.group cx.k).block (s.opS cx.k cx.e f.xb).toNat) cx s :=
  if_neg (usesRing_iff.1 h)
end

theorem tryWrs_finished {f : XForm} {x : Nat} : tryWrs f true true x = wrP f.xd 0xFFFFFFFF := List.append_nil _

/-- A word on a ring, in the cases where its ring can be used. -/
theorem completesIf_ring {i : Instr} {gd : Guarding} {f : XForm} {go : Nat → Nat → Ring → Cx → State → Eff} {pre : Cx → State → Prop}
    {T : Cx → State → State} (hexec : ∀ s, exec i s = issue i gd (ringOp f go) s)
    (h : ∀ cx s, pre cx s → s.usesRing cx f ∧ s.afterEffect cx (go (s.group cx.k).block (s.opS cx.k cx.e f.xb).toNat
      (s.ring (s.group cx.k).block (s.opS cx.k cx.e f.xb).toNat) cx s) = T cx s) : CompletesIf i gd pre T :=
  completesIf hexec fun cx s hpre => (congrArg (s.afterEffect cx) (ringOp_goes (h cx s hpre).1)).trans (h cx s hpre).2

end Sys2Proof.Machine

namespace Sys2Proof.Proofs
open Machine

/-- Settles O31: whether the ring can be used; then the form, and what the ring holds, decide. -/
theorem ringWords : Obligations.RingWords := by
  unfold Obligations.RingWords
  intro f n b r usable fin takes pops
  refine ⟨?unusable, fun t => ?pushFinish, fun t => ?tryPushFinish, ?popFinish, ?tryPopFinish, ?nothingTaken, ?nothingFull, ?take, ?peek,
    ?tryTake, ?tryTakeFull, ?tryPeek, ?tryPeekEmpty⟩
  case unusable =>
    rintro i gd (⟨rfl, rfl⟩ | ⟨rfl, rfl⟩ | ⟨rfl, rfl⟩ | ⟨rfl, rfl⟩)
    all_goals exact completesIf (fun _ => rfl) fun cx s h => congrArg (s.afterEffect cx) (ringOp_traps h)
  -- a finish: of the oldest tile taken, or of a full tile once the group's loads from the ring are done
  case pushFinish | tryPushFinish | nothingTaken =>
    refine completesIf_ring (fun _ => rfl) fun cx s ⟨hu, hfin, ht⟩ => ⟨hu, ?_⟩
    dsimp only [fin, r, b, n] at hfin ht
    simp only [hfin, ht, if_true, tryWrs_finished]
    rfl
  case popFinish | tryPopFinish | nothingFull =>
    refine completesIf_ring (fun _ => rfl) fun cx s ⟨hu, hfin, hfull, hloads⟩ => ⟨hu, ?_⟩
    dsimp only [fin, r, b, n] at hfin hfull hloads
    simp only [hfin, hloads, hfull, if_true, Bool.false_eq_true, if_false, tryWrs_finished]
    rfl
  -- a take and a peek: the waiting forms leave them to their slot, the others answer at once
  case take | peek =>
    refine completesIf_ring (fun _ => rfl) fun cx s ⟨hu, hfin⟩ => ⟨hu, ?_⟩
    dsimp only [fin] at hfin
    simp only [hfin, Bool.false_eq_true, if_false]
    rfl
  case tryTake =>
    refine completesIf_ring (fun _ => rfl) fun cx s ⟨hu, hfin, hroom⟩ => ⟨hu, ?_⟩
    dsimp only [fin, r, b, n] at hfin hroom
    simp only [hfin, decide_eq_false (Nat.not_le.2 hroom), Bool.false_eq_true, if_false]
    rfl
  case tryTakeFull =>
    refine completesIf_ring (fun _ => rfl) fun cx s ⟨hu, hfin, hroom⟩ => ⟨hu, ?_⟩
    dsimp only [fin, r, b, n] at hfin hroom
    simp only [hfin, decide_eq_true hroom, Bool.false_eq_true, if_false, if_true]
    rfl
  case tryPeek | tryPeekEmpty =>
    refine completesIf_ring (fun _ => rfl) fun cx s ⟨hu, hfin, hfull⟩ => ⟨hu, ?_⟩
    dsimp only [fin, r, b, n] at hfin hfull
    simp only [hfin, hfull, Bool.false_eq_true, if_false, if_true]
    rfl

end Sys2Proof.Proofs
end

section
/-! Spills and fills of a matrix slot (R314): O32. -/
namespace Sys2Proof.Machine

section
variable {s : State} {cx : Cx} {slot p : Nat} {fill : Bool} {go : Nat → MSlot → Cx → State → Eff}

/-- A slot that is held, not busy, and for a fill not faulted, is used at once. -/
theorem withSlot_held (hslot : (s.blockOf cx.k).slotAt slot = some p) (hidle : (s.mslot cx.unit p).st ≠ 1)
    (hfill : fill = true → (s.mslot cx.unit p).st ≠ 3) : withSlot slot fill go cx s = go p (s.mslot cx.unit p) cx s := by
  have hsound : ¬ (fill && decide ((s.mslot cx.unit p).st = 3)) = true := by simpa using hfill
  simp only [withSlot, hslot, if_neg hsound, if_neg hidle]
end

section
variable {s : State} {cx : Cx} {f : XForm} {fill : Bool} {kind : Nat → AccKind} {p : Nat}

theorem tileLocal_traps {t : TrapInfo}
    (h : s.checkSpm (s.group cx.k).block (tileBytes cx.unit) 128 fill [(0, ((s.opS cx.k cx.e f.xb).toNat : Int))] = some t) :
    tileLocal f fill kind cx s = .trap s { t with fmask := 0 } := by
  simp only [tileLocal, h]

theorem tileLocal_enters (hcheck : s.checkSpm (s.group cx.k).block (tileBytes cx.unit) 128 fill [(0, ((s.opS cx.k cx.e f.xb).toNat : Int))] = none)
    (hslot : (s.blockOf cx.k).slotAt f.xd.toNat = some p) (hidle : (s.mslot cx.unit p).st ≠ 1)
    (hfill : fill = true → (s.mslot cx.unit p).st ≠ 3)
    (hwake : s.wakeFor (s.group cx.k).block (bankOffsets cx.unit (s.opS cx.k cx.e f.xb).toNat (tileBytes cx.unit)) = none) :
    tileLocal f fill kind cx s = s.tileAccess cx p (s.mslot cx.unit p)
      { Access.start (kind p) (tileElems cx.unit (s.opS cx.k cx.e f.xb).toNat (s.opS cx.k cx.e f.xb).toNat
          (fun i => .mem (s.spmAt (s.group cx.k).block ((s.opS cx.k cx.e f.xb).toNat + i)))) with
        accepted := true, local_ := true, size := 128 } := by
  simp only [tileLocal, hcheck, withSlot_held hslot hidle hfill, hwake]

theorem tileGlobal_traps {t : TrapInfo}
    (h : s.checkHandle cx.k (s.opH cx.k cx.e f.xb.toNat) f.xb.toNat (if fill then rR else rW) (tileBytes cx.unit) 128
      [(0, ((s.opS64 cx.k cx.e f.xc).toNat : Int))] = some t) :
    tileGlobal f fill kind cx s = .trap s { t with fmask := 0 } := by
  simp only [tileGlobal, h]

theorem tileGlobal_enters
    (hcheck : s.checkHandle cx.k (s.opH cx.k cx.e f.xb.toNat) f.xb.toNat (if fill then rR else rW) (tileBytes cx.unit) 128
      [(0, ((s.opS64 cx.k cx.e f.xc).toNat : Int))] = none)
    (hslot : (s.blockOf cx.k).slotAt f.xd.toNat = some p) (hidle : (s.mslot cx.unit p).st ≠ 1)
    (hfill : fill = true → (s.mslot cx.unit p).st ≠ 3) :
    tileGlobal f fill kind cx s = s.tileAccess cx p (s.mslot cx.unit p)
      { Access.start (kind p) (tileElems cx.unit (s.opS64 cx.k cx.e f.xc).toNat
          ((s.opH cx.k cx.e f.xb.toNat).base + (s.opS64 cx.k cx.e f.xc).toNat) (fun _ => .unresolved)) with
        hbits := (s.opH cx.k cx.e f.xb.toNat).bits, hreg := f.xb.toNat % 32, size := 128 } := by
  simp only [tileGlobal, hcheck, withSlot_held hslot hidle hfill]
end

end Sys2Proof.Machine

namespace Sys2Proof.Proofs
open Machine

/-- Settles O32: the access is checked, then its slot judged; the scratchpad forms also wake their banks. -/
theorem spillsAndFills : Obligations.SpillsAndFills := by
  unfold Obligations.SpillsAndFills
  intro f bytes blk held o ho h takes near far
  have hnear {i : Instr} {fill : Bool} {kind : Nat → AccKind} (hexec : ∀ s, exec i s = issue i .slot (tileLocal f fill kind) s) : near i fill kind :=
    ⟨fun p => completesIf hexec fun cx s ⟨hcheck, ⟨hslot, hidle, hfill⟩, hwake⟩ =>
        congrArg (s.afterEffect cx) (tileLocal_enters hcheck hslot hidle hfill hwake),
      fun t => completesIf hexec fun cx s hcheck => congrArg (s.afterEffect cx) (tileLocal_traps hcheck)⟩
  have hfar {i : Instr} {fill : Bool} {kind : Nat → AccKind} (hexec : ∀ s, exec i s = issue i .slot (tileGlobal f fill kind) s) : far i fill kind :=
    ⟨fun p => completesIf hexec fun cx s ⟨hcheck, hslot, hidle, hfill⟩ =>
        congrArg (s.afterEffect cx) (tileGlobal_enters hcheck hslot hidle hfill),
      fun t => completesIf hexec fun cx s hcheck => congrArg (s.afterEffect cx) (tileGlobal_traps hcheck)⟩
  exact ⟨hnear fun _ => rfl, hnear fun _ => rfl, hfar fun _ => rfl, hfar fun _ => rfl⟩

end Sys2Proof.Proofs
end

section
/-! Matrix microinstructions (O33): a drain begins in the slot of its block's own core (R302), whatever core's engine runs it. -/
namespace Sys2Proof.Machine
open Laws

theorem mslot_setMslot (s : State) (u v p q : Nat) (m : MSlot) :
    (s.setMslot u p m).mslot v q = if u = v ∧ p = q then m else s.mslot v q := by
  by_cases hu : u = v
  · subst hu
    simp [State.mslot, State.setMslot]
  · simp [State.mslot, State.setMslot, core_setCore, hu]

/-- A microinstruction whose effect is a state of its own, which names the bits of its own fields alone (R296). -/
theorem micro_over {i : Instr} {w : MuWord} {f : Nat → Nat → MSlot → State → MuEff} {s t : State} {u p : Nat} (hc : s.cur = .engine u p)
    (hw : w.toNat &&& muListed i = w.toNat) (hf : f u p (s.mslot u p) s = .over t) : micro i w f s = .next t := by
  simp only [micro, hc, hw, hf, ne_eq, not_true_eq_false, if_false]

/-- A drain to a block offset begins: all of its tile's bytes are left, in the slot of the core where its block stands. -/
theorem drainStep_begins {s : State} {p : Nat} {m : MSlot} {ring base stride ofmt : Nat} {clr : Bool} (hleft : m.drainLeft = none)
    (htile : m.drainTile = none) (hfmt : ofmt < 3) (hbad : s.drainBad m.block m base stride ofmt 0 (s.spmSize m.block) = none) :
    s.drainStep p m false ring base stride ofmt clr = .over (s.fresh.2.setMslot (unitOfBlock m.block) p
      { m with drainLeft := some (List.range (drainSize (unitOfBlock m.block) ofmt)), drainTile := none }) := by
  have hfresh : s.fresh.2.drainBad m.block m base stride ofmt 0 (s.fresh.2.spmSize m.block) = none := hbad
  simp only [State.drainStep, hleft, htile, if_neg (Nat.not_le.2 hfmt), Bool.false_and, Bool.false_eq_true, if_false, Nat.add_zero, hfresh]

theorem exec_muDrain_begins {w : MuWord} {s : State} {u p : Nat} {m : MSlot} (hc : s.cur = .engine u p) (hm : s.mslot u p = m)
    (hw : w.toNat &&& muListed (.muDrain w) = w.toNat) (hleft : m.drainLeft = none) (htile : m.drainTile = none)
    (hfmt : field w.toNat 24 3 < 3) (hoff : bitAt w.toNat 57 = false)
    (hbad : s.drainBad m.block m (muBase w m) (field w.toNat 27 12) (field w.toNat 24 3) 0 (s.spmSize m.block) = none) :
    exec (.muDrain w) s = .next (s.fresh.2.setMslot (unitOfBlock m.block) p
      { m with drainLeft := some (List.range (drainSize (unitOfBlock m.block) (field w.toNat 24 3))), drainTile := none }) := by
  have hexec : exec (.muDrain w) s = execMuDrain w s := rfl
  rw [hexec, execMuDrain]
  refine micro_over hc hw ?_
  simp only [hm, hoff, drainStep_begins hleft htile hfmt hbad]

/-- Slot 0 of core 4097 is about to drain for block 65536, which stands on core 4096. -/
def strayDrain : State :=
  { State.reset with
    cur := .engine 4097 0
    cores := [(4097, { mslots := [(0, { st := 1, block := blockKey 4096 0 })] })]
    blocks := [(blockKey 4096 0, { gran := [0] })] }

theorem strayDrain_drainBad :
    strayDrain.drainBad (blockKey 4096 0) (strayDrain.mslot 4097 0) 0 0 0 0 (strayDrain.spmSize (blockKey 4096 0)) = none := by
  decide +kernel

end Sys2Proof.Machine

namespace Sys2Proof.Proofs
open Machine

/-- Refutes O33: where a running slot's block stands on another core, which the statement does not rule out, a drain begins in the slot of that
other core, and the slot that runs it keeps `drainLeft = none`. -/
theorem not_microinstructions : ¬ Obligations.Microinstructions := by
  unfold Obligations.Microinstructions
  intro h
  obtain ⟨-, -, -, -, -, -, -, -, -, -, -, ⟨hbegins, -⟩, -⟩ := h 0 strayDrain 4097 0 rfl
  have hstated := hbegins rfl (by decide) rfl rfl rfl strayDrain_drainBad
  have hmodel := exec_muDrain_begins (w := 0) (s := strayDrain) rfl rfl rfl rfl rfl (by decide) rfl strayDrain_drainBad
  have hslot := congrArg (fun t : State => (t.mslot 4097 0).drainLeft) (Host.Outcome.next.inj (hmodel.symm.trans hstated))
  rw [mslot_setMslot, mslot_setMslot, if_neg (by decide), if_pos ⟨rfl, rfl⟩] at hslot
  exact nomatch hslot

end Sys2Proof.Proofs
end

section
/-! The barrier instructions (R325-R331): O34. -/
namespace Sys2Proof.Machine

/-- A barrier instruction can reach its object at offset `off` of its block now, and (where `form`) finds it well-formed (R325). -/
structure State.ReachesBar (s : State) (k off : Nat) (live form : Bool) : Prop where
  place : s.barPlace k off live = none
  hold : s.rangeHold (s.group k).block [(none, (off : Int), (off : Int) + 16)] = none
  wake : s.wakeFor (s.group k).block [off] = none
  wellFormed : form = true → s.barBusy k off = false ∧ bWf (s.barSeen k off) = true

section
variable {s : State} {cx : Cx} {off : Nat} {live form : Bool} {go : Cx → State → Eff}

theorem barrierOp_traps {t : TrapInfo} (h : s.barPlace cx.k off live = some t) : barrierOp off live form go cx s = .trap s t := by
  simp only [barrierOp, h]

theorem barrierOp_goes (h : s.ReachesBar cx.k off live form) : barrierOp off live form go cx s = go cx s := by
  obtain ⟨hplace, hhold, hwake, hform⟩ := h
  have hbusy : ¬ (form && s.barBusy cx.k off) = true := by simpa using fun hf => (hform hf).1
  have hwf : ¬ (form && !bWf (s.barSeen cx.k off)) = true := by simpa using fun hf => (hform hf).2
  -- The checks' results go in before a `match` is reduced: the kernel would else compare them with the checks by evaluating these.
  simp -iota only [barrierOp, hplace, hhold, hwake]
  exact (if_neg hbusy).trans (if_neg hwf)
end

section
variable {i : Instr} {gd : Guarding} {off : Cx → State → Nat} {live form : Bool} {go : Cx → State → Cx → State → Eff}
variable (hexec : ∀ s, exec i s = issue i gd (fun cx s => barrierOp (off cx s) live form (go cx s) cx s) s)
include hexec

/-- A barrier instruction, in the cases where it reaches its object. -/
theorem completesIf_bar {pre : Cx → State → Prop} {T : Cx → State → State}
    (h : ∀ cx s, pre cx s → s.ReachesBar cx.k (off cx s) live form ∧ s.afterEffect cx (go cx s cx s) = T cx s) : CompletesIf i gd pre T :=
  completesIf hexec fun cx s hpre => (congrArg (s.afterEffect cx) (barrierOp_goes (h cx s hpre).1)).trans (h cx s hpre).2

/-- A barrier instruction whose object is misplaced. -/
theorem completesIf_misplaced {t : TrapInfo} :
    CompletesIf i gd (fun cx s => s.barPlace cx.k (off cx s) live = some t) (fun cx s => s.takeTrap cx.k cx.e t) :=
  completesIf hexec fun cx s h => congrArg (s.afterEffect cx) (barrierOp_traps h)
end

end Sys2Proof.Machine

namespace Sys2Proof.Proofs
open Machine

/-- Settles O34: where the object can be reached, the count's range, the group's registration entries, or the object's state and parity decide. -/
theorem barrierWords : Obligations.BarrierWords := by
  unfold Obligations.BarrierWords
  intro f off n blk placed update tooMany released
  have reaches {live form : Bool} {cx : Cx} {s : State} (h : placed live form cx s) : s.ReachesBar cx.k (off cx s) live form := by
    obtain ⟨hplace, hhold, hwake, hform⟩ := h
    exact ⟨hplace, hhold, hwake, hform⟩
  refine ⟨?init, ?initTooMany, ?arrive, ?expect, ?tooMany, ?drop, ?joined, fun i hi => ?joins, ?full, fun i => ?leaves, ?stranger, ?ends, ?waits,
    ?faulted, ?poll, ?misplaced⟩
  -- a count is in its range, or traps
  case init | arrive | expect =>
    exact completesIf_bar (fun _ => rfl) fun cx s ⟨hp, hn⟩ => ⟨reaches hp, congrArg (s.afterEffect cx) (if_neg (Nat.not_lt.2 hn))⟩
  case initTooMany =>
    exact completesIf_bar (fun _ => rfl) fun cx s ⟨hp, hn⟩ => ⟨reaches hp, congrArg (s.afterEffect cx) (if_pos hn)⟩
  case tooMany =>
    rintro i gd (⟨rfl, rfl⟩ | ⟨rfl, rfl⟩)
    all_goals exact completesIf_bar (fun _ => rfl) fun cx s ⟨hp, hn⟩ => ⟨reaches hp, congrArg (s.afterEffect cx) (if_pos hn)⟩
  case drop | poll => exact completesIf_bar (fun _ => rfl) fun cx s hp => ⟨reaches hp, rfl⟩
  -- `bjoin` takes the lowest free entry; `bleave` frees the group's
  case joined =>
    exact completesIf_bar (fun _ => rfl) fun cx s ⟨hp, hreg⟩ =>
      ⟨reaches hp, congrArg (s.afterEffect cx) (if_pos (Option.isSome_iff_ne_none.2 hreg))⟩
  case joins =>
    refine completesIf_bar (fun _ => rfl) fun cx s ⟨hp, hreg, hfree, hlow⟩ => ⟨reaches hp, ?_⟩
    have hentry : firstBelow (fun i => !regValid (tget 0 (s.group cx.k).reg i)) 16 = some i :=
      firstBelow_eq_some hi (by rw [hfree]; rfl) fun j hj => by rw [hlow j hj]; rfl
    dsimp only [off] at hreg
    simp only [hreg, hentry, Option.isSome_none, Bool.false_eq_true, if_false]
    rfl
  case full =>
    refine completesIf_bar (fun _ => rfl) fun cx s ⟨hp, hreg, hused⟩ => ⟨reaches hp, ?_⟩
    have hentry : firstBelow (fun i => !regValid (tget 0 (s.group cx.k).reg i)) 16 = none :=
      firstBelow_eq_none.2 fun j hj => by rw [hused j hj]; rfl
    dsimp only [off] at hreg
    simp only [hreg, hentry, Option.isSome_none, Bool.false_eq_true, if_false]
    rfl
  case leaves | stranger =>
    refine completesIf_bar (fun _ => rfl) fun cx s ⟨hp, hreg⟩ => ⟨reaches hp, ?_⟩
    dsimp only [off] at hreg
    simp only [hreg]
    rfl
  -- `bwait`: the object's state, then its parity and what the wait has seen
  case faulted =>
    exact completesIf_bar (fun _ => rfl) fun cx s ⟨hp, hstate⟩ => ⟨reaches hp, congrArg (s.afterEffect cx) (if_pos hstate)⟩
  case waits =>
    refine completesIf_bar (fun _ => rfl) fun cx s ⟨hp, hstate, hparity, hended⟩ => ⟨reaches hp, ?_⟩
    have hsame : (decide (bPhase (s.barSeen cx.k (off cx s)) % 2 = n cx s % 2) && !s.bwaitEnded cx.k cx.e (n cx s % 2)) = true := by
      rw [hended, decide_eq_true hparity]
      rfl
    exact congrArg (s.afterEffect cx) ((if_neg (not_not.2 hstate)).trans (if_pos hsame))
  case ends =>
    refine completesIf_bar (fun _ => rfl) fun cx s ⟨hp, hstate, hover⟩ => ⟨reaches hp, ?_⟩
    have hended : ¬ (decide (bPhase (s.barSeen cx.k (off cx s)) % 2 = n cx s % 2) && !s.bwaitEnded cx.k cx.e (n cx s % 2)) = true := by
      rcases hover with hparity | hended
      · rw [decide_eq_false hparity]
        exact Bool.false_ne_true
      · rw [hended, Bool.not_true, Bool.and_false]
        exact Bool.false_ne_true
    rw [← wideScope_eq]
    exact congrArg (s.afterEffect cx) ((if_neg (not_not.2 hstate)).trans (if_neg hended))
  case misplaced =>
    rintro i gd live t (⟨rfl, rfl, rfl⟩ | ⟨rfl, rfl, rfl⟩ | ⟨rfl, rfl, rfl⟩ | ⟨rfl, rfl, rfl | rfl | rfl | rfl | rfl⟩)
    all_goals exact completesIf_misplaced fun _ => rfl

end Sys2Proof.Proofs
end

section
/-! Atomics and reductions (R332-R334), semaphore instructions (R336-R339): O35. -/
namespace Sys2Proof.Machine

/-- A group may name semaphore `n`: it lies in the range of the group's region, or on a control core in the device's (R337). -/
def State.namesSem (s : State) (cx : Cx) (n : Nat) : Prop :=
  if cx.ck = .control then n < 4096 else (s.blockOf cx.k).rv.semLo ≤ n ∧ n ≤ (s.blockOf cx.k).rv.semHi

section
variable {s : State} {cx : Cx} {n : Nat}

theorem namesSem_iff : s.namesSem cx n ↔ (if cx.ck == .control then decide (n < 4096)
    else decide ((s.blockOf cx.k).rv.semLo ≤ n) && decide (n ≤ (s.blockOf cx.k).rv.semHi)) = true := by
  unfold State.namesSem
  by_cases hck : cx.ck = .control <;> simp [hck]

theorem semTrap_none (h : s.namesSem cx n) : s.semTrap cx n = none := if_pos (namesSem_iff.1 h)

theorem semTrap_outside (h : ¬ s.namesSem cx n) : s.semTrap cx n = some { cause := 0x06, info := 0x20 * 2 ^ 24, addr := n } :=
  if_neg (mt namesSem_iff.2 h)

theorem semSignal_enters {v : Nat} (h : s.namesSem cx n) : semSignal n v cx s =
    .ok (s.newAccess cx { Access.start (.semSig n (BitVec.ofNat 64 v)) [] with
      after := s.earlier cx.k (fun a => a.kind.inLoads || a.kind.inStores) }) [] 1 := by
  simp only [semSignal, semTrap_none h]
  rfl

theorem semSignal_traps {v : Nat} (h : ¬ s.namesSem cx n) :
    semSignal n v cx s = .trap s { cause := 0x06, info := 0x20 * 2 ^ 24, addr := n } := by
  simp only [semSignal, semTrap_outside h]
end

end Sys2Proof.Machine

namespace Sys2Proof.Proofs
open Machine

/-- Settles O35: atomics and reductions are accesses; a semaphore's number decides between the access and the trap; `sem.bind` first judges its
barrier object. -/
theorem atomicAndSemaphoreWords : Obligations.AtomicAndSemaphoreWords := by
  unfold Obligations.AtomicAndSemaphoreWords
  refine ⟨fun f => ?atomics, fun o f => ?semaphores⟩
  case atomics =>
    exact ⟨handleWord fun _ => rfl, handleWord fun _ => rfl, scratchWord (fun _ => rfl) fun _ _ _ => rfl,
      scratchWord (fun _ => rfl) fun _ _ _ => rfl⟩
  case semaphores =>
    intro num value n off allowed traps
    refine ⟨completesIf (fun _ => rfl) fun cx s hn => ?signal, completesIf (fun _ => rfl) fun cx s hn => ?signalOutside,
      completesIf (fun _ => rfl) fun cx s hn => ?poll, completesIf (fun _ => rfl) fun cx s hn => ?pollOutside,
      completesIf (fun _ => rfl) fun cx s hn => ?bind, completesIf (fun _ => rfl) fun cx s hck => ?bindControl⟩
    case signal => cases o <;> exact congrArg (s.afterEffect cx) (semSignal_enters hn)
    case signalOutside => cases o <;> exact congrArg (s.afterEffect cx) (semSignal_traps hn)
    case poll =>
      have htrap : s.semTrap cx (s.opS cx.k cx.e f.xb).toNat = none := semTrap_none hn
      simp only [htrap]
      rfl
    case pollOutside =>
      have htrap : s.semTrap cx (s.opS cx.k cx.e f.xb).toNat = some _ := semTrap_outside hn
      simp only [htrap]
      rfl
    case bind =>
      obtain ⟨hck, hplace, hhold, hwake, hbusy, hwf, hn, hroom⟩ := hn
      have hbar : s.ReachesBar cx.k (off cx s) true true := ⟨hplace, hhold, hwake, fun _ => ⟨hbusy, hwf⟩⟩
      have htrap : s.semTrap cx (s.opS cx.k cx.e f.xb).toNat = none := semTrap_none hn
      refine (congrArg (s.afterEffect cx) ((if_neg (mt beq_iff_eq.1 hck)).trans (barrierOp_goes hbar))).trans ?_
      simp only [htrap]
      exact congrArg (s.afterEffect cx) (if_neg (Nat.not_le.2 hroom))
    case bindControl => exact congrArg (s.afterEffect cx) (if_pos (beq_iff_eq.2 hck))

end Sys2Proof.Proofs
end

section
/-! The return from a trap, and escalation (R392, R393, R404): O38. -/
namespace Sys2Proof.Machine
open Laws

/-! ### A table every entry of which is updated -/

/-- An entry of a table whose entries are all updated, where there is one or where the update leaves the default alone. -/
theorem tget_map {α : Type} {f : Nat → α → α} {d : α} {t : Tab α} {i : Nat} (h : i ∈ t.map Prod.fst ∨ f i d = d) :
    tget d (t.map fun q => (q.1, f q.1 q.2)) i = f i (tget d t i) := by
  induction t with
  | nil => exact (h.resolve_left (List.not_mem_nil)).symm
  | cons q t ih =>
    simp only [List.map_cons, tget]
    split
    · next hq => rw [hq]
    · next hq => exact ih (h.imp_left fun hi => (List.mem_cons.1 hi).resolve_left (Ne.symm hq))

/-! ### The return (R392, R393) -/

section
variable {s : State} {k e : Nat} {skip : Bool}

/-- A sub-group of a group that goes on after a trap. -/
def Sub.unstopped (x : Sub) : Sub := { x with stopped := false }

theorem returnTrap_sub_other {i : Nat} (hi : i ≠ e) : (s.returnTrap k e skip).sub k i = (s.sub k i).unstopped := by
  unfold State.returnTrap State.sub
  dsimp only
  rw [group_setGroup_self, sub_setGroup_sub, if_neg (Ne.symm hi)]
  exact tget_map (f := fun _ => Sub.unstopped) (.inr rfl)

/-- Where and with which lanes the sub-group goes on. -/
theorem returnTrap_sub_self : let r := (s.group k).tr
    let x := (s.returnTrap k e skip).sub k e
    x.lanes = r.amask ∧ x.pc = r.clause.toNat % 2 ^ 40 ∧ x.clause = none ∧ x.resumeSkip = skip ∧ x.badPc = decide (2 ^ 40 ≤ r.clause.toNat) ∧
      x.resumeAt = (if r.pc = r.clause ∧ skip = false then none else some r.pc.toNat) ∧ x.stopped = false := by
  unfold State.returnTrap State.sub
  dsimp only
  rw [group_setGroup_self, sub_setGroup_sub, if_pos rfl]
  refine ⟨rfl, rfl, rfl, rfl, rfl, ?_, congrArg Sub.stopped (tget_map (f := fun _ => Sub.unstopped) (.inr rfl))⟩
  by_cases hp : (s.group k).tr.pc = (s.group k).tr.clause
  · cases skip <;> simp [hp]
  · simp [hp, BitVec.toNat_inj]

theorem returnTrap_handler : ((s.returnTrap k e skip).group k).handler = false :=
  congrArg Group.handler (group_setGroup_self ..)

theorem returnTrap_tr : ((s.returnTrap k e skip).group k).tr = (s.group k).tr :=
  (congrArg Group.tr (group_setGroup_self ..)).trans rfl

theorem returnTrap_outside : (s.returnTrap k e skip).outside k = s.outside k := setGroup_outside ..
end

/-! ### `tret` and `tret.n` -/

section
variable {s : State} {cx : Cx} {skip : Bool}

/-- The state in which the word has retired and its sub-group has left the clause. -/
def State.clauseLeft (s : State) (cx : Cx) : State := (s.retireCx cx).leaveClause cx.k cx.e ((s.retireCx cx).sub cx.k cx.e).nextClause

theorem clauseLeft_tr : ((s.clauseLeft cx).group cx.k).tr = (s.group cx.k).tr :=
  congrArg (fun r : Group × (Nat → Sub) => r.1.tr) ((leaveClause_retained ..).trans (retire_retained ..))

theorem clauseLeft_outside : (s.clauseLeft cx).outside cx.k = s.outside cx.k := (leaveClause_outside ..).trans (retire_outside ..)

theorem trapReturn_illegal (h : (s.group cx.k).handler = false) : trapReturn skip cx s = .trap s { cause := 0x01, info := 0x10 * 2 ^ 24 } :=
  if_pos (by rw [h]; rfl)

theorem trapReturn_doubles (hh : (s.group cx.k).handler = true)
    (hm : (s.group cx.k).tr.amask = 0 ∨ (s.group cx.k).tr.amask &&& (s.group cx.k).otherLanes cx.e ≠ 0) :
    trapReturn skip cx s = .gone (s.takeDouble cx.k cx.e 0x1C (s.sub cx.k cx.e).here) :=
  (if_neg (by rw [hh]; decide)).trans (if_pos (by simpa using hm))

theorem trapReturn_returns (hh : (s.group cx.k).handler = true) (hm : (s.group cx.k).tr.amask ≠ 0)
    (ho : (s.group cx.k).tr.amask &&& (s.group cx.k).otherLanes cx.e = 0) :
    trapReturn skip cx s = .gone ((s.clauseLeft cx).returnTrap cx.k cx.e skip) :=
  (if_neg (by rw [hh]; decide)).trans (if_neg (by simpa [ho] using hm))

theorem exec_tret (f : XForm) (skip : Bool) : ∀ s, exec (if skip then .tretN f else .tret f) s =
    issue (if skip then .tretN f else .tret f) .any (trapReturn skip) s := by
  cases skip <;> exact fun _ => rfl
end

end Sys2Proof.Machine

namespace Sys2Proof.Proofs
open Machine Laws

/-- Settles O38: the effect of `tret` by the handler flag and the mask; the trap registers and all outside the group come through the
word's retirement. -/
theorem trapReturnAndEscalation : Obligations.TrapReturnAndEscalation := by
  unfold Obligations.TrapReturnAndEscalation
  intro f skip i g
  refine ⟨completesIf (exec_tret f skip) fun cx s h => ?illegal, completesIf (exec_tret f skip) fun cx s h => ?double, ?returns,
    completesAs (fun _ => rfl) fun _ _ => rfl⟩
  case illegal => exact congrArg (s.afterEffect cx) (trapReturn_illegal h)
  case double =>
    obtain ⟨hh, hm⟩ := h
    exact congrArg (s.afterEffect cx) (trapReturn_doubles hh hm)
  case returns =>
    intro s s' cx hr ha hh hm ho
    refine ⟨(s'.clauseLeft cx).returnTrap cx.k cx.e skip, ?_, returnTrap_handler, ?_⟩
    · rw [exec_afterEffect (exec_tret f skip) hr (.inl ha), trapReturn_returns hh hm ho]
      rfl
    obtain ⟨hlanes, hpc, hclause, hskip, hbad, hat, hstop⟩ := returnTrap_sub_self (s := s'.clauseLeft cx) (k := cx.k) (e := cx.e) (skip := skip)
    rw [clauseLeft_tr] at hlanes hpc hbad hat
    obtain ⟨hmem, -, hothers⟩ := frame_of_outside (returnTrap_outside.trans clauseLeft_outside)
    refine ⟨hlanes, hpc, hclause, hskip, hbad, hat, returnTrap_tr.trans clauseLeft_tr, fun j => ?_, hmem, hothers⟩
    by_cases hj : j = cx.e
    · rw [hj, hstop]
    · rw [returnTrap_sub_other hj]
      rfl

end Sys2Proof.Proofs
end

section
/-! Packets, ports and fabric time at this chip (R361-R371): O49. -/
namespace Sys2Proof.Machine
open Laws

/-! ### Requests (R369, R370) -/

section
variable {s : State} {p : Packet} {i : Instr}

theorem exec_request (hi : recvStep p.opcode = some i) (ho : p.opcode ≤ 6) : exec i s = .next s.receive := by
  generalize p.opcode = o at hi ho
  interval_cases o <;> cases hi <;> rfl

section
variable (hp : s.arg.pkt = some p) (hi : recvStep p.opcode = some i) (hw : s.packetWaits p s.arg.b = false)
include hp hi hw

theorem receive_discards (hok : packetOk p = false) : s.receive = s.discardPacket s.arg.a p := by
  simp [State.receive, hp, hi, hw, hok]

theorem receive_forwards (hok : packetOk p = true) (hd : p.dst ≠ s.hub.chip) : s.receive = s.forward p := by
  simp [State.receive, hp, hi, hw, hok, hd]

section
variable (hok : packetOk p = true) (hd : p.dst = s.hub.chip) (hc : s.arg.c = 0)
include hok hd hc

theorem receive_refuses {st : Nat} (hj : s.judgePacket p = .error st) : s.receive = s.replyTo p 0x23 st 0 [] := by
  simp [State.receive, hp, hi, hw, hok, hd, hc, hj]

variable {c : Nat} (hj : s.judgePacket p = .ok c)
include hj

theorem receive_signals {v : Nat} (ho : 5 ≤ p.opcode) (hv : s.semOf c p.vsem = some v) :
    s.receive = (s.semAdd v p.value.toNat).replyTo p 0x20 0 0 [] := by
  simp [State.receive, hp, hi, hw, hok, hd, hc, hj, ho, hv]

variable {l h : Nat} (hl : packetPieces p = [(l, h)])
include hl

/-- The one piece of a store or reduction is performed and acknowledged. -/
theorem receive_stores (ho : p.opcode = 1 ∨ p.opcode = 4) : s.receive = (s.packetLane p l h).2.2.replyTo p 0x20 0 0 [] := by
  have hmem : ¬ 5 ≤ p.opcode := by omega
  have hload : ¬ p.opcode = 2 := by omega
  have hatomic : ¬ p.opcode = 3 := by omega
  simp [State.receive, hp, hi, hw, hok, hd, hc, hj, hl, hmem, hload, hatomic]

/-- The one piece of a load or atomic is performed and its data returned. -/
theorem receive_loads (ho : p.opcode = 2 ∨ p.opcode = 3) (hpz : s.arg.d = 0) : ∃ data, s.receive =
    (s.packetLane p l h).2.2.replyTo (if p.opcode = 3 then { p with esize := Nat.log2 (packetElem p) } else p) (if p.opcode = 2 then 0x21 else 0x22) 0
      (BitVec.ofNat 32 (if (s.packetLane p l h).2.1 then 2 ^ l else 0)) data := by
  have hmem : ¬ 5 ≤ p.opcode := by omega
  have hclear : bitAt 0 l = false := by simp [bitAt]
  simp only [State.receive, hp, Option.map_some, Option.getD_some, hi, hw, hok, hd, hc, hj, hl, hmem, hpz]
  rcases ho with ho | ho
  · exact ⟨_, by simp [ho, hclear]; rfl⟩
  · exact ⟨_, by simp [ho, hclear]; rfl⟩
end
end
end

/-! ### Replies (R367, R369) -/

section
variable {s : State} {p : Packet}

theorem exec_reply {i : Instr} (hi : i ∈ [Instr.ack, .loadr, .atomr, .err]) : exec i s = .next s.reply := by
  simp only [List.mem_cons, List.not_mem_nil, or_false] at hi
  rcases hi with rfl | rfl | rfl | rfl <;> rfl

section
variable (hp : s.arg.pkt = some p) (hw : s.packetWaits p s.arg.b = false) (hok : packetOk p = true)
include hp hw hok

theorem reply_forwards (hd : p.dst ≠ s.hub.chip) : s.reply = s.forward p := by
  simp [State.reply, hp, hw, hok, hd]

/-- A reply to no outstanding operation is lost. -/
theorem reply_unmatched (hd : p.dst = s.hub.chip) (h : ∀ o ∈ s.outstanding, ¬ (o.tag = p.tag ∧ o.req.dst = p.src)) : s.reply = s := by
  have hfind : s.outstanding.find? (fun o => o.tag == p.tag && o.req.dst == p.src) = none :=
    List.find?_eq_none.2 fun o ho => by simpa using h o ho
  simp [State.reply, hp, hw, hok, hd, hfind]

variable {o : Outstanding} {a : Access} (hd : p.dst = s.hub.chip)
  (ho : s.outstanding.find? (fun o => o.tag == p.tag && o.req.dst == p.src) = some o) (ha : s.access o.access = some a)
include hd ho ha

/-- The state in which outstanding operation `o` has its answer. -/
def State.answered (s : State) (o : Outstanding) : State := { s with outstanding := s.outstanding.filter (fun q => q.tag != o.tag) }

theorem reply_fails (hst : p.status ≠ 0) : s.reply =
    (s.answered o).settleAccess (a.failElems o.elems p.status o.req.dst (if 5 ≤ o.req.opcode then o.req.vsem else o.req.addr)) := by
  have hacc : (s.answered o).access o.access = some a := ha
  unfold State.answered at hacc ⊢
  simp [State.reply, hp, hw, hok, hd, ho, hacc, hst]

theorem reply_completes (hst : p.status = 0) (hk : ∀ q, a.kind ≠ .mfill q) :
    s.reply = (s.answered o).settleAccess (a.takeReply o.elems p false) := by
  have hacc : (s.answered o).access o.access = some a := ha
  unfold State.answered at hacc ⊢
  simp only [State.reply, hp, hw, hok, hd, ho, hacc, hst, ne_eq, not_true_eq_false, Bool.not_true, Bool.false_eq_true, if_false]
end
end

/-! ### Ports (R363, R368) -/

section
variable {s : State}

theorem responseExpire_late {o : Outstanding} (h : s.outstanding.find? (fun o => o.tag == s.arg.a) = some o) (ht : o.sent + o.limit ≤ s.time) :
    s.responseExpire = s.failOutstanding (fun q => q.tag == s.arg.a) 0x09 := by
  simp only [State.responseExpire, h, if_pos ht]

theorem responseExpire_early {o : Outstanding} (h : s.outstanding.find? (fun o => o.tag == s.arg.a) = some o) (ht : s.time < o.sent + o.limit) :
    s.responseExpire = s.again .responseLimitExpire := by
  simp only [State.responseExpire, h, if_neg (Nat.not_le.2 ht)]

/-! ### Fabric time (R371) -/

/-- A packet of the link brings progress at its port. -/
def State.heardAt (s : State) : State := s.setPort s.arg.a { s.port s.arg.a with asks := [] }

section
variable {p : Packet} (hp : s.arg.pkt = some p) (hok : packetOk p = true) (ha : s.arg.a < 64)
include hp hok ha

theorem timePacket_ignored (h : s.hub.ten = false ∨ s.hub.chip ≤ p.src) : s.timePacket = s.heardAt := by
  have hten : (s.heardAt.hub.ten && decide (p.src < s.heardAt.hub.chip)) = false := by
    rcases h with h | h
    · exact Bool.and_eq_false_imp.2 fun ht => absurd (h.symm.trans ht) (by decide)
    · exact (congrArg (_ && ·) (decide_eq_false (Nat.not_lt.2 h))).trans (Bool.and_false _)
  unfold State.heardAt at hten ⊢
  simp [State.timePacket, hp, hok, ha, hten]

/-- A TIME packet of a lower-numbered chip locks the count: its first lock sets it. -/
theorem timePacket_locks (hten : s.hub.ten = true) (hsrc : p.src < s.hub.chip) (hsync : s.hub.sync = false) :
    s.timePacket.hub.sync = true ∧ s.timePacket.hub.gm = false ∧ s.timePacket.hub.locked = true ∧
      s.timePacket.time = if s.hub.locked = true then s.time else Config.freeWord s.count := by
  by_cases hl : s.hub.locked = true
  · simp [State.timePacket, State.setPort, hp, hok, ha, hten, hsrc, hsync, hl]
  · simp [State.timePacket, State.setPort, State.freeWord, hp, hok, ha, hten, hsrc, hsync, hl]
end

theorem timeExchange_off (hten : s.hub.ten = false) (ht : s.arg.c ≤ s.time) : s.timeExchange =
    ({ s with hub := { s.hub with sync := false, gm := false, heard := false } } : State).post .timeExchangeTimer { c := s.time + 10000 } := by
  simp [State.timeExchange, hten, Nat.not_lt.2 ht]

theorem coin_state (s : State) : s.coin.2 = { s with count := s.count + 1 } := rfl

/-- A chip without ports that does not follow another runs free, or takes itself for the grandmaster where it has heard none. -/
theorem timeExchange_alone (hten : s.hub.ten = true) (ht : s.arg.c ≤ s.time) (hports : s.hub.ports = []) (hsync : s.hub.sync = false) :
    s.timeExchange = (if s.hub.heard = true then s
      else if s.coin.1 = true then { s.coin.2 with hub := { s.hub with sync := true, gm := true, locked := true } } else s.coin.2).post
        .timeExchangeTimer { c := s.time + 10000 } := by
  by_cases hh : s.hub.heard = true
  · simp [State.timeExchange, hten, Nat.not_lt.2 ht, hports, hsync, hh]
  · by_cases hc : s.coin.1 = true <;> simp [State.timeExchange, hten, Nat.not_lt.2 ht, hports, hsync, hh, hc, coin_state]
end

end Sys2Proof.Machine

namespace Sys2Proof.Proofs
open Machine

/-- Settles O49: each packet and each event of a port or of fabric time has its lemma above, or is its event's one function. -/
theorem fabricPackets : Obligations.FabricPackets := by
  unfold Obligations.FabricPackets
  refine ⟨?requests, ?replies, ?limit, ?link, fun s => ?ports⟩
  case requests =>
    intro s p i hp hi ho hw
    rw [exec_request hi ho]
    refine ⟨fun hok => congrArg _ (receive_discards hp hi hw hok), fun hok hd => congrArg _ (receive_forwards hp hi hw hok hd),
      fun st hok hd hc hj => congrArg _ (receive_refuses hp hi hw hok hd hc hj),
      fun c v hok hd hc hj h5 hv => congrArg _ (receive_signals hp hi hw hok hd hc hj h5 hv),
      fun c l h hok hd hc hj hl => ⟨fun hop => ?_, fun hop hpz => ?_⟩⟩
    · exact congrArg _ (receive_stores hp hi hw hok hd hc hj hl hop)
    · obtain ⟨data, hdata⟩ := receive_loads hp hi hw hok hd hc hj hl hop hpz
      exact ⟨_, data, congrArg _ hdata, rfl⟩
  case replies =>
    intro s p i hp hi hw hok
    rw [exec_reply hi]
    exact ⟨fun hd => congrArg _ (reply_forwards hp hw hok hd), fun hd hno => congrArg _ (reply_unmatched hp hw hok hd hno),
      fun o a hd ho ha => ⟨fun hst => congrArg _ (reply_fails hp hw hok hd ho ha hst),
        fun hst hk => congrArg _ (reply_completes hp hw hok hd ho ha hst hk)⟩⟩
  case limit => exact fun s o h => ⟨fun ht => congrArg _ (responseExpire_late h ht), fun ht => congrArg _ (responseExpire_early h ht)⟩
  case link =>
    intro s p hp hok ha
    refine ⟨?_, fun hten hsrc hsync => ?_, fun h => congrArg _ (timePacket_ignored hp hok ha h)⟩
    · simp [exec, execLink, event, hp, hok, ha]
    · exact ⟨_, rfl, timePacket_locks hp hok ha hten hsrc hsync⟩
  case ports =>
    refine ⟨rfl, rfl, fun hst hrun => ?_, fun hst hrun => ?_, fun hst ht => ?_, fun hst ht => ?_, fun hst => ?_, fun ht => ?_,
      fun hten ht => congrArg _ (timeExchange_off hten ht), fun hten ht hports hsync => congrArg _ (timeExchange_alone hten ht hports hsync),
      fun hgm hdown ht => ?_⟩
    · exact congrArg _ ((if_neg (not_not.2 hst)).trans (if_neg (by rw [hrun]; decide)))
    · exact congrArg _ ((if_neg (not_not.2 hst)).trans (if_pos (by rw [hrun]; rfl)))
    · exact congrArg _ ((if_neg (not_not.2 hst)).trans (if_pos ht))
    · exact congrArg _ ((if_neg (not_not.2 hst)).trans (if_neg (Nat.not_lt.2 ht)))
    · exact congrArg _ (if_pos (by simpa using hst))
    · exact congrArg _ (if_pos ht)
    · exact congrArg _ ((if_neg (by simpa [hgm] using hdown)).trans (if_neg (Nat.not_lt.2 ht)))

end Sys2Proof.Proofs
end

section
/-! Power registers, relocks, the heartbeat, isolation and reset of dies (R409, R410, R447-R450): O46. -/
namespace Sys2Proof.Machine
open Laws

/-! ### Relocks (R448) -/

/-- A wait, the stop of its cluster's clock deducted. -/
def WaitRec.deducted (d : Nat) (w : WaitRec) : WaitRec := { w with since := w.since + d }

/-- A sub-group whose wait is so. -/
def Sub.deducted (d : Nat) (x : Sub) : Sub := { x with wait := x.wait.map (WaitRec.deducted d) }

/-- A group of cluster `p`, whose clock stood still for `d`; another group is as it was. -/
def Group.deducted (p d k : Nat) (g : Group) : Group :=
  if kindOf k ≠ .control ∧ powerIndex (unitOfGroup k) = p then { g with subs := g.subs.map fun (q : Nat × Sub) => (q.1, q.2.deducted d) } else g

section
variable (s : State)

theorem applyPower_groups (p : Nat) : (s.applyPower p).groups = s.groups := by
  unfold State.applyPower
  dsimp only
  split <;> rfl

theorem applyPower_mem (p : Nat) : (s.applyPower p).mem = s.mem := by
  unfold State.applyPower
  dsimp only
  split <;> rfl

theorem applyPower_time (p : Nat) : (s.applyPower p).time = s.time := by
  unfold State.applyPower
  dsimp only
  split <;> rfl
end

section
variable {s : State} {p : Nat}

/-- The clock of cluster `p` runs again: its groups' waits have the stop deducted. -/
def State.clockRuns (s : State) (p : Nat) : State :=
  { s with groups := s.groups.map fun (g : Nat × Group) => (g.1, g.2.deducted p (s.time - (s.powerOf p).since) g.1) }

theorem relocked_eq (h : (s.powerOf s.arg.a).relock = true) : s.relocked =
    (((s.clockRuns s.arg.a).setPower s.arg.a { s.powerOf s.arg.a with relock := false }).applyPower s.arg.a).postOnce .schedulerPass := by
  have hgroups (g : Nat × Group) : (g.1, g.2.deducted s.arg.a (s.time - (s.powerOf s.arg.a).since) g.1) =
      if (kindOf g.1 != .control && powerIndex (unitOfGroup g.1) == s.arg.a) = true
      then (g.1, { g.2 with subs := g.2.subs.map fun (q : Nat × Sub) => (q.1, q.2.deducted (s.time - (s.powerOf s.arg.a).since)) }) else g := by
    simp only [Group.deducted, Bool.and_eq_true, bne_iff_ne, beq_iff_eq]
    split <;> rfl
  unfold State.clockRuns
  rw [funext hgroups]
  exact if_neg (by rw [h]; decide)

theorem clockRuns_wait (k e : Nat) : ((s.clockRuns p).sub k e).wait =
    if kindOf k ≠ .control ∧ powerIndex (unitOfGroup k) = p then (s.sub k e).wait.map (WaitRec.deducted (s.time - (s.powerOf p).since))
    else (s.sub k e).wait := by
  have hdefault : Group.deducted p (s.time - (s.powerOf p).since) k {} = {} := by
    unfold Group.deducted
    split <;> rfl
  have hgroup : (s.clockRuns p).group k = (s.group k).deducted p (s.time - (s.powerOf p).since) k :=
    tget_map (f := fun i g => Group.deducted p _ i g) (.inr hdefault)
  unfold State.sub
  rw [hgroup, Group.deducted]
  split
  · exact congrArg Sub.wait (tget_map (f := fun _ => Sub.deducted _) (.inr rfl))
  · rfl

theorem relocked_frame (h : (s.powerOf s.arg.a).relock = true) : s.relocked.time = s.time ∧ s.relocked.mem = s.mem ∧
    s.relocked.groups = (s.clockRuns s.arg.a).groups := by
  rw [relocked_eq h, postOnce_time, postOnce_mem, postOnce_groups, applyPower_time, applyPower_mem, applyPower_groups]
  exact ⟨rfl, rfl, rfl⟩
end

/-! ### Power registers and clamps (R447, R449) -/

section
variable {s : State}

theorem storePower_one {q o : Nat} (h : regPieces s.arg.a s.arg.data = [(.power q, o, s.arg.data)]) : s.storePower =
    (let v := setBytes (s.regImage (.power q)) o s.arg.data
     ((s.setPower q { s.powerOf q with occ := field v 40 8, bias := field v 32 8, opp := field v 0 3 }).applyPower q).postOnce
       .schedulerPass |>.devDone s.arg.d) := by
  simp only [State.storePower, h, List.foldl_cons, List.foldl_nil]

/-! ### The loss of the control chiplet (R22, R32) -/

/-- A command's answer and the interrupt for it change the hub alone. -/
theorem raiseVector_eq (s : State) (v : Nat) : ∃ hub, s.raiseVector v = { s with hub := hub } := by
  unfold State.raiseVector
  split <;> exact ⟨_, rfl⟩

theorem answer_eq (s : State) (rc : Nat) (out : List Byte) : ∃ hub, s.answer rc out = { s with hub := hub } := by
  unfold State.answer
  dsimp only
  split
  · obtain ⟨hub, h⟩ := raiseVector_eq { s with hub := { s.hub with mailbox := { s.hub.mailbox with replies := s.hub.mailbox.replies ++ [(rc, out)] } } } 0
    exact ⟨hub, h⟩
  · exact ⟨_, rfl⟩

theorem completeCommand_eq (s : State) (rc : Nat) (out : List Byte) : ∃ hub, s.completeCommand rc out = { s with hub := hub } := by
  unfold State.completeCommand
  dsimp only
  split
  · obtain ⟨hub, h⟩ := answer_eq { s with hub := { s.hub with mailbox := { s.hub.mailbox with pend := false } } } rc out
    exact ⟨hub, h⟩
  · exact ⟨s.hub, rfl⟩

theorem enterSafe_leaves (s : State) : s.enterSafe.boot.safe = true ∧ s.enterSafe.groups = [] ∧ s.enterSafe.launches = [] ∧
    s.enterSafe.boot.memActive = false := by
  unfold State.enterSafe
  obtain ⟨hub, h⟩ := completeCommand_eq (rc := rcUnsupported) (out := []) _
  rw [h]
  exact ⟨rfl, rfl, rfl, rfl⟩
end

end Sys2Proof.Machine

namespace Sys2Proof.Proofs
open Machine

/-- Settles O46: an event is its one function, whose branch the premises choose; a relock's end and the safe state have their lemmas above. -/
theorem powerAndDies : Obligations.PowerAndDies := by
  unfold Obligations.PowerAndDies
  intro s p x temp done
  refine ⟨fun q o h => congrArg _ (storePower_one h), fun hx => ?relock, rfl, rfl, fun q hq => ?clamp, fun hl => ?beat, fun hl => ?lapsedBeat, rfl,
    fun hl ht => ?lapse, fun hl ht => ?alive, fun hf => ⟨congrArg _ (if_pos hf), congrArg _ (if_pos hf)⟩, fun hf => ?isolate, fun hf hi => ?reset,
    fun ha hd hi => ?link, fun ha => ?control⟩
  case relock =>
    obtain ⟨htime, hmem, hgroups⟩ := relocked_frame hx
    refine ⟨s.relocked, rfl, htime, byte_congr hmem, fun k e => ?_⟩
    exact (congrArg (fun g : Group => (g.sub e).wait) (group_congr hgroups k)).trans (clockRuns_wait k e)
  case clamp => simp only [exec, execCurrentClampStep, event, hq, List.foldl_cons, List.foldl_nil]
  case beat => simp [exec, execHeartbeatBeat, event, hl, done]
  case lapsedBeat => simp [exec, execHeartbeatBeat, event, hl, done]
  case lapse => simp [exec, execHeartbeatLapse, event, State.lapse, hl, Nat.not_lt.2 ht]
  case alive => exact congrArg _ ((if_neg (by rw [hl]; decide)).trans (if_pos ht))
  case isolate => exact congrArg _ (if_neg (by rw [hf]; decide))
  case reset => exact congrArg _ ((if_neg (by rw [hf]; decide)).trans (if_neg (by rw [hi]; decide)))
  case link => exact congrArg _ ((if_neg ha).trans (if_pos (by rw [hd, hi]; rfl)))
  case control => exact ⟨_, congrArg Host.Outcome.next (if_pos ha), enterSafe_leaves _⟩

end Sys2Proof.Proofs
end

section
/-! The end of a block, and its save and resume (R417-R432): O42. -/
namespace Sys2Proof.Machine
open Laws

/-- An entry of a table of which some keys remain. -/
theorem tget_filter {α : Type} (p : Nat → Bool) (d : α) (t : Tab α) (i : Nat) :
    tget d (t.filter fun q => p q.1) i = if p i = true then tget d t i else d := by
  induction t with
  | nil => exact (ite_self d).symm
  | cons q t ih =>
    rw [List.filter_cons]
    split
    · next hq =>
      simp only [tget, ih]
      split
      · next h => rw [← h, if_pos hq]
      · rfl
    · next hq =>
      rw [ih, tget]
      split
      · next hi => rw [if_neg fun h : q.1 = i => hq (h ▸ hi)]
      · rfl

/-! ### What giving a block's units back keeps (R432) -/

section
variable {γ : Type} {p : State → γ} (hcore : ∀ s u c, p (State.setCore s u c) = p s)
include hcore

theorem settleBanks_keeps (s : State) (u : Nat) (js : List Nat) : p (s.settleBanks u js) = p s :=
  foldl_keeps p (fun _ _ => by dsimp only; split <;> [exact hcore ..; rfl]) _ _

theorem dropBanks_keeps (s : State) (b lo hi : Nat) : p (s.dropBanks b lo hi) = p s :=
  foldl_keeps p (fun _ _ => hcore ..) _ _

variable (hpost : ∀ s i arg, p (State.postOnce s i arg) = p s)
include hpost

theorem startScan_keeps (s : State) (u : Nat) : p (s.startScan u) = p s := by
  unfold State.startScan
  dsimp only
  rw [hpost, hpost, hcore]

theorem release_keeps (hblock : ∀ s b h, p (State.setBlock s b { s.block b with held := h }) = p s) (s : State) (b : Nat) (r : Res) :
    p (s.release b r) = p s := by
  unfold State.release
  split
  · rfl
  · exact (startScan_keeps hcore hpost ..).trans (hblock ..)

theorem dropAnswers_keeps (hblock : ∀ s b h, p (State.setBlock s b { s.block b with held := h }) = p s) (s : State) (b : Nat) :
    p (s.dropAnswers b) = p s :=
  (foldl_keeps p (fun _ _ => by split <;> [exact release_keeps hcore hpost hblock ..; rfl]) _ _).trans (hcore ..)
end

section
variable (s : State) (b : Nat)

/-- Group `k` is one of block `b`'s, present at its unit. -/
def State.holdsGroup (s : State) (b k : Nat) : Bool := (s.block b).groups.contains k && (s.group k).present && (s.group k).block == b

theorem removeBlock_groups : (s.removeBlock b).groups = s.groups.filter fun g => !s.holdsGroup b g.1 := by
  have hdrop (x : Block) (hi : Nat) : ((s.setBlock b x).dropBanks b 0 hi).groups = s.groups := dropBanks_keeps (p := State.groups) (fun _ _ _ => rfl) ..
  unfold State.removeBlock State.holdsGroup
  dsimp only
  rw [startScan_keeps (p := State.groups) (fun _ _ _ => rfl) postOnce_groups, settleBanks_groups, setCore_groups]
  simp only [group_congr (hdrop _ _), hdrop]

theorem removeBlock_frames : (s.removeBlock b).frames = s.frames := by
  unfold State.removeBlock
  dsimp only
  rw [startScan_keeps (p := State.frames) (fun _ _ _ => rfl) postOnce_frames, settleBanks_keeps (p := State.frames) fun _ _ _ => rfl, setCore_frames]
  exact dropBanks_keeps (p := State.frames) (fun _ _ _ => rfl) ..

theorem removeBlock_gone : tfind (s.removeBlock b).blocks b = none := by
  unfold State.removeBlock
  dsimp only
  rw [startScan_keeps (p := State.blocks) (fun _ _ _ => rfl) postOnce_blocks, settleBanks_keeps (p := State.blocks) fun _ _ _ => rfl, setCore_blocks,
    tfind_tdel, if_pos rfl]

theorem removeBlock_group_gone {k : Nat} (hk : k ∈ (s.block b).groups) (hp : (s.group k).present = true) (hb : (s.group k).block = b) :
    ((s.removeBlock b).group k).present = false := by
  have hholds : s.holdsGroup b k = true := by simp [State.holdsGroup, hk, hp, hb]
  unfold State.group
  rw [removeBlock_groups, tget_filter (fun i => !s.holdsGroup b i), hholds]
  rfl
end

/-! ### A block's end (R431, R432) -/

section
variable {s : State} (hp : (s.block s.arg.a).present = true) (ht : (s.block s.arg.a).terminated = false)
  (hg : ∀ k ∈ (s.block s.arg.a).groups, (s.group k).present = false ∨ (s.group k).block ≠ s.arg.a ∨ (s.group k).exited = true)
include hp ht hg

theorem retireBlock_ends : (!(s.block s.arg.a).present || !((s.block s.arg.a).terminated ||
    (s.block s.arg.a).groups.all fun k => !(s.group k).present || (s.group k).block != s.arg.a || (s.group k).exited)) = false := by
  simpa [hp, ht, or_assoc] using hg

theorem retireBlock_waits (hb : s.blockBusy s.arg.a = true) : s.retireBlock = s.again .blockRetire := by
  simp only [State.retireBlock, retireBlock_ends hp ht hg, hb, Bool.false_eq_true, if_false, if_true]

theorem retireBlock_retires (hb : s.blockBusy s.arg.a = false) : s.retireBlock =
    (let x := s.block s.arg.a
     let r := (({ s with bindings := s.bindings.filter (fun y => !(y.launch == x.launch && y.idx == x.idx)) } : State).removeBlock s.arg.a).lapseEngine
       (unitOfBlock s.arg.a)
     let l := r.launchOf x.launch
     (r.setLaunch x.launch { l with retired := l.retired + 1, discards := l.discards + x.discards }).endLaunch x.launch) := by
  simp only [State.retireBlock, retireBlock_ends hp ht hg, hb, Bool.false_eq_true, if_false]
  simp only [ht, Bool.false_eq_true, if_false]
end

/-! ### Its save (R417, R418) -/

section
variable {s : State} {frame q : Nat} {hold : Bool}

/-- A block, its holdings apart. -/
def Block.holdless (x : Block) : Block := { x with held := {} }

theorem dropAnswers_holdless (s : State) (b c : Nat) : ((s.dropAnswers b).block c).holdless = (s.block c).holdless :=
  dropAnswers_keeps (p := fun s => (s.block c).holdless) (fun _ _ _ => rfl) (fun s i arg => by rw [State.block, postOnce_blocks]; rfl)
    (fun s b h => by
      rw [block_setBlock]
      split
      · next hb => rw [hb]; rfl
      · rfl) s b

theorem dropAnswers_time (s : State) (b : Nat) : (s.dropAnswers b).time = s.time :=
  dropAnswers_keeps (p := State.time) (fun _ _ _ => rfl) postOnce_time (fun _ _ _ => rfl) s b

theorem writeImage_time (s : State) (b frame : Nat) (hold : Bool) : (s.writeImage b frame hold).time = s.time := by
  unfold State.writeImage
  refine (foldl_keeps State.time (fun _ _ => by split <;> rfl) _ _).trans ?_
  refine (foldl_keeps State.time (fun t _ => by dsimp only; exact foldl_keeps State.time (fun _ _ => by rfl) _ t) _ _).trans ?_
  exact foldl_keeps State.time (fun _ _ => write_time ..) _ _

/-- The groups of a block that are at their unit. -/
def State.groupsOf (s : State) (b : Nat) : List Nat := (s.block b).groups.filter fun k => (s.group k).present && (s.group k).block == b

section
variable (hs : (s.block s.arg.a).saving = some (frame, hold, q))
include hs

theorem saveBlock_waits (h : s.blockBusy s.arg.a = true ∨ ∃ k ∈ s.groupsOf s.arg.a, s.groupStopped k = false) :
    s.saveBlock = s.again .saveComplete := by
  have hwait : (s.blockBusy s.arg.a || !(s.groupsOf s.arg.a).all s.groupStopped) = true := by
    rcases h with h | ⟨k, hk, hrun⟩
    · rw [h, Bool.true_or]
    · rw [List.all_eq_false.2 ⟨k, hk, by rw [hrun]; decide⟩, Bool.not_false, Bool.or_true]
  unfold State.groupsOf at hwait
  simp only [State.saveBlock, hs, hwait, if_true]

/-- The image's frame stands, and the block's units are given back. -/
theorem saveBlock_saves (hb : s.blockBusy s.arg.a = false) (hk : ∀ k ∈ s.groupsOf s.arg.a, s.groupStopped k = true) : ∃ (u : State) (f : Frame),
    s.saveBlock = ((({ u with frames := tput u.frames frame f } : State).removeBlock s.arg.a).endSaves).postOnce .schedulerPass ∧
      f.launch = (s.block s.arg.a).launch ∧ f.block = (s.block s.arg.a).idx ∧ f.ctx = (s.block s.arg.a).ctx ∧ f.unit = unitOfBlock s.arg.a ∧
      f.claim = (s.block s.arg.a).claim ∧ f.hold = hold ∧ f.queued = if hold then none else some s.time := by
  have hgo : (s.blockBusy s.arg.a || !(s.groupsOf s.arg.a).all s.groupStopped) = false := by
    rw [hb, List.all_eq_true.2 hk]
    rfl
  have hblock := dropAnswers_holdless s s.arg.a s.arg.a
  unfold State.groupsOf at hgo
  simp only [State.saveBlock, hs, hgo, Bool.false_eq_true, if_false]
  refine ⟨_, _, rfl, (congrArg Block.launch hblock :), (congrArg Block.idx hblock :), (congrArg Block.ctx hblock :), rfl,
    (congrArg Block.claim hblock :), rfl, ?_⟩
  rw [writeImage_time, dropAnswers_time]
end
end

/-! ### Its resume (R426-R429) -/

section
variable {s : State} {f : Frame} (hf : tfind s.frames s.arg.a = some f) (hw : s.withFrame f = [f]) (hq : f.queued.isSome = true)
  (hfirst : ∀ g ∈ s.frames, ¬ (g.2.goesBefore f = true ∧ s.resumeFits g.2 = true)) (hfits : s.resumeFits f = true)
include hf hw hq hfirst hfits

/-- A frame that goes alone, and that no frame goes before, resumes; one whose header disagrees ends its launch. -/
theorem resumeFrame_eq : s.resumeFrame = (if s.headerOk f = true then s.resumeBlock f else s.terminate f.launch 0x13).postOnce .schedulerPass := by
  have hnone : (s.frames.any fun g => g.2.goesBefore f && s.resumeFits g.2) = false :=
    List.any_eq_false.2 fun g hg => by simpa using hfirst g hg
  by_cases hok : s.headerOk f = true <;> simp [State.resumeFrame, hf, hw, hq, hnone, State.resumeAll, hfits, hok]
end

end Sys2Proof.Machine

namespace Sys2Proof.Proofs
open Machine Laws

/-- Settles O42: the end, the save and the resume of a block have their lemmas above; a removed block is in no table. -/
theorem blocksEndAndResume : Obligations.BlocksEndAndResume := by
  unfold Obligations.BlocksEndAndResume
  refine ⟨fun s => ?ends, fun s b => ?removed, fun s frame q hold => ?save, fun s f hf hw hq hfirst hfits => ?resume⟩
  case ends =>
    intro b x hp ht hg
    exact ⟨fun hb => congrArg Host.Outcome.next (retireBlock_waits hp ht hg hb), fun hb => congrArg Host.Outcome.next (retireBlock_retires hp ht hg hb)⟩
  case removed => exact ⟨removeBlock_gone s b, fun k hk hp hb => removeBlock_group_gone s b hk hp hb⟩
  case save =>
    intro b x ks hs
    refine ⟨fun h => congrArg Host.Outcome.next (saveBlock_waits hs h), fun hb hk => ?_⟩
    obtain ⟨u, f, hsave, hf⟩ := saveBlock_saves hs hb hk
    have hframes : s.saveBlock.frames = tput u.frames frame f := by
      rw [hsave, postOnce_frames]
      exact removeBlock_frames ..
    have hblocks : tfind s.saveBlock.blocks b = none := by
      rw [hsave, postOnce_blocks]
      exact removeBlock_gone ..
    exact ⟨s.saveBlock, f, rfl, by rw [hframes, tfind_tput, if_pos rfl], hblocks, hf⟩
  case resume =>
    have hexec : exec .resume s = .next s.resumeFrame := rfl
    rw [hexec, resumeFrame_eq hf hw hq hfirst hfits]
    exact ⟨fun hok => by rw [if_pos hok], fun hok => by rw [if_neg (by rw [hok]; decide)]⟩

end Sys2Proof.Proofs
end

section
/-! Taking a trap (R386-R391): O59. -/
namespace Sys2Proof.Machine
open Laws

/-! ### What the parts of a trap's entry keep of their group (R388) -/

section
variable (s : State) (k e : Nat)

/-- A mark changes its sub-group alone. -/
theorem takeMark_group {γ : Type} (p : Group → γ) (hp : ∀ g i x, p (Group.setSub g i x) = p g) (clause pc : Nat) (atHeader : Bool) :
    p ((s.takeMark k e clause pc atHeader).group k) = p (s.group k) := by
  unfold State.takeMark
  split
  · rfl
  · exact (congrArg p (group_setGroup_self ..)).trans (hp ..)

theorem commitSub_handler (clause pc : Nat) (atHeader : Bool) : ((s.commitSub k e clause pc atHeader).group k).handler = (s.group k).handler := by
  unfold State.commitSub
  split
  · rfl
  · refine (takeMark_group _ k e Group.handler (fun _ _ _ => rfl) ..).trans ?_
    rw [group_setGroup_self]

/-- A commit changes the marks of its group's sub-groups alone. -/
theorem commitSub_keeps {α : Type} (p : Sub → α) (hp : ∀ x m, p { x with mark := m } = p x) (clause pc i : Nat) (atHeader : Bool) :
    p ((s.commitSub k e clause pc atHeader).sub k i) = p (s.sub k i) := by
  unfold State.commitSub
  split
  · rfl
  · refine (takeMark_keeps _ k e p hp clause pc i atHeader).trans ?_
    rw [group_setGroup_self]
    rfl

theorem landDue_sub_other {i : Nat} (hi : i ≠ e) (T : Nat) (more : List (Nat × List Wr)) : (s.landDue k e T more).sub k i = s.sub k i := by
  refine (foldl_keeps (fun t : State => t.sub k i) (fun _ _ => foldl_keeps (fun t : State => t.sub k i) (fun _ _ => land_sub_other hi) _ _) _ _).trans ?_
  rw [sub_setSub, if_neg fun h => hi h.2.symm]

theorem drain_sub_other {i : Nat} (hi : i ≠ e) : (s.drain k e).sub k i = s.sub k i := by
  unfold State.drain
  dsimp only
  rw [sub_setSub, if_neg fun h => hi h.2.symm]
  exact landDue_sub_other s k e hi ..

theorem drain_win : ((s.drain k e).sub k e).win = [] := by
  unfold State.drain
  dsimp only
  rw [sub_setSub_self]

/-! ### The handler's entry clause (R389, R391) -/

/-- It is read from the group's block and its core's trap vector. -/
theorem handlerPc_congr {s t : State} {k : Nat} (hb : (t.blockOf k).rv = (s.blockOf k).rv)
    (hc : (t.core (unitOfGroup k)).tvec = (s.core (unitOfGroup k)).tvec) :
    t.handlerPc k = s.handlerPc k := by
  simp only [State.handlerPc, hb, hc]

theorem handlerPc_setGroup {g : Group} (h : g.block = (s.group k).block) : (s.setGroup k g).handlerPc k = s.handlerPc k :=
  handlerPc_congr (by unfold State.blockOf; rw [group_setGroup_self, h]; rfl) rfl

theorem handlerPc_setSub (x : Sub) : (s.setSub k e x).handlerPc k = s.handlerPc k := handlerPc_setGroup s k rfl

theorem handlerPc_setBlock {b : Nat} {x : Block} (h : x.rv = (s.block b).rv) : (s.setBlock b x).handlerPc k = s.handlerPc k := by
  refine handlerPc_congr ?_ rfl
  change ((s.setBlock b x).block (s.group k).block).rv = _
  rw [block_setBlock]
  split
  · next hb => rw [h, hb]; rfl
  · rfl

theorem wakeReg_blocks (u j : Nat) : (s.wakeReg u j).blocks = s.blocks := by
  unfold State.wakeReg
  dsimp only
  split
  · exact postOnce_blocks ..
  · exact postOnce_blocks ..
  · rfl

theorem wakeReg_tvec (u j v : Nat) : ((s.wakeReg u j).core v).tvec = (s.core v).tvec := by
  have hset (b : Tab Bank) (i : Instr) (arg : EventArg) :
      (((s.setCore u { s.core u with regBank := b }).postOnce i arg).core v).tvec = (s.core v).tvec := by
    rw [State.core, postOnce_cores]
    change ((s.setCore u _).core v).tvec = _
    rw [core_setCore]
    split
    · next h => rw [h]
    · rfl
  unfold State.wakeReg
  dsimp only
  split
  · exact hset ..
  · exact hset ..
  · rfl

theorem handlerPc_wakeReg (u j : Nat) : (s.wakeReg u j).handlerPc k = s.handlerPc k :=
  handlerPc_congr (by unfold State.blockOf State.block State.group; rw [wakeReg_blocks, wakeReg_groups]) (wakeReg_tvec ..)

theorem handlerPc_takeMark (clause pc : Nat) (atHeader : Bool) : (s.takeMark k e clause pc atHeader).handlerPc k = s.handlerPc k := by
  unfold State.takeMark
  split
  · rfl
  · exact handlerPc_setSub ..

theorem handlerPc_commitSub (clause pc : Nat) (atHeader : Bool) : (s.commitSub k e clause pc atHeader).handlerPc k = s.handlerPc k := by
  unfold State.commitSub
  split
  · rfl
  · exact (handlerPc_takeMark ..).trans (handlerPc_setGroup _ k rfl)

theorem handlerPc_land (w : Wr) : (s.land k e w).handlerPc k = s.handlerPc k := by
  obtain ⟨sh, hc⟩ := capture_eq (s.group k) e w
  cases w with
  | s | h | p =>
    simp only [State.land, hc]
    split
    · rfl
    · exact handlerPc_setGroup s k rfl
  | v =>
    simp only [State.land, hc]
    split
    · rfl
    · split <;> exact handlerPc_setGroup s k rfl
  | special n wide x =>
    simp only [State.land, hc]
    refine (handlerPc_setGroup _ k ?_).trans (handlerPc_setGroup s k rfl)
    split <;> rfl
  | m | lfsr | flags | grantReg => simp only [State.land, hc]; exact handlerPc_setGroup s k rfl
  | grantSpm | grantMsl => exact handlerPc_setBlock s k rfl

theorem handlerPc_landDue (T : Nat) (more : List (Nat × List Wr)) : (s.landDue k e T more).handlerPc k = s.handlerPc k :=
  (foldl_keeps (State.handlerPc · k) (fun _ _ => foldl_keeps (State.handlerPc · k) (fun _ _ => handlerPc_land ..) _ _) _ _).trans (handlerPc_setSub ..)

theorem handlerPc_drain : (s.drain k e).handlerPc k = s.handlerPc k := (handlerPc_setSub ..).trans (handlerPc_landDue ..)

theorem handlerPc_wakeOwned : (s.wakeOwned k).handlerPc k = s.handlerPc k := by
  unfold State.wakeOwned
  split
  · exact foldl_keeps (State.handlerPc · k) (fun _ _ => by split <;> [exact handlerPc_wakeReg ..; rfl]) _ _
  · rfl
end

/-! ### The entry to the handler (R388, R389) -/

section
variable (s : State) (k e : Nat) (x : TrapInfo)

/-- Every open region of the group has committed (R388 step 2). -/
def State.regionsCommitted (s : State) (k : Nat) : State :=
  (s.group k).openSubs.foldl (fun s i => s.commitSub k i (s.sub k i).clauseStart (s.sub k i).here (s.sub k i).atHeader) s

/-- The results of the trapped region have landed (R388 step 3). -/
def State.trapDrained (s : State) (k e : Nat) : State :=
  let t := s.regionsCommitted k
  let t := (t.asleep k (t.drainBanks k e)).foldl (fun s j => s.wakeReg (unitOfGroup k) j) t
  (t.setSub k e { t.sub k e with mark := none }).drain k e

theorem regionsCommitted_handler : ((s.regionsCommitted k).group k).handler = (s.group k).handler :=
  foldl_keeps (fun t : State => (t.group k).handler) (fun _ _ => commitSub_handler ..) _ _

theorem regionsCommitted_keeps {α : Type} (p : Sub → α) (hp : ∀ x m, p { x with mark := m } = p x) (i : Nat) :
    p ((s.regionsCommitted k).sub k i) = p (s.sub k i) :=
  foldl_keeps (fun t : State => p (t.sub k i)) (fun _ _ => commitSub_keeps _ k _ p hp ..) _ _

theorem trapDrained_handlerPc : (s.trapDrained k e).handlerPc k = s.handlerPc k := by
  refine (handlerPc_drain ..).trans ((handlerPc_setSub ..).trans ((foldl_keeps (State.handlerPc · k) (fun _ _ => handlerPc_wakeReg ..) _ _).trans ?_))
  exact foldl_keeps (State.handlerPc · k) (fun _ _ => handlerPc_commitSub ..) _ _

theorem trapDrained_keeps_other {α : Type} (p : Sub → α) (hp : ∀ x m, p { x with mark := m } = p x) {i : Nat} (hi : i ≠ e) :
    p ((s.trapDrained k e).sub k i) = p (s.sub k i) := by
  unfold State.trapDrained
  dsimp only
  rw [drain_sub_other _ _ _ hi, sub_setSub, if_neg fun h => hi h.2.symm]
  refine Eq.trans ?_ (regionsCommitted_keeps s k p hp i)
  exact congrArg (fun g : Group => p (g.sub i)) (group_congr (foldl_keeps State.groups (fun _ _ => wakeReg_groups ..) _ _) k)

theorem trapDrained_win : ((s.trapDrained k e).sub k e).win = [] := drain_win ..

/-- The trapped sub-group of group `k` at the handler's entry clause `pc`, with every lane of a block's group. -/
def Sub.entered (y : Sub) (k pc : Nat) : Sub :=
  { y with
    st := 1, lanes := if kindOf k = .control then 1 else 0xFFFFFFFF, clause := none, pc := pc, idx := 0, headerMet := false
    trapTokens := y.tokTaken, tokTaken := false, tokensOnly := false, resumeAt := none, resumeSkip := false, wait := none, elapsed := 0
    stopped := false }

theorem Sub.entered_pc (y : Sub) (k pc : Nat) : (y.entered k pc).pc = pc := rfl
theorem Sub.entered_win (y : Sub) (k pc : Nat) : (y.entered k pc).win = y.win := rfl

/-- It, once the trapped region's results have landed. -/
def State.enteredSub (s : State) (k e : Nat) : Sub := ((s.trapDrained k e).sub k e).entered k ((s.trapDrained k e).handlerPc k)

/-- The group at the entry. -/
def State.enteredGroup (s : State) (k e : Nat) (x : TrapInfo) : Group :=
  { ((s.trapDrained k e).group k).setSub e (s.enteredSub k e) with
    tr := trapRegs k e ((s.regionsCommitted k).group k) x, handler := true, trapping := none, handlerSeq := (s.trapDrained k e).nextId
    codeH := (s.trapDrained k e).hiddenHandle k }

theorem enterHandler_eq : s.enterHandler k e x = ((s.trapDrained k e).setGroup k (s.enteredGroup k e x)).takeMark k e
    ((s.trapDrained k e).handlerPc k) ((s.trapDrained k e).handlerPc k) true := rfl

/-- A mark apart, the entered group is so. -/
theorem enterHandler_group {γ : Type} (p : Group → γ) (hp : ∀ g i y, p (Group.setSub g i y) = p g) :
    p ((s.enterHandler k e x).group k) = p (s.enteredGroup k e x) := by
  rw [enterHandler_eq, takeMark_group _ k e p hp, group_setGroup_self]

theorem enteredGroup_handler : (s.enteredGroup k e x).handler = true := rfl
theorem enteredGroup_trapping : (s.enteredGroup k e x).trapping = none := rfl
theorem enteredGroup_tr : (s.enteredGroup k e x).tr = trapRegs k e ((s.regionsCommitted k).group k) x := rfl

theorem enteredGroup_sub (i : Nat) : (s.enteredGroup k e x).sub i = if e = i then s.enteredSub k e else (s.trapDrained k e).sub k i := by
  unfold State.enteredGroup Group.sub Group.setSub
  dsimp only
  rw [tget_tput]
  rfl

theorem enterHandler_sub {α : Type} (p : Sub → α) (hp : ∀ x m, p { x with mark := m } = p x) (i : Nat) :
    p ((s.enterHandler k e x).sub k i) = p (if e = i then s.enteredSub k e else (s.trapDrained k e).sub k i) := by
  rw [enterHandler_eq, State.sub, takeMark_keeps _ k e p hp, group_setGroup_self, enteredGroup_sub]

theorem enterHandler_sub_self {α : Type} (p : Sub → α) (hp : ∀ x m, p { x with mark := m } = p x) :
    p ((s.enterHandler k e x).sub k e) = p (s.enteredSub k e) :=
  (enterHandler_sub s k e x p hp e).trans (by rw [if_pos rfl])

theorem enterHandler_sub_other {α : Type} (p : Sub → α) (hp : ∀ x m, p { x with mark := m } = p x) {i : Nat} (hi : i ≠ e) :
    p ((s.enterHandler k e x).sub k i) = p (s.sub k i) := by
  rw [enterHandler_sub s k e x p hp, if_neg (Ne.symm hi), trapDrained_keeps_other s k e p hp hi]
end

/-! ### Taking a trap (R386-R388) -/

/-- A trap of a sub-group, with its place: its own, or the word that the sub-group is at. -/
def TrapInfo.placed (x : TrapInfo) (y : Sub) : TrapInfo := { x with pc := some (x.pc.getD y.here), clause := some (x.clause.getD y.clauseStart) }

/-- The trap status word of a trap outside a handler (R386). -/
theorem trapStatus_outside (k e : Nat) (x : TrapInfo) : trapStatus k e false x =
    BitVec.ofNat 32 (x.stop % 16 * 2 ^ 28 + (if kindOf k = .lattice then e else k % 32) % 8 * 2 ^ 25 + x.src % 256 * 2 ^ 16 + x.cause % 256) := by
  unfold trapStatus
  dsimp only
  rw [if_neg Bool.false_ne_true, Nat.add_zero]

section
variable (s : State) (k e : Nat) (x : TrapInfo)

/-- The group has stopped; where a sub-group waited, its banks wake. -/
def State.trapStops (s : State) (k e : Nat) (x : TrapInfo) : State :=
  let t := s.setGroup k { (s.group k).halted with trapping := some (e, x) }
  if (s.group k).subs.any (fun p => p.2.wait.isSome) then t.wakeOwned k else t

theorem trapStops_group : (s.trapStops k e x).group k = { (s.group k).halted with trapping := some (e, x) } := by
  unfold State.trapStops
  dsimp only
  split
  · rw [group_congr (wakeOwned_groups ..), group_setGroup_self]
  · rw [group_setGroup_self]

theorem trapStops_sub {α : Type} (p : Sub → α) (hp : ∀ x : Sub, p x.halted = p x) (i : Nat) : p ((s.trapStops k e x).sub k i) = p (s.sub k i) := by
  unfold State.sub
  rw [trapStops_group]
  exact tget_map_keeps p (f := Sub.halted) hp ..

theorem trapStops_stopped {q : Nat × Sub} (hq : q ∈ (s.group k).subs) : ((s.trapStops k e x).sub k q.1).stopped = true := by
  unfold State.sub
  rw [trapStops_group]
  exact congrArg Sub.stopped (tget_map (f := fun _ => Sub.halted) (.inl (List.mem_map_of_mem hq)))

theorem trapStops_handlerPc : (s.trapStops k e x).handlerPc k = s.handlerPc k := by
  have hset : (s.setGroup k { (s.group k).halted with trapping := some (e, x) }).handlerPc k = s.handlerPc k := handlerPc_setGroup s k rfl
  unfold State.trapStops
  dsimp only
  split
  · exact (handlerPc_wakeOwned ..).trans hset
  · exact hset

variable (hh : (s.group k).handler = false)
include hh

theorem takeTrap_eq : s.takeTrap k e x = if s.canEnter k = true then (s.trapStops k e (x.placed (s.sub k e))).enterHandler k e (x.placed (s.sub k e))
    else (s.trapStops k e (x.placed (s.sub k e))).postOnce .commit { a := k, flag := true } := by
  have hcan := canEnter_setGroup (s := s) (k := k) (g := { (s.group k).halted with trapping := some (e, x.placed (s.sub k e)) })
    (halted_openSubs _) ((s.group k).subs.any fun p => p.2.wait.isSome)
  rw [← hcan]
  unfold TrapInfo.placed State.sub
  rw [← halted_here, ← halted_clauseStart]
  exact if_neg (by rw [hh]; decide)

end

/-! ### What the trap leaves (R386-R389) -/

section
variable (s : State) (k e : Nat) (x : TrapInfo)

/-- The state of a trap that its group's accesses do not hold up: the handler is entered. -/
def State.trapEnters (s : State) (k e : Nat) (x : TrapInfo) : State :=
  (s.trapStops k e (x.placed (s.sub k e))).enterHandler k e (x.placed (s.sub k e))

/-- The state of a trap that waits for them. -/
def State.trapWaits (s : State) (k e : Nat) (x : TrapInfo) : State :=
  (s.trapStops k e (x.placed (s.sub k e))).postOnce .commit { a := k, flag := true }

theorem trapEnters_sub_self {α : Type} (p : Sub → α) (hp : ∀ x m, p { x with mark := m } = p x) :
    p ((s.trapEnters k e x).sub k e) = p ((s.trapStops k e (x.placed (s.sub k e))).enteredSub k e) := enterHandler_sub_self _ k e _ p hp

theorem trapEnters_pc : ((s.trapEnters k e x).sub k e).pc = s.handlerPc k := by
  rw [trapEnters_sub_self s k e x Sub.pc fun _ _ => rfl, State.enteredSub, Sub.entered_pc, trapDrained_handlerPc, trapStops_handlerPc]

theorem trapEnters_win : ((s.trapEnters k e x).sub k e).win = [] := by
  rw [trapEnters_sub_self s k e x Sub.win fun _ _ => rfl, State.enteredSub, Sub.entered_win, trapDrained_win]

theorem trapEnters_stopped {q : Nat × Sub} (hq : q ∈ (s.group k).subs) (hne : q.1 ≠ e) : ((s.trapEnters k e x).sub k q.1).stopped = true := by
  rw [State.trapEnters, enterHandler_sub_other _ k e _ Sub.stopped (fun _ _ => rfl) hne]
  exact trapStops_stopped s k e _ hq

theorem trapEnters_handler : ((s.trapEnters k e x).group k).handler = true := by
  rw [State.trapEnters, enterHandler_group _ k e _ Group.handler fun _ _ _ => rfl, enteredGroup_handler]

theorem trapEnters_trapping : ((s.trapEnters k e x).group k).trapping = none := by
  rw [State.trapEnters, enterHandler_group _ k e _ Group.trapping fun _ _ _ => rfl, enteredGroup_trapping]

/-- The trap registers, the lanes those of the trapped sub-group (R386, R387). -/
theorem trapEnters_tr (hh : (s.group k).handler = false) : ((s.trapEnters k e x).group k).tr =
    { cause := BitVec.ofNat 32 (x.stop % 16 * 2 ^ 28 + (if kindOf k = .lattice then e else k % 32) % 8 * 2 ^ 25 + x.src % 256 * 2 ^ 16 + x.cause % 256)
      pc := BitVec.ofNat 64 (x.pc.getD (s.sub k e).here), clause := BitVec.ofNat 64 (x.clause.getD (s.sub k e).clauseStart)
      amask := (s.sub k e).lanes, fmask := x.fmask, addr := BitVec.ofNat 64 x.addr, addr2 := BitVec.ofNat 64 x.addr2, info := BitVec.ofNat 32 x.info } := by
  have hflag : (((s.trapStops k e (x.placed (s.sub k e))).regionsCommitted k).group k).handler = false := by
    rw [regionsCommitted_handler, trapStops_group]
    exact hh
  have hlanes : ((((s.trapStops k e (x.placed (s.sub k e))).regionsCommitted k).group k).sub e).lanes = (s.sub k e).lanes :=
    (regionsCommitted_keeps _ k Sub.lanes (fun _ _ => rfl) e).trans (trapStops_sub s k e _ Sub.lanes (fun _ => rfl) e)
  rw [State.trapEnters, enterHandler_group _ k e _ Group.tr fun _ _ _ => rfl, enteredGroup_tr, trapRegs, hflag, trapStatus_outside, hlanes]
  rfl

theorem trapWaits_group : (s.trapWaits k e x).group k = { (s.group k).halted with trapping := some (e, x.placed (s.sub k e)) } :=
  (group_congr (postOnce_groups ..) k).trans (trapStops_group ..)

theorem trapWaits_stopped {q : Nat × Sub} (hq : q ∈ (s.group k).subs) : ((s.trapWaits k e x).sub k q.1).stopped = true :=
  (congrArg (fun g : Group => (g.sub q.1).stopped) (group_congr (postOnce_groups ..) k)).trans (trapStops_stopped s k e _ hq)

theorem takeTrap_of_canEnter (hh : (s.group k).handler = false) (hc : s.canEnter k = true) : s.takeTrap k e x = s.trapEnters k e x :=
  (takeTrap_eq s k e x hh).trans (if_pos hc)

theorem takeTrap_of_not_canEnter (hh : (s.group k).handler = false) (hc : s.canEnter k = false) : s.takeTrap k e x = s.trapWaits k e x :=
  (takeTrap_eq s k e x hh).trans (if_neg (by rw [hc]; decide))
end

/-! ### A trap in a handler (R389) -/

section
variable (s : State) (k e : Nat)

theorem raiseVector_groups (v : Nat) : (s.raiseVector v).groups = s.groups := by
  unfold State.raiseVector
  split <;> rfl

theorem reevalEdges_groups : s.reevalEdges.groups = s.groups :=
  foldl_keeps State.groups (fun t _ => by dsimp only; split <;> [split; rfl] <;> simp) _ s

theorem barUpdate_groups (b off : Nat) (u : BarUpdate) : (s.barUpdate b off u).groups = s.groups := postOnce_groups _ _ _

theorem semChanged_groups (n : Nat) : (s.semChanged n).groups = s.groups :=
  (fireList_keeps State.groups barUpdate_groups n _ _ 0).trans (reevalEdges_groups s)

theorem semAdd_groups (n v : Nat) : (s.semAdd n v).groups = s.groups :=
  (semChanged_groups _ n).trans (foldl_keeps State.groups (fun _ _ => by dsimp only; split <;> [exact raiseVector_groups ..; rfl]) _ _)

theorem withRings_groups (r : Tab RecRing) : ({ s with rings := r } : State).groups = s.groups := rfl

theorem record_groups (c kind : Nat) (r : Rec) : (s.record c kind r).groups = s.groups := by
  unfold State.record
  dsimp only
  split
  · rfl
  · rw [semAdd_groups, withRings_groups, write_groups]

theorem takeDouble_group (cause pc : Nat) : let g := (s.takeDouble k e cause pc).group k
    g.doubleTrap = true ∧ g.trapping = none ∧ g.tr = (s.group k).tr := by
  unfold State.takeDouble
  dsimp only
  rw [group_setGroup_self]
  exact ⟨rfl, rfl, (congrArg Group.tr (group_congr (record_groups ..) k) :)⟩

theorem takeTrap_double (x : TrapInfo) (hh : (s.group k).handler = true) :
    s.takeTrap k e x = s.takeDouble k e x.cause (x.pc.getD (s.sub k e).here) := if_pos hh

theorem mem_postOnce (i : Instr) (arg : EventArg) : ({ step := i, arg := arg } : Event) ∈ (s.postOnce i arg).agenda := by
  unfold State.postOnce
  split
  · next h => exact List.contains_iff_mem.1 h
  · exact List.mem_append_right _ (List.mem_singleton_self _)
end

end Sys2Proof.Machine

namespace Sys2Proof.Proofs
open Machine Laws

/-- Settles O59: the group stops; where its regions can commit it enters the handler, where they cannot the entry waits; in a handler the trap
is a double one. -/
theorem trapEntry : Obligations.TrapEntry := by
  unfold Obligations.TrapEntry
  intro s k e x g t pc clause who
  refine ⟨fun hh hc => ?enters, fun hh hc => ?waits, fun hh => ?double⟩
  case enters =>
    obtain ⟨hmem, hhub, hothers⟩ := frame_of_outside (takeTrap_outside s k e x hh)
    have ht : t = s.trapEnters k e x := takeTrap_of_canEnter s k e x hh hc
    refine ⟨?_, ?_, ?_, ?_, ?_, ?_, ?_, ?_, ?_, fun q hq hne => ?_, hmem, hhub, hothers⟩ <;> rw [ht]
    · exact trapEnters_handler ..
    · exact trapEnters_trapping ..
    · exact trapEnters_tr s k e x hh
    · exact trapEnters_sub_self s k e x Sub.st fun _ _ => rfl
    · exact trapEnters_sub_self s k e x Sub.lanes fun _ _ => rfl
    · exact trapEnters_pc ..
    · exact trapEnters_sub_self s k e x Sub.clause fun _ _ => rfl
    · exact trapEnters_win ..
    · exact trapEnters_sub_self s k e x Sub.stopped fun _ _ => rfl
    · exact trapEnters_stopped s k e x hq hne
  case waits =>
    obtain ⟨hmem, hhub, hothers⟩ := frame_of_outside (takeTrap_outside s k e x hh)
    have ht : t = s.trapWaits k e x := takeTrap_of_not_canEnter s k e x hh hc
    refine ⟨?_, ?_, fun q hq => ?_, ?_, hmem, hhub, hothers, ?_⟩ <;> rw [ht]
    · rw [trapWaits_group]
      exact hh
    · rw [trapWaits_group]
      rfl
    · exact trapWaits_stopped s k e x hq
    · rw [trapWaits_group]
      rfl
    · exact mem_postOnce ..
  case double =>
    have ht : t = s.takeDouble k e x.cause pc := takeTrap_double s k e x hh
    rw [ht]
    exact takeDouble_group ..

end Sys2Proof.Proofs
end
